-- ==== Sys2Proof/Syntax.lean ====
section
/-!
DEFINITION. Syntax: the commands of the block. A command is one step of the table of operations and events: a host
or link access, a command of the interface, or an event of one of the block's own units. What the environment
decides (a temperature, a signature's verdict, data that comes back from the host) is an operand.
-/
namespace Sys2Proof

/-- The two access paths to the register file (R597). -/
inductive Path where
  | host | fw
  deriving DecidableEq, Repr

/-- The ring slot that submitted a command: submission ring `sq` (0xFFFF: the mailbox) and slot index (R476). -/
structure CmdSrc where
  sq : Nat
  slot : Nat
  deriving DecidableEq, Repr

/-- An error found in the check bits of one 64-bit word: its word number, whether it is uncorrectable, and the
8-bit check-bit syndrome (R143 to R145). -/
structure EccErr where
  word : Nat
  double : Bool
  syn : Byte
  deriving DecidableEq, Repr

/-- What a read of a ring slot brings back: the slot's 256 bytes, or an end without data (R455, R498). -/
inductive SlotRead where
  | data (bytes : List Byte)
  | ended
  deriving DecidableEq, Repr


/-- Who makes a request of memory (R226, R270, R314): a core's stream engine, a copy engine, a region's fabric
receive path, Bittern, a region's table walker, or the host over CXL.mem. -/
inductive Agent where
  | stream (core : Fin 104)
  | copy (engine : Fin 16)
  | fabric (region : Fin 4)
  | bittern
  | walker (region : Fin 4)
  | host
  deriving DecidableEq, Repr

/-- The operations of R247. -/
inductive AtomOp where
  | add | and | or | xor | smin | smax | umin | umax | swap | cas | fadd | fmin | fmax | radd64
  deriving DecidableEq, Repr

/-- A 128-byte line a core cache may hold (R151): an HBM line by DPA / 128, or a host line by HPA / 128. -/
inductive MemLine where
  | hbm (n : Fin 4294967296)
  | host (n : Fin 35184372088832)
  deriving DecidableEq, Repr

/-- What an access to a stack finds beside its data (R232 to R234): a corrected symbol; an error it cannot correct in
a half of the line (0 or 1); a parity error that a retry cured; one that failed after its retries. -/
inductive HbmErr where
  | clean
  | corrected
  | double (half : Fin 2)
  | retried
  | failed
  deriving DecidableEq, Repr

/-- A request to an HBM controller for one line (R228): a read, a write of bytes from an offset, or a write of the
poison pattern into a half. -/
inductive HbmReq where
  | read
  | write (off : Fin 128) (bytes : List Byte)
  | spoil (half : Fin 2)
  deriving DecidableEq, Repr

/-- What an access to a slice, or to a core cache, finds (R245, R154): a single-bit data error, an uncorrectable data
error, a tag error, or a tag error on a line whose data is uncorrectable. -/
inductive SliceErr where
  | clean
  | single
  | double
  | tag
  | tagDouble
  deriving DecidableEq, Repr

/-- A parity error of R309: line data, a tag, fill buffer data, an eviction-buffer address, or write-through data. -/
inductive DcErr where
  | clean
  | data
  | tag
  | fill
  | evict
  | writeThrough
  deriving DecidableEq, Repr

/-- What the host returns for a 64-byte line (by HPA / 64): its bytes, or an end without data (R455). -/
structure HostFill where
  line : Nat
  data : Option (List Byte)
  deriving DecidableEq, Repr

/-- Link events (R463): a retrain and the modules it ends on, link down on every module, a Hot Reset. -/
inductive LinkKind where
  | retrain (mods : Fin 16)
  | down
  | hotReset
  deriving DecidableEq, Repr

/-- A request whose completion timeout passes (R455): a CXL.io read by its tag; a fill, a write or an eviction by its
line. -/
inductive CplReq where
  | io (tag : Fin 1024)
  | evict (line : Fin 70368744177664)
  | fill (line : Fin 70368744177664)
  | write (line : Fin 70368744177664)
  deriving DecidableEq, Repr

/-- What VerifyComplete finds of a delivered component (R542, R543, R626): a firmware set with the verdicts on its signature
under the named key slot and on its image digests, its SVN, key slot and flags; a revocation manifest with its key slot
and the slots it revokes; or option bytes. -/
inductive Component where
  | set (signed digests : Bool) (svn : Byte) (key : Fin 4) (approved raising : Bool)
  | revoke (signed : Bool) (key : Fin 4) (slots : BitVec 4)
  | options (bytes : List Byte)
  deriving DecidableEq, Repr

/-- What Sedge finds in a whole message of a lode's exchange (R624): the partner's certificate chain with its role bit and
identifier; the KEM key; the ciphertext with its signature; the initiator's signature. -/
inductive AuthMsg where
  | cert (accepted switch : Bool) (id : BitVec 18)
  | kemInit
  | kemResp (signed : Bool)
  | kemFin (signed : Bool)
  deriving DecidableEq, Repr


/-- What a compute engine's own checks find in a trick (R20): nothing, a residue that fails, or a parity error on its
operand latches or decoded fields. -/
inductive EngFault where
  | clean
  | residue
  | parity
  deriving DecidableEq, Repr

/-- The clock monitors of R584. A lode's has its number; a UCIe module's has its number and the modules the link trains on
after it. -/
inductive ClockMon where
  | refclk
  | uncore
  | fabric (region : Fin 4)
  | core (region : Fin 4) (second : Bool)
  | hbm (stack : Fin 8)
  | round
  | aon
  | lode (lode : Fin 16)
  | ucie (module : Fin 4) (left : Fin 16)
  deriving DecidableEq, Repr

/-- The commands of the block: one constructor per row of the table of operations and events. -/
inductive Instr where
  /-- ROUND_MARK (R41): A Round mark arrives on a lode, is classified and used for steering, epoch adoption and state changes of the Round unit. -/
  | roundMark (lode : Fin 16) (arrive : BitVec 17) (bad : Bool)
  /-- ROUND_BOUNDARY (R56): The Round period ends: the counter advances, trace stamps, Heron applies grants and activations, and sequencers release Round waits and evaluate deadlines. -/
  | roundBoundary
  /-- MISSING_MARK (R50): No mark arrives by 16 ns after a local boundary; the miss is counted and consecutive misses move to the backup lode or leave no lode to steer by. -/
  | missingMark
  /-- HOLDOVER_LIMIT (R48): HOLD.LIMIT Rounds elapse in HOLDOVER and the unit enters UNALIGNED, reporting ROUND_UNALIGNED. -/
  | holdoverLimit
  /-- STANDBY_TAKEOVER (R51): A standby master of rank k stays in HOLDOVER or UNALIGNED for (k+1) x WAIT Rounds and takes over with a new epoch. -/
  | standbyTakeover
  /-- DELAY_EXCHANGE (R44): Every 16 Rounds the Round unit sends a delay request on each trained lode that has an upstream partner. -/
  | delayExchange (t1 : List (Fin 16 × BitVec 56))
  /-- DELAY_REQ (R389): A partner receives a DELAY_REQ and answers with t2 and t3 within 2 us. -/
  | delayReq (lode : Fin 16) (t2 t3 : BitVec 56)
  /-- DELAY_RSP (R44): A DELAY_RSP arrives and the Round unit computes delay and offset, filters it and updates the mean delay. -/
  | delayRsp (lode : Fin 16) (t4 : BitVec 56)
  /-- DELAY_RSP_TIMEOUT (R389): A request has no response after 4 x RTT_MAX and gives no measurement. -/
  | delayRspTimeout (lode : Fin 16)
  /-- REFERENCE_WINDOW (R40): A 1 ms measurement window of RND_REF10M ends and the input is found accepted or not. -/
  | referenceWindow (accepted : Bool)
  /-- PPS_EDGE (R40): A rising edge of RND_PPS is stamped with the Round and offset. -/
  | ppsEdge
  /-- ROUND_CTL (R59): A guarded write to ROUND.CTL is checked, committed or refused, and may move the unit out of or into OFF. -/
  | roundCtl (path : Path) (comp : Word)
  /-- ARITH_FLAGS_WRITE (R116): A masked write sets or clears selected bits of an ARITH flag word. -/
  | arithFlagsWrite (path : Path) (core : Fin 104) (engine : Fin 4) (value : Word)
  /-- NOP (R161): The NOP trick issues and does nothing. -/
  | nop (core : Fin 104)
  /-- HALT (R187): The HALT trick ends issue on its core at any depth. -/
  | halt (core : Fin 104)
  /-- TFENCE (R192): TFENCE waits for every write entry to be freed, empties the fetch window and captures again. -/
  | tfence (core : Fin 104)
  /-- LOOP (R181): LOOP pushes a loop entry with its start row, count and index 0. -/
  | loop (core : Fin 104)
  /-- ENDLOOP (R181): ENDLOOP advances the top loop index and either jumps to the start row or pops the loop. -/
  | endloop (core : Fin 104)
  /-- CALL (R181): CALL pushes the return row and transfers to the sub-table. -/
  | call (core : Fin 104)
  /-- RET (R181): RET pops a return row and transfers to it. -/
  | ret (core : Fin 104)
  /-- MM (R171): A matrix trick issues to its matrix engine queue with its operands, extents, accumulator start and output control. -/
  | mm (core : Fin 104) (errs : List EccErr)
  /-- VEC (R173): A vector trick issues to its vector engine queue with the function selected by FN. -/
  | vec (core : Fin 104) (errs : List EccErr)
  /-- TU (R176): A transcendental trick issues to the transcendental unit with the function selected by FN. -/
  | tu (core : Fin 104) (errs : List EccErr)
  /-- STAGE_IN (R130): A stream trick reads a tile from memory and writes it to core store, converting or transposing as specified. -/
  | stageIn (core : Fin 104) (errs : List EccErr)
  /-- STAGE_OUT (R130): A stream trick reads a tile from core store and writes it to memory. -/
  | stageOut (core : Fin 104) (errs : List EccErr)
  /-- GATHER (R178): A stream trick reads memory rows named by an index list into consecutive core store rows. -/
  | gather (core : Fin 104) (errs : List EccErr)
  /-- SCATTER (R178): A stream trick writes consecutive core store rows to memory rows named by an index list. -/
  | scatter (core : Fin 104) (errs : List EccErr)
  /-- COPY_LOCAL (R130): A stream trick copies a tile within core store. -/
  | copyLocal (core : Fin 104) (errs : List EccErr)
  /-- INDEX_LANE_FAULT (R162): A running GATHER or SCATTER reaches an out-of-range or poisoned index lane and takes the sequencer fault GATHER or POISON. -/
  | indexLaneFault (core : Fin 104) (cc : List (Fin 4096 × SliceErr)) (fills : List HostFill)
  /-- ENQ (R185): ENQ hands a descriptor list in core store to a copy engine or the fabric transmit path. -/
  | enq (core : Fin 104)
  /-- PWAIT (R184): PWAIT registers the core as waiter and holds issue until the peg is ready. -/
  | pwait (core : Fin 104)
  /-- PSIG (R184): PSIG signals a local peg or hands a peg message to the fabric transmit path. -/
  | psig (core : Fin 104)
  /-- PARM (R184): PARM arms a peg with a target. -/
  | parm (core : Fin 104)
  /-- PRESET (R184): PRESET resets a peg. -/
  | preset (core : Fin 104)
  /-- RWAIT (R182): RWAIT holds issue until Round base + offset has begun. -/
  | rwait (core : Fin 104)
  /-- DEADLINE (R183): DEADLINE waits on a peg with a deadline Round, continuing if met and calling the fallback if missed. -/
  | deadline (core : Fin 104)
  /-- PHASE (R186): PHASE sends the context's requested operating point to Heron without waiting. -/
  | phase (core : Fin 104)
  /-- TMARK (R186): TMARK emits one trace record with tag and value. -/
  | tmark (core : Fin 104)
  /-- ENGINE_TRICK_START (R117): An engine becomes free and starts the next trick in its issue queue. -/
  | engineTrickStart (core : Fin 104) (engine : Fin 8) (errs : List EccErr)
  /-- TRICK_COMPLETE (R179): An engine trick's last write lands; range entries are freed and SIG_PEG is signalled. -/
  | trickComplete (core : Fin 104) (engine : Fin 8) (fault : EngFault) (cc : List (Fin 4096 × SliceErr)) (fills : List HostFill)
  /-- ROW_CAPTURE (R190): The sequencer captures a group of rows into its fetch window once no overlapping write entry holds it back. -/
  | rowCapture (core : Fin 104) (errs : List EccErr)
  /-- HALTED (R187): A core that issued HALT has every trick completed and every SIG signalled and reports HALTED. -/
  | halted (core : Fin 104)
  /-- PREEMPTION_BOUNDARY (R195): A pending preemption takes effect at the next row boundary; issued tricks drain and the stream engine stops at its restart row. -/
  | preemptionBoundary (core : Fin 104) (rows : Nat) (cc : List (Fin 4096 × SliceErr)) (fills : List HostFill)
  /-- CLOCK_STOP_ENTRY (R155): A core waiting with idle engines for 256 cycles enters CLOCK_STOP. -/
  | clockStopEntry (core : Fin 104)
  /-- CLOCK_STOP_EXIT (R156): A core in CLOCK_STOP waiting on a Round starts its exit 16 core cycles before the boundary. -/
  | clockStopExit (core : Fin 104)
  /-- CORE_INIT_DONE (R150): After 1,040 cycles of clearing core store a core leaves INIT for RUN. -/
  | coreInitDone (core : Fin 104)
  /-- CORRECTING_WRITE_BACK (R144): A corrected core store word is written back in a cycle when no class requests the bank. -/
  | correctingWriteBack (core : Fin 104)
  /-- ROW_REMAP (R148): A bank remaps a failing row to a spare row by copying its 16 words in idle cycles. -/
  | rowRemap (core : Fin 104)
  /-- CORE_STORE_SCRUB (R149): Every INTERVAL core cycles scrub reads one row of each bank and corrects errors. -/
  | coreStoreScrub (core : Fin 104) (errs : List EccErr)
  /-- PEG_OPERATIONS (R211): All operations reaching a peg in one fabric cycle are applied in order and readiness is evaluated. -/
  | pegOperations (peg : Fin 32768) (n : Nat) (err : Option Bool)
  /-- PEG_READY_WAKE (R218): Readiness of a peg reaches a waiter, releasing a sequencer, gated descriptor or launch gate. -/
  | pegReadyWake (index : Nat)
  /-- HBM_REQUEST (R228): A line request reaches an HBM controller and is served, with correction, poisoning and parity retry. -/
  | hbmRequest (line : Fin 4294967296) (req : HbmReq) (err : HbmErr) (ctx : Option (Fin 64))
  /-- HBM_REFRESH (R229): The controller issues refresh at the rate the stack indicates for its temperature. -/
  | hbmRefresh (stack : Fin 8)
  /-- LANE_REPAIR (R235): A lane with 16 parity errors in 1 ms is failing; the controller stops the channel and remaps the lane. -/
  | laneRepair (stack : Fin 8) (channel : Fin 32) (lane : Byte) (spare : Option Byte)
  /-- LANE_REPAIR_DONE (R235): The channel is retrained and issue resumes after a lane repair. -/
  | laneRepairDone (stack : Fin 8)
  /-- PATROL_SCRUB (R237): Every SCRUB_INT microseconds the controller reads the next line of its populated range. -/
  | patrolScrub (stack : Fin 8) (err : HbmErr)
  /-- SPPR (R238): The controller starts soft post-package repair of a candidate row, holding its bank and buffering its lines. -/
  | sppr (stack : Fin 8)
  /-- SPPR_DONE (R238): The soft repair writes the row back onto its spare row and resumes issue to the bank. -/
  | spprDone (stack : Fin 8) (spare : Bool)
  /-- STACK_TEMPERATURE_READ (R253): Every 10 us the controller reads the stack temperature and sets the throttle level. -/
  | stackTemperatureRead (stack : Fin 8) (temp : Byte)
  /-- REGULATOR_PERIOD (R250): At each 64 ns period every SC and HBM bucket gains RATE tokens capped at BURST. -/
  | regulatorPeriod
  /-- PAGE_WALK (R268): A region TLB miss starts a walk of the segment's page tables, installing an entry or raising a fault. -/
  | pageWalk (agent : Agent) (ctx : Fin 64) (dva : BitVec 48) (acc : Fin 4) (pos : DWord) (prefetch : Bool)
  /-- TRANSLATION_FAULT (R278): A translation fault reaches Bittern's fault record; the requester stops at its restart position and the context is suspended. -/
  | translationFault (n : Nat)
  /-- INVALIDATION_MARK (R282): An invalidation admitted under the limit of 8 removes overlapping entries from every TLB and walk cache. -/
  | invalidationMark
  /-- INVALIDATION_DRAIN (R282): Every request translated before the mark has completed and the invalidation command completes. -/
  | invalidationDrain (n : Nat)
  /-- DC_READ (R295): A read reaches the device cache and hits or misses, issuing a CXL.cache request under its hint. -/
  | dcRead (agent : Agent) (line : Fin 70368744177664) (hint : Fin 4) (cls : Fin 9) (err : DcErr)
  /-- DC_WRITE (R297): A write reaches the device cache, merges on a hit, invalidates core copies and enters the write-through buffer. -/
  | dcWrite (line : Fin 70368744177664) (off : Fin 64) (bytes : List Byte) (owner : Agent) (ctx : Option (Fin 64)) (cls : Fin 9) (err : DcErr)
  /-- ZERO_LINE (R299): A zero-line operation writes a line of zeros, allocating on a miss once global observation returns. -/
  | zeroLine (line : Fin 70368744177664) (cls : Fin 9)
  /-- FILL_CHUNK (R295): A 32-byte chunk of a fill arrives from the host, is forwarded early and installs the line when complete. -/
  | fillChunk (line : Fin 70368744177664) (high : Bool) (data : List Byte)
  /-- GLOBAL_OBSERVATION (R298): The host returns global observation for a write and the write-through entry is acknowledged when delivery is confirmed. -/
  | globalObservation (line : Fin 70368744177664)
  /-- CLEAN_EVICT_DONE (R303): The host completes CleanEvictNoData and back-invalidations end, freeing the eviction-buffer entry. -/
  | cleanEvictDone (line : Fin 70368744177664)
  /-- HOST_SNPINV (R304): A host SnpInv removes the line after invalidating core copies and is answered. -/
  | hostSnpinv (line : Fin 70368744177664)
  /-- HOST_SNPDATA (R304): A host SnpData is answered without data, keeping the line. -/
  | hostSnpdata (line : Fin 70368744177664)
  /-- HOST_SNPCUR (R304): A host SnpCur is answered without data, keeping the line. -/
  | hostSnpcur (line : Fin 70368744177664)
  /-- DC_INIT_SWEEP (R305): The INIT sweep finishes invalidating all sets and the device cache enters RUN. -/
  | dcInitSweep
  /-- RDS (R319): A core cache's read-for-sharing reaches the home, which snoops as needed and grants E or S. -/
  | rds (core : Fin 104) (epoch : Byte) (line : MemLine) (hint : Fin 4) (err : SliceErr)
  /-- RDO (R319): A read-for-ownership reaches the home, which invalidates others and grants M with data. -/
  | rdo (core : Fin 104) (epoch : Byte) (line : Fin 4294967296) (hint : Fin 4) (off : Fin 128) (bytes : List Byte) (err : SliceErr)
  /-- OWNND (R319): An ownership request without data invalidates others and grants M. -/
  | ownnd (core : Fin 104) (epoch : Byte) (line : Fin 4294967296) (hint : Fin 4) (bytes : List Byte)
  /-- UPG (R319): An upgrade from S to M invalidates others, or is served as RdO if the copy was lost. -/
  | upg (core : Fin 104) (epoch : Byte) (line : Fin 4294967296) (off : Fin 128) (bytes : List Byte)
  /-- DIRTYN (R321): A core cache's first write to an E line is announced to its directory and acknowledged after 4 cycles. -/
  | dirtyn (core : Fin 104) (epoch : Byte) (line : Fin 4294967296) (off : Fin 128) (bytes : List Byte)
  /-- EVC (R319): A clean line dropped by a core cache is recorded at the home. -/
  | evc (core : Fin 104) (epoch : Byte) (line : MemLine)
  /-- WBM (R319): A dirty line written back makes the slice line dirty. -/
  | wbm (core : Fin 104) (epoch : Byte) (line : Fin 4294967296)
  /-- NCRD (R324): A non-caching read is served at the home, snooping an M holder for current data. -/
  | ncrd (agent : Agent) (ctx : Option (Fin 64)) (line : Fin 8589934592) (hint : Fin 4) (cls : Fin 9) (err : SliceErr)
  /-- NCWR (R324): A non-caching write invalidates holders and is written or merged into the slice. -/
  | ncwr (agent : Agent) (ctx : Option (Fin 64)) (line : Fin 8589934592) (hint : Fin 4) (cls : Fin 9) (off : Fin 128) (bytes : List Byte)
  /-- NCAT (R325): An atomic or reduction reaches the home and is placed near or far and applied. -/
  | ncat (agent : Agent) (ctx : Option (Fin 64)) (line : Fin 8589934592) (hint : Fin 4) (cls : Fin 9) (op : AtomOp) (wide : Bool) (off : Fin 128) (cmp : DWord) (value : List Byte) (near : Option (Fin 104))
  /-- SNPINV (R317): A home snoop invalidates a core-cache copy, with M returning data. -/
  | snpinv (core : Fin 104) (line : Fin 4294967296)
  /-- SNPSHR (R317): A home snoop downgrades an E or M copy to S, with M returning data. -/
  | snpshr (core : Fin 104) (line : Fin 4294967296)
  /-- SNPCUR (R317): A home snoop asks an M holder for data without changing state. -/
  | snpcur (core : Fin 104) (line : Fin 4294967296)
  /-- GRANT (R320): A grant reaches the requester, which installs the line and starts its ownership hold. -/
  | grant (core : Fin 104) (line : MemLine)
  /-- COHERENCE_ACK (R318): The requester's Ack reaches the home, closing the transaction and clearing BLK. -/
  | coherenceAck (core : Fin 104) (epoch : Byte) (line : Fin 4294967296)
  /-- HOLD_EXPIRY (R320): 64 fabric cycles after a grant the core cache answers its deferred snoops. -/
  | holdExpiry (core : Fin 104) (line : Fin 4294967296)
  /-- SNOOP_TIMEOUT (R323): An unanswered snoop times out; the directory answers it and the core is fenced. -/
  | snoopTimeout (core : Fin 104) (line : Fin 4294967296)
  /-- RECLAIM_WALK_END (R327): The reclamation walk of a fenced core ends and COH_RECLAIM_POISON is reported if any line was poisoned. -/
  | reclaimWalkEnd (region : Fin 4)
  /-- LIST_ACCEPT (R337): An engine reserves a list-table entry and units and copies a list into its descriptor store. -/
  | listAccept (core : Fin 104) (errs : List EccErr)
  /-- LIST_START (R338): An engine with a free place starts the oldest accepted list whose context is free and not suspended. -/
  | listStart (engine : Fin 20)
  /-- NOP_DESCRIPTOR (R344): A NOP descriptor does nothing and completes at once. -/
  | nopDescriptor (engine : Fin 20) (list : Fin 64)
  /-- FENCE_DESCRIPTOR (R344): A FENCE descriptor holds later writes until earlier writes of the list complete. -/
  | fenceDescriptor (engine : Fin 20) (list : Fin 64)
  /-- COPY (R343): A COPY descriptor copies bytes between DVAs in chunks. -/
  | copy (engine : Fin 16) (list : Fin 64) (chunks : Nat) (fills : List HostFill)
  /-- ZERO (R343): A ZERO descriptor writes zeros over a destination range. -/
  | zero (engine : Fin 16) (list : Fin 64) (chunks : Nat)
  /-- INLINE (R342): An INLINE descriptor writes its in-line data to a destination. -/
  | inline (engine : Fin 16) (list : Fin 64)
  /-- ATOMIC (R345): An ATOMIC descriptor performs one memory atomic or RADD64 and optionally writes the old value. -/
  | atomic (engine : Fin 16) (list : Fin 64) (fills : List HostFill)
  /-- CONVERT (R347): A CONVERT descriptor converts elements between formats. -/
  | convert (engine : Fin 16) (list : Fin 64) (chunks : Nat) (fills : List HostFill)
  /-- SILT_L_ENC (R354): A Silt-L encoder codes source bytes into a lossless exponent-plane stream. -/
  | siltLEnc (engine : Fin 16) (list : Fin 64) (chunks : Nat) (fills : List HostFill)
  /-- SILT_L_DEC (R356): A Silt-L decoder checks and decodes a stream frame by frame. -/
  | siltLDec (engine : Fin 16) (list : Fin 64) (chunks : Nat) (fills : List HostFill)
  /-- SILT_Z_ENC (R357): A Silt-Z encoder compacts zero runs of 8-byte words. -/
  | siltZEnc (engine : Fin 16) (list : Fin 64) (chunks : Nat) (fills : List HostFill)
  /-- SILT_Z_DEC (R357): A Silt-Z decoder expands zero-run tokens frame by frame. -/
  | siltZDec (engine : Fin 16) (list : Fin 64) (chunks : Nat) (fills : List HostFill)
  /-- SILT_Q_ENC (R360): A Silt-Q encoder requantises elements into block format with exact residual feedback. -/
  | siltQEnc (engine : Fin 16) (list : Fin 64) (chunks : Nat) (fills : List HostFill)
  /-- SILT_Q_DEC (R362): A Silt-Q decoder writes the stream's block values into the destination format. -/
  | siltQDec (engine : Fin 16) (list : Fin 64) (chunks : Nat) (fills : List HostFill)
  /-- DESCRIPTOR_COMPLETE (R339): Every write of a descriptor completes; it signals its SIG and the list may end. -/
  | descriptorComplete (engine : Fin 20) (list : Fin 64) (desc : Byte)
  /-- PROBE_BURST (R380): The backoff interval ends and a lode in PROBE sends a 1 us probe burst. -/
  | probeBurst (lode : Fin 16)
  /-- LIGHT_DETECT (R380): Light above threshold on a receive lane moves a probing lode to TRAIN. -/
  | lightDetect (lode : Fin 16)
  /-- TRAIN_TIMEOUT (R381): A lode in TRAIN has not completed within 4 ms and returns to PROBE. -/
  | trainTimeout (lode : Fin 16)
  /-- TRAIN_INFO (R381): A TRAIN_INFO message sets the transmit width; exchanged both ways it ends training. -/
  | trainInfo (lode : Fin 16)
  /-- AUTH (R402): An AUTH fragment of the mutual exchange is received and assembled. -/
  | auth (lode : Fin 16) (msg : AuthMsg)
  /-- KEYS_INSTALLED (R402): Sedge installs the link keys and the lode enters ACTIVE, recording the partner identity. -/
  | keysInstalled (lode : Fin 16)
  /-- AUTH_TIMEOUT (R402): The exchange does not complete within 100 ms; the lode goes DARK then PROBE. -/
  | authTimeout (lode : Fin 16)
  /-- DATA_BLOCK (R391): A data block arrives, is decoded and verified, and delivered in order or NAKed. -/
  | dataBlock (lode : Fin 16) (header : BitVec 40) (errs : List (Fin 544)) (tagOk nakDue : Bool) (slots : List Byte)
  /-- CONTROL_BLOCK (R401): A control block arrives and is checked for CCTR and tag before its messages are processed. -/
  | controlBlock (lode : Fin 16) (header : BitVec 40) (errs : List (Fin 544)) (tagOk nakDue : Bool) (cctr : DWord) (msgs : List (Word × QWord))
  /-- TRAINING_BLOCK (R386): A training block arrives in TRAIN or AUTH and its messages are processed. -/
  | trainingBlock (lode : Fin 16) (header : BitVec 40) (errs : List (Fin 544)) (msgs : List (Word × QWord))
  /-- BLOCK_BOUNDARY (R392): At each block boundary the sender chooses a mark, control, resend, data or empty block. -/
  | blockBoundary (lode : Fin 16) (fill : Option Byte)
  /-- WIDTH_REQ (R396): A WIDTH_REQ makes the sender end its block and send a marker set at the new width. -/
  | widthReq (lode : Fin 16)
  /-- KEY_SWITCH (R403): A KEY_SWITCH names the block numbers from which a new key takes effect. -/
  | keySwitch (lode : Fin 16)
  /-- QUARANTINE_NOTICE (R387): A QUARANTINE_NOTICE from the partner carries its quarantine cause. -/
  | quarantineNotice (lode : Fin 16)
  /-- MARKER_SET (R394): A valid marker set is found and the receiver decodes at its width and group. -/
  | markerSet (lode : Fin 16) (width : Fin 4) (group : Fin 8) (stray : Bool)
  /-- NAK_TIMEOUT (R391): NAK has been held for RTT_MAX without block E arriving and is set once more. -/
  | nakTimeout (lode : Fin 16)
  /-- REPLAY_TIMEOUT (R391): ACK has not advanced for 4 x RTT_MAX; the sender resends, and after 8 timeouts retrains. -/
  | replayTimeout (lode : Fin 16)
  /-- LANE_LOCK_LOSS (R396): A receive lane loses lock; the receiver NAKs, chooses a narrower width and sends WIDTH_REQ. -/
  | laneLockLoss (lode : Fin 16) (lane : Fin 8)
  /-- LANE_DEGRADED (R396): A lane exceeds the corrected-symbol threshold in one millisecond and becomes DEGRADED. -/
  | laneDegraded (lode : Fin 16) (lane : Fin 8)
  /-- LASER_MONITOR_LOW (R396): The sender's laser monitor finds a lane below -5.0 dBm and narrows unprompted. -/
  | laserMonitorLow (lode : Fin 16) (lane : Fin 8)
  /-- LANE_RETRY (R397): Every LANE_RETRY ms the receiver retrains unusable lanes and requests widening when they pass. -/
  | laneRetry (lode : Fin 16)
  /-- WIDTH_REQ_TIMEOUT (R398): No marker set of the requested width arrives in 4 x RTT_MAX; the request is repeated or a retrain starts. -/
  | widthReqTimeout (lode : Fin 16)
  /-- HEADER_LOSS (R399): No block header is decoded for 1 us and an in-session retrain starts. -/
  | headerLoss (lode : Fin 16)
  /-- QUARANTINE_WINDOW (R405): A quarantine counting window of WIN ms ends and the counts restart. -/
  | quarantineWindow (lode : Fin 16)
  /-- QUARANTINE_HOLD_END (R405): The quarantine hold ends and an unlatched lode enters PROBE. -/
  | quarantineHoldEnd (lode : Fin 16)
  /-- LODE_POWER_DOWN (R593): After 1 s in DARK with ENABLE 0 the lode's power domain is switched off. -/
  | lodePowerDown (lode : Fin 16)
  /-- WRITE (R423): A WRITE packet passes ingress checks and its payload is written through the handle. -/
  | write (region : Fin 4)
  /-- READ_REQ (R428): A READ_REQ is checked and answered with READ_RSP packets on the return side. -/
  | readReq (region : Fin 4)
  /-- READ_RSP (R428): A READ_RSP with an outstanding tag is written at the requester's local destination. -/
  | readRsp (region : Fin 4)
  /-- REDUCE (R436): A REDUCE packet's elements are added into the accumulator by RADD64. -/
  | reduce (region : Fin 4)
  /-- REDUCE_Q (R436): A REDUCE_Q packet's Silt-Q blocks are decoded, entered at the handle's exponent and added by RADD64. -/
  | reduceQ (region : Fin 4)
  /-- PEG_SIG (R216): A PEG_SIG packet signals a partition-relative peg after earlier writes of the connection complete. -/
  | pegSig (region : Fin 4)
  /-- ACK (R419): An ACK releases covered packets, returns credit and ends descriptors with their status. -/
  | ack (region : Fin 4)
  /-- E2E_TIMEOUT (R420): UNACK has not moved for E2E_TO; held packets are resent and TIMEOUTS may reach BROKEN. -/
  | e2eTimeout (conn : Fin 4096)
  /-- NO_LODE_TIMEOUT (R413): No lode of LODES is ACTIVE for RETRY_MAX x E2E_TO and the connection becomes BROKEN. -/
  | noLodeTimeout (conn : Fin 4096)
  /-- TXRATE_PERIOD (R415): Each 64 ns the partition's transmit rate bucket gains RATE slots up to BURST. -/
  | txratePeriod (region : Fin 4) (part : Fin 8)
  /-- FSEND (R431): An FSEND descriptor sends local bytes as WRITE packets. -/
  | fsend (region : Fin 4) (list : Fin 64) (chunks : Nat)
  /-- FGET (R431): An FGET descriptor sends READ_REQ packets and writes responses locally. -/
  | fget (region : Fin 4) (list : Fin 64) (chunks : Nat)
  /-- FREDUCE (R431): An FREDUCE descriptor enters elements at E and sends REDUCE lines. -/
  | freduce (region : Fin 4) (list : Fin 64) (chunks : Nat)
  /-- FREDUCE_Q (R431): An FREDUCE_Q descriptor encodes with residual and sends REDUCE_Q packets. -/
  | freduceQ (region : Fin 4) (list : Fin 64) (chunks : Nat)
  /-- FSIG (R431): An FSIG descriptor sends one PEG_SIG. -/
  | fsig (region : Fin 4) (list : Fin 64) (chunks : Nat)
  /-- FFINISH (R431): An FFINISH descriptor converts reduction elements locally and optionally clears them. -/
  | ffinish (region : Fin 4) (list : Fin 64) (chunks : Nat)
  /-- PLACEMENT_WRITE (R440): A CXL.io write to HDM is accepted only within a registered window, signalling the peg at its doorbell line. -/
  | placementWrite (req : Half) (hpa : BitVec 52) (bytes : List Byte)
  /-- MEMRD (R451): A host MemRd is served as a non-caching read with MetaValue per bias. -/
  | memrd (line : Fin 70368744177664) (meta_ : Fin 4)
  /-- MEMRDDATA (R451): A host MemRdData is served as a non-caching read. -/
  | memrddata (line : Fin 70368744177664) (meta_ : Fin 4)
  /-- MEMRDFWD (R451): A host MemRdFwd completing a block request is served without waiting for BLK. -/
  | memrdfwd (line : Fin 70368744177664) (meta_ : Fin 4)
  /-- MEMWR (R451): A host MemWr is served as a non-caching write. -/
  | memwr (line : Fin 70368744177664) (bytes : List Byte)
  /-- MEMWRPTL (R451): A host MemWrPtl is merged as a non-caching partial write. -/
  | memwrptl (line : Fin 70368744177664) (be : BitVec 64) (bytes : List Byte)
  /-- MEMWRFWD (R451): A host MemWrFwd completing a block request is served without waiting for BLK. -/
  | memwrfwd (line : Fin 70368744177664) (bytes : List Byte)
  /-- MEMINV (R451): A host MemInv completes with MetaValue per bias and moves no data. -/
  | meminv (line : Fin 70368744177664) (meta_ : Fin 4)
  /-- MEMINVNT (R451): A host MemInvNT completes with MetaValue per bias and moves no data. -/
  | meminvnt (line : Fin 70368744177664) (meta_ : Fin 4)
  /-- MEMSPECRD (R451): A host MemSpecRd is dropped. -/
  | memspecrd (line : Fin 70368744177664)
  /-- UNSUPPORTED_REQUEST (R443): An unlisted host opcode is handled as unsupported and counted. -/
  | unsupportedRequest
  /-- CONFIG_REQUEST (R446): A configuration read or write to the function's configuration space is served. -/
  | configRequest (dw : Fin 1024) (write : Option Word) (be : BitVec 4)
  /-- DECODER_COMMIT (R449): A commit of an HDM decoder succeeds or sets Error Not Committed. -/
  | decoderCommit (n : Fin 8) (base size skip : DWord) (ways : Fin 16) (lock : Bool)
  /-- D3HOT_WRITE (R460): A write of D3hot to PowerState takes effect only while no context exists. -/
  | d3hotWrite
  /-- HOST_COMPLETION (R455): A CXL.io completion for an outstanding read arrives, or is discarded as unexpected. -/
  | hostCompletion (tag : Fin 1024) (slot : SlotRead)
  /-- COMPLETION_TIMEOUT (R455): A CXL.io or CXL.cache request reaches its completion timeout and ends without data. -/
  | completionTimeout (req : CplReq)
  /-- L1_ENTRY (R460): After L1_IDLE us of idleness the link enters ASPM L1. -/
  | l1Entry
  /-- VECTOR_UNMASK (R459): A masked vector with a pending event is unmasked and its message is sent. -/
  | vectorUnmask (vector : Fin 2048)
  /-- LINK_EVENT (R463): A retrain, link down, Hot Reset or enable cleared moves the host link to HOLD. -/
  | linkEvent (kind : LinkKind)
  /-- HOST_LOSS (R463): A host complex reset on the sideband causes abandonment and DETACHED. -/
  | hostLoss
  /-- VIRAL_RECEIVED (R462): Viral from the host is recorded and treated as a host loss. -/
  | viralReceived
  /-- LINK_RETURN (R464): The link returns to L0 without configuration reset and held traffic is released. -/
  | linkReturn (mods : Fin 16)
  /-- HOLD_TIMEOUT (R464): HOLD ms elapse without release and abandonment begins. -/
  | holdTimeout
  /-- SQ_DB (R471): A submission-ring doorbell write sets a new TAIL or is ignored and counted. -/
  | sqDb (q : Fin 256) (value : Word) (stream : Fin 9)
  /-- CQ_DB (R474): A completion-ring doorbell write sets a new HEAD, freeing record space. -/
  | cqDb (c : Fin 256) (value : Word) (stream : Fin 9)
  /-- MBOX_GO (R471): A write of GO makes Bittern run the mailbox slot. -/
  | mboxGo
  /-- COMMAND_FETCH (R475): Bittern fetches and starts the next command of an eligible ring in round-robin order. -/
  | commandFetch (slot : Option SlotRead)
  /-- NOP_COMMAND (R480): The NOP command completes at once. -/
  | nopCommand (src : CmdSrc)
  /-- CAP_QUERY (R500): CAP_QUERY writes the ring's view of the capability descriptor. -/
  | capQuery (src : CmdSrc)
  /-- ATTACH (R497): ATTACH checks the token, attaches the host, releases held traffic and issues a new token. -/
  | attach (src : CmdSrc)
  /-- DETACH (R498): DETACH stops fetching, waits for host writes and destroys every ring. -/
  | detach (src : CmdSrc)
  /-- RING_CREATE (R472): RING_CREATE makes a submission, completion or event ring. -/
  | ringCreate (src : CmdSrc)
  /-- RING_DESTROY (R495): RING_DESTROY destroys a ring after its fetched commands complete. -/
  | ringDestroy (src : CmdSrc)
  /-- LWL_ACK (R466): LWL_ACK clears lost-write log entries and optionally the overflow record. -/
  | lwlAck (src : CmdSrc)
  /-- DEV_ID_SET (R409): DEV_ID_SET sets the device identifier and epoch while no connection is OPEN. -/
  | devIdSet (src : CmdSrc)
  /-- DC_CLEAN (R306): DC_MAINT CLEAN waits for write-through entries of the named lines. -/
  | dcClean (src : CmdSrc)
  /-- DC_INVALIDATE (R306): DC_MAINT INVALIDATE removes the named lines through the eviction buffer. -/
  | dcInvalidate (src : CmdSrc)
  /-- DC_CLEAN_INVALIDATE (R306): DC_MAINT CLEAN_INVALIDATE cleans then invalidates the named lines. -/
  | dcCleanInvalidate (src : CmdSrc)
  /-- ENTER_MAINT (R305): DC_MAINT moves the device cache from RUN to MAINT. -/
  | enterMaint (src : CmdSrc)
  /-- LEAVE_MAINT (R305): DC_MAINT moves the device cache from MAINT to RUN. -/
  | leaveMaint (src : CmdSrc)
  /-- BIAS_SET (R452): BIAS_SET changes granules between DEVICE and HOST bias with snoops or flushes. -/
  | biasSet (src : CmdSrc)
  /-- LODE_DISABLE (R379): LODE_CTL disable clears ENABLE and the lode goes DARK within 1 us. -/
  | lodeDisable (src : CmdSrc)
  /-- LODE_ENABLE (R377): LODE_CTL enable powers the lode if needed and sets ENABLE so it enters PROBE. -/
  | lodeEnable (src : CmdSrc)
  /-- LODE_RELEASE (R405): LODE_CTL release moves a latched quarantine to DARK and clears QCNT. -/
  | lodeRelease (src : CmdSrc)
  /-- LODE_SET (R408): LODE_CTL set writes MINW, MARK_TX and TXSET by a guarded write, accepted or refused. -/
  | lodeSet (src : CmdSrc)
  /-- FW_ACTIVATE (R544): FW_ACTIVATE schedules activation of a STAGED slot at a named Round. -/
  | fwActivate (src : CmdSrc)
  /-- PART_CREATE (R508): PART_CREATE checks a partition record and writes its registers, making it ACTIVE. -/
  | partCreate (src : CmdSrc)
  /-- PART_MODIFY (R512): PART_MODIFY replaces an active partition's record field by field. -/
  | partModify (src : CmdSrc)
  /-- PART_DESTROY (R511): PART_DESTROY drains and frees a partition. -/
  | partDestroy (src : CmdSrc)
  /-- CTX_CREATE (R481): CTX_CREATE makes an EMPTY context with cores, peg window and save areas. -/
  | ctxCreate (src : CmdSrc)
  /-- CTX_DESTROY (R495): CTX_DESTROY cancels, revokes, resets and unmaps a context's resources. -/
  | ctxDestroy (src : CmdSrc)
  /-- SEG_MAP (R263): SEG_MAP checks and writes a segment descriptor. -/
  | segMap (src : CmdSrc)
  /-- SEG_UNMAP (R284): SEG_UNMAP invalidates a segment with mark and drain. -/
  | segUnmap (src : CmdSrc)
  /-- INVALIDATE (R282): INVALIDATE removes translations of a context, segment or range and drains. -/
  | invalidate (src : CmdSrc)
  /-- PREFETCH_XLAT (R287): PREFETCH_XLAT walks up to 256 pages and fills region TLBs. -/
  | prefetchXlat (src : CmdSrc)
  /-- ADVISE (R287): ADVISE sets ADV and PIN of a segment. -/
  | advise (src : CmdSrc)
  /-- HAND_LOAD (R203): HAND_LOAD checks a hand container, binds cores and writes tables and data. -/
  | handLoad (src : CmdSrc) (fills : List HostFill)
  /-- LAUNCH (R484): LAUNCH fixes or gates the base Round, applies PEGPLAN and arms the context. -/
  | launch (src : CmdSrc)
  /-- CANCEL (R486): CANCEL withdraws a launch or stops a running, suspended or preempted hand. -/
  | cancel (src : CmdSrc)
  /-- PREEMPT (R487): PREEMPT requests preemption of every bound core and saves their images. -/
  | preempt (src : CmdSrc)
  /-- PREEMPT_SAVE_DONE (R487): Every save image is written and the context becomes PREEMPTED. -/
  | preemptSaveDone (ctx : Fin 64)
  /-- RESUME (R490): RESUME restores a preempted context or clears causes of a suspended one. -/
  | resume (src : CmdSrc)
  /-- RESUME_RESTORE_DONE (R490): Every core is restored and ready, and resume rows issue at the next boundary. -/
  | resumeRestoreDone (ctx : Fin 64) (bad : Option (Fin 96))
  /-- QUERY_CONTEXT (R492): QUERY with KIND 0 returns a context's state, cores, cause and base Round. -/
  | queryContext (src : CmdSrc)
  /-- QUERY_LIST (R492): QUERY with KIND 1 returns a list's position, progress, state and flags. -/
  | queryList (src : CmdSrc)
  /-- LIST_SUBMIT (R480): LIST_SUBMIT delivers a copy list from memory or the in-line area to an engine. -/
  | listSubmit (src : CmdSrc) (fills : List HostFill)
  /-- COPY_INLINE (R480): COPY_INLINE builds one INLINE descriptor and submits it. -/
  | copyInline (src : CmdSrc)
  /-- LIST_CANCEL (R367): LIST_CANCEL stops a list from issuing chunks and ends it as CANCELLED. -/
  | listCancel (src : CmdSrc)
  /-- FENCE (R494): FENCE holds later list submissions of its SQ until earlier lists end. -/
  | fence (src : CmdSrc)
  /-- FLIST_SUBMIT (R480): FLIST_SUBMIT delivers a fabric descriptor list to a region's transmit path. -/
  | flistSubmit (src : CmdSrc) (fills : List HostFill)
  /-- PEG_SIGNAL (R210): PEG_SIGNAL adds an amount to a partition peg. -/
  | pegSignal (src : CmdSrc)
  /-- PEG_ARM (R210): PEG_ARM sets a peg's target and arms it. -/
  | pegArm (src : CmdSrc)
  /-- PEG_RESET (R210): PEG_RESET resets a peg. -/
  | pegReset (src : CmdSrc)
  /-- PEG_QUERY (R210): PEG_QUERY returns every field of a peg. -/
  | pegQuery (src : CmdSrc)
  /-- CONN_OPEN (R414): CONN_OPEN opens a connection with its peer, lodes and credit. -/
  | connOpen (src : CmdSrc)
  /-- CONN_CLOSE (R412): CONN_CLOSE closes a connection after its lists end. -/
  | connClose (src : CmdSrc)
  /-- HANDLE_REG (R425): HANDLE_REG registers a handle with a DRBG key and returns it. -/
  | handleReg (src : CmdSrc)
  /-- HANDLE_REVOKE (R427): HANDLE_REVOKE revokes a handle once its lookups are acknowledged. -/
  | handleRevoke (src : CmdSrc)
  /-- PLACE_REG (R440): PLACE_REG registers a placement window. -/
  | placeReg (src : CmdSrc)
  /-- PLACE_UNREG (R495): PLACE_UNREG unregisters a window after accepted writes complete. -/
  | placeUnreg (src : CmdSrc)
  /-- DRAIN_END (R495): A shutdown command's drain ends and the command completes. -/
  | drainEnd (src : CmdSrc)
  /-- RAIL_WINDOW (R525): A 2 us rail monitor window ends and each throttling rail's step rises or falls. -/
  | railWindow (amps volts : List Half)
  /-- PWR_LIMIT (R525): A rail stays at step 7 for 1 ms and PWR_LIMIT is reported. -/
  | pwrLimit (rail : Fin 6)
  /-- DIODE_READ (R523): Every 10 us hardware reads all 64 thermal diodes. -/
  | diodeRead (temps : List Byte)
  /-- THERMAL_CONTROL (R532): Every 1 ms Heron adjusts each region's thermal cap and may raise THERM_ALARM. -/
  | thermalControl
  /-- TRIP_SAMPLE (R533): Every 4 us each comparator samples its diode against 115 C. -/
  | tripSample (hot : List (Fin 64 × Byte))
  /-- PLL_LOCK (R530): A region's second PLL locks to the new frequency. -/
  | pllLock (region : Fin 4)
  /-- RAIL_RAMP_DONE (R530): A region's core rail finishes ramping to the new applied voltage. -/
  | railRampDone (region : Fin 4)
  /-- LOG_WRITE (R537): Heron writes a due record into the event log. -/
  | logWrite
  /-- SENSOR_UPDATE (R549): Every 1 ms Heron updates its PLDM sensors and sends threshold events. -/
  | sensorUpdate (watts : Half)
  /-- DESIGN_POWER_EFFECTER (R549): The board controller sets the design power effecter. -/
  | designPowerEffecter (watts : Half)
  /-- LOG_READ (R548): The vendor LOG_READ message returns up to 8 log records. -/
  | logRead (repair : Bool) (index : Half)
  /-- ENTDAA (R547): Heron takes a dynamic I3C address by ENTDAA. -/
  | entdaa (addr : BitVec 7)
  /-- SETDASA (R547): Heron takes its dynamic I3C address from its static address by SETDASA. -/
  | setdasa (static addr : BitVec 7)
  /-- REQUEST_UPDATE (R542): PLDM RequestUpdate starts a firmware update or is answered ALREADY_IN_UPDATE_MODE. -/
  | requestUpdate (options : Bool)
  /-- VERIFY_COMPLETE (R542): At VerifyComplete Sedge checks signature and versions, marking the slot STAGED or FAILED. -/
  | verifyComplete (img : Component)
  /-- APPLY_COMPLETE (R543): ApplyComplete writes a verified option component. -/
  | applyComplete
  /-- ACTIVATE_FIRMWARE (R544): PLDM ActivateFirmware schedules activation at the current Round plus 1,024. -/
  | activateFirmware
  /-- FIRMWARE_SELF_CHECK (R546): Self-checks of a new set pass, or fail within 1 s and activation reverts. -/
  | firmwareSelfCheck (pass : Bool)
  /-- HERON_RESTART_DONE (R521): Heron completes RESTART and enters RUN, writing held log records. -/
  | heronRestartDone
  /-- HERON_LOCKSTEP (R24): Heron's lockstep pair miscompares and Heron restarts alone. -/
  | heronLockstep
  /-- BITTERN_CORE (R23): A Bittern core fails and its rings are spread over the remaining cores. -/
  | bitternCore (core : Fin 4)
  /-- BITTERN_WATCHDOG (R583): A Bittern core's watchdog expires and that core is reset. -/
  | bitternWatchdog (core : Fin 4)
  /-- HERON_WATCHDOG (R583): Heron's watchdog expires and forces a lockstep miscompare. -/
  | heronWatchdog
  /-- REGION_COLLECTOR_MESSAGE (R563): A fault message reaches the region collector and is queued, merged, dropped or forwarded. -/
  | regionCollectorMessage (n : Nat)
  /-- FAULT_MESSAGE (R560): A fault message reaches Sump, which decides its final class and reports it. -/
  | faultMessage (region : Option (Fin 4)) (n : Nat)
  /-- FATAL_LINE (R553): A dedicated fatal line reaches Sump and makes the fatal report. -/
  | fatalLine
  /-- CE_HOLD_EXPIRY (R561): CE_HOLD us after a class 01 pending bit was set Sump clears it. -/
  | ceHoldExpiry (src : Half)
  /-- SUMP_ACK (R561): Bittern's write to SUMP.ACK clears a source's class 10 pending bit. -/
  | sumpAck (src : Half)
  /-- SUMP_ACK_TIMEOUT (R562): A class 10 pending bit stays set for ACK_TO ms and the fatal kind is raised. -/
  | sumpAckTimeout (src : Half)
  /-- FORCE_GO (R568): A write of FORCE_GO makes the selected source raise the selected kind. -/
  | forceGo (path : Path)
  /-- DRILL_ENABLE (R569): Heron's guarded write of SUMP.DRILL.ENABLE enters or leaves fault-drill mode. -/
  | drillEnable
  /-- CORE_ISOLATION (R571): A fence trigger reaches the region collector and hardware isolates the core. -/
  | coreIsolation (core : Fin 104)
  /-- CORE_FENCE (R571): Bittern fences the core, reclaims its lines, suspends the context and binds a widow core. -/
  | coreFence (core : Fin 104)
  /-- POWER_ON (R579): PWROK low or VDD_AON below threshold starts a cold reset. -/
  | powerOn
  /-- BROWN_OUT (R579): A rail more than 10 % low for 1 us starts a cold reset. -/
  | brownOut
  /-- PIN_RESET (R579): BLK_RST_N low for 100 ns starts a block reset. -/
  | pinReset
  /-- SOFTWARE_RESET (R579): An accepted guarded write of RST.SWREQ.REQ starts a block reset. -/
  | softwareReset (path : Path)
  /-- CLOCK_FAILURE (R584): A clock monitor fires, causing a block or cold reset or a link retrain. -/
  | clockFailure (clock : ClockMon)
  /-- LOCK_UP (R584): A virtual network holds a flit without progress for 10 ms and a block reset follows. -/
  | lockUp
  /-- NV_PULSE_END (R585): A non-volatile write pulse ends and a deferred cold reset enters the always-on domain. -/
  | nvPulseEnd
  /-- START_UP (R587): PWROK rises or a block reset source ends and the start-up sequence runs to READY. -/
  | startUp (testen : Bool) (failed : List (Fin 104)) (mods : Fin 16) (lanes : Byte) (lost : List (Fin 8 × Fin 32))
  /-- GUARD_LATCH_WRITE (R601): A write to a W2 register loads the guard latch and starts the 1,000 ns window. -/
  | guardLatchWrite (path : Path) (addr : BitVec 28) (value : Word)
  /-- GUARD_WINDOW_EXPIRY (R601): The guard window ends without a complement and counts as a guard failure. -/
  | guardWindowExpiry (path : Path) (slot : Byte)
  /-- REGISTER_WRITE (R599): A write to a register with no row of its own acts per its access codes, including complement words of other W2 registers. -/
  | registerWrite (path : Path) (addr : BitVec 30) (data : List Byte) (stream : Fin 9)
  /-- SNAP (R603): A write to a unit's SNAP register copies every live counter into its holding register. -/
  | snap (path : Path) (slot : Byte)
  /-- CAPTURE_READ (R598): A read of a capturing word freezes the other words of its group for that path. -/
  | captureRead (path : Path) (addr : BitVec 30) (bytes : Nat) (upset : Word)
  /-- PARITY_SWEEP (R605): Every SCAN.INTERVAL us a sweep checks the parity of configuration fields. -/
  | paritySweep (upsets : List (BitVec 28 × Word))
  /-- PARITY_RESTORE (R605): After a parity mismatch the fields are restored from shadow or reset values. -/
  | parityRestore (addr : BitVec 28)
  /-- GET_VERSION (R621): Sedge answers SPDM GET_VERSION. -/
  | getVersion (doe : Bool)
  /-- GET_CAPABILITIES (R621): Sedge answers SPDM GET_CAPABILITIES. -/
  | getCapabilities (doe : Bool)
  /-- NEGOTIATE_ALGORITHMS (R621): Sedge answers NEGOTIATE_ALGORITHMS with P-384 and SHA-384 only. -/
  | negotiateAlgorithms (doe p384 sha384 : Bool)
  /-- GET_DIGESTS (R621): Sedge returns the digests of its certificate chains. -/
  | getDigests (doe : Bool)
  /-- GET_CERTIFICATE (R621): Sedge returns a certificate chain of slot 0 or 1. -/
  | getCertificate (doe : Bool) (slot : Fin 8)
  /-- CHALLENGE (R621): Sedge answers a CHALLENGE with an alias-key signature. -/
  | challenge (doe : Bool) (slot : Fin 8)
  /-- GET_MEASUREMENTS (R621): Sedge returns signed measurements of images, options and status. -/
  | getMeasurements (doe sign : Bool)
  /-- KEM_INIT (R622): A KEM_INIT starts a secured session and Sedge returns KEM_RESP. -/
  | kemInit (doe : Bool)
  /-- KEM_FIN (R622): KEM_FIN carries the requester's chain and signature for mutual authentication. -/
  | kemFin (doe : Bool) (id : Fin 4) (chain signature : Bool)
  /-- PSK_EXCHANGE (R622): PSK_EXCHANGE derives session keys from the KEM secret. -/
  | pskExchange (doe : Bool) (id : Fin 4)
  /-- PSK_FINISH (R622): PSK_FINISH completes establishment of the secured session. -/
  | pskFinish (doe : Bool) (id : Fin 4)
  /-- END_SESSION (R622): END_SESSION ends a secured session. -/
  | endSession (doe : Bool) (id : Fin 4)
  /-- SET_CERTIFICATE (R613): The Crypto Officer installs a certificate chain. -/
  | setCertificate (doe : Bool) (id : Fin 4) (slot : Fin 8) (ident : BitVec 18) (switch own : Bool)
  /-- GET_CSR (R619): GET_CSR generates a new fabric key and returns a signing request. -/
  | getCsr (doe : Bool) (id : Fin 4) (slot : Fin 8) (consistent : Bool) (err : Byte)
  /-- SET_OWNER (R614): SET_OWNER installs the owner anchor once. -/
  | setOwner
  /-- ZEROISE_SESSION (R629): ZEROISE at level SESSION zeroises session keys and DRBG state and darkens links. -/
  | zeroiseSession (doe : Bool) (id : Fin 4)
  /-- DECOMMISSION (R629): ZEROISE at level DECOMMISSION also zeroises long-term keys and enters DECOMMISSIONED. -/
  | decommission (doe : Bool) (id : Fin 4)
  /-- DEBUG_ARM (R641): DEBUG_ARM arms the debug port for 10 s. -/
  | debugArm (doe : Bool) (id : Fin 4)
  /-- DEBUG_ARM_EXPIRY (R641): The 10 s arming of the debug port lapses. -/
  | debugArmExpiry
  /-- FAULT_DRILL_ENTRY (R569): The fault-drill entry request in a secured session makes Heron enable fault-drill mode. -/
  | faultDrillEntry (doe : Bool) (id : Fin 4)
  /-- FAULT_DRILL_EXIT (R569): The fault-drill exit request makes Heron disable fault-drill mode. -/
  | faultDrillExit (doe : Bool) (id : Fin 4)
  /-- SELF_TEST_ON_DEMAND (R613): The Crypto Officer requests Sedge's self-tests. -/
  | selfTestOnDemand (doe : Bool) (id : Fin 4) (pass : Bool) (err : Byte)
  /-- SELFTEST_DONE (R616): Sedge's self-tests end and it enters APPROVED, NONAPPROVED or ERROR. -/
  | selftestDone (pass : Bool) (err : Byte)
  /-- HEALTH_TEST_FAILURE (R616): A continuous health test fails and Sedge enters ERROR. -/
  | healthTestFailure (err : Byte)
  /-- DRBG_RESEED (R613): After 2^20 requests the DRBG is reseeded with full entropy. -/
  | drbgReseed
  /-- KEY_RENEWAL (R625): A direction's N or CCTR reaches 2^44 or 2^36 Rounds pass and Sedge derives a new key. -/
  | keyRenewal (lode : Fin 16)
  /-- IDE_QUERY (R627): IDE_KM QUERY in a User session is answered. -/
  | ideQuery (id : Fin 4)
  /-- KEY_PROG (R627): IDE_KM KEY_PROG installs a stream key into the IDE engine. -/
  | keyProg (id : Fin 4) (stream : Fin 9)
  /-- K_SET_GO (R627): IDE_KM K_SET_GO puts a key set into use. -/
  | kSetGo (id : Fin 4) (stream : Fin 9)
  /-- K_SET_STOP (R627): IDE_KM K_SET_STOP stops a key set. -/
  | kSetStop (id : Fin 4) (stream : Fin 9)
  /-- KEY_REFRESH (R627): IDE_KM KEY_REFRESH refreshes a stream key. -/
  | keyRefresh (id : Fin 4) (stream : Fin 9)
  /-- IDE_INTEGRITY_FAILURE (R627): An IDE stream integrity failure is reported and its TDIs go to ERROR. -/
  | ideIntegrityFailure (stream : Fin 9)
  /-- LOCK_INTERFACE (R628): TDISP LOCK_INTERFACE locks a partition's interface configuration. -/
  | lockInterface (id : Fin 4) (part : Fin 8) (stream : Fin 9)
  /-- GET_DEVICE_INTERFACE_REPORT (R628): TDISP returns the partition's interface report. -/
  | getDeviceInterfaceReport (id : Fin 4) (part : Fin 8)
  /-- START_INTERFACE (R628): TDISP START_INTERFACE moves the TDI to RUN on its bound stream. -/
  | startInterface (id : Fin 4) (part : Fin 8)
  /-- STOP_INTERFACE (R628): TDISP STOP_INTERFACE destroys the partition's contexts and unlocks it. -/
  | stopInterface (id : Fin 4) (part : Fin 8)
  /-- TRC_RD_WRITE (R638): A write of TRC.RD frees trace entries unless it would pass WR. -/
  | trcRdWrite (path : Path) (region : Fin 4) (value : Word)
  /-- EXTEST (R640): The TAP instruction EXTEST drives boundary scan when permitted. -/
  | extest (data : List Bool)
  /-- IDCODE (R640): The TAP instruction IDCODE selects the identification register. -/
  | idcode
  /-- SAMPLE_PRELOAD (R640): The TAP instruction SAMPLE/PRELOAD selects boundary scan. -/
  | samplePreload (data : List Bool)
  /-- DBG_STATUS (R640): The TAP instruction DBG_STATUS reports lock, mode, arming and refusals. -/
  | dbgStatus
  /-- DBG_UNLOCK (R641): DBG_UNLOCK on an armed port unlocks it and Sedge leaves approved mode. -/
  | dbgUnlock (bit : Bool)
  /-- DBG_REQ (R640): DBG_REQ asserts the debug reset when permitted. -/
  | dbgReq (bit : Bool)
  /-- DBG_MEM (R642): DBG_MEM makes one 32-bit firmware-path access to registers or HBM. -/
  | dbgMem (dpa : BitVec 40) (write : Bool) (data : Word)
  /-- BYPASS (R640): The TAP selects the 1-bit bypass register. -/
  | bypass
  /-- TAP_RESET (R641): TRST_N low resets the TAP controller without relocking the port. -/
  | tapReset
  /-- RECEIVE_LANE_LOCK (R381): A receive lane locks its clock recovery, adapts its equaliser and is deskewed, setting LOCK. -/
  | receiveLaneLock (lode : Fin 16) (lane : Fin 8)
  /-- LANE_PASS (R397): A retrained lane that has held lock for 1 ms with a symbol error ratio below 10^-6 passes, allowing a widening request. -/
  | lanePass (lode : Fin 16) (lane : Fin 8)
  /-- LODE_DOMAIN_ON (R593): A lode power domain finishes its 20 us power-up and the lode leaves OFF for DARK and then PROBE. -/
  | lodeDomainOn (lode : Fin 16)
  /-- CONN_DROP_WINDOW (R422): The one-millisecond window over which a connection's DROPS are counted against CONN_TH ends and DROPS restarts. -/
  | connDropWindow (conn : Fin 4096)
  /-- QUARANTINE_AGE_OUT (R405): A quarantine entry passes one hour of age and leaves the count QCNT used for latching. -/
  | quarantineAgeOut (lode : Fin 16)
  /-- BITTERN_CORE_REJOIN (R583): A Bittern core reset by its watchdog passes its self-check and rejoins ring service. -/
  | bitternCoreRejoin (core : Fin 4)
  deriving DecidableEq, Repr

end Sys2Proof
end

