-- ==== Sys2Proof/Config.lean ====
section
/-!
DEFINITION. The free values: constants without a body, so that no proof can lean on a value the spec leaves open.
-/
namespace Sys2Proof.Config

/-- A value the spec leaves open, fresh at each draw: the step applies it to `State.free` and advances that count. -/
opaque fresh : Nat → Nat

/-- What a transcendental function (its FN code of R176) gives for a binary32 input where R105 bounds an
approximation and states no value. -/
opaque approx : Nat → Nat → Nat

/-- The row of a stack that holds a line of it, and the bank of a row: an order R227 leaves to the device. -/
opaque hbmRow : Nat → Nat
opaque hbmBank : Nat → Nat

/-- The set of a region TLB that a page falls in: R271 fixes no hash. -/
opaque tlbSet : Nat → Nat

end Sys2Proof.Config
end

