-- ==== Sys2Proof/Machine/Tbl.lean ====
section
/-!
DEFINITION. Operations on sparse tables. A table holds only what differs from its default, with keys strictly
rising, so that equal contents are equal data. `d k` is what an unlisted key `k` reads as.
-/
namespace Sys2Proof.Machine

variable {α : Type}

/-- What key `k` reads as. -/
def tget (d : Nat → α) : Tbl α → Nat → α
  | [], k => d k
  | (j, v) :: t, k => if k = j then v else tget d t k

/-- The entry of a key, if it is listed. -/
def tfind : Tbl α → Nat → Option α
  | [], _ => none
  | (j, v) :: t, k => if k = j then some v else tfind t k

/-- Put a value at a key, whatever it is, keeping the keys in order. -/
def tput (k : Nat) (v : α) : Tbl α → Tbl α
  | [] => [(k, v)]
  | (j, w) :: t => if k < j then (k, v) :: (j, w) :: t else if k = j then (k, v) :: t else (j, w) :: tput k v t

/-- Take a key out. -/
def tdel (k : Nat) (t : Tbl α) : Tbl α := t.filter (fun e => decide (e.1 ≠ k))

/-- Write a value at a key: the default value takes the entry out, so that the form stays canonical. -/
def tset [DecidableEq α] (d : Nat → α) (t : Tbl α) (k : Nat) (v : α) : Tbl α :=
  if v = d k then tdel k t else tput k v t

/-- Change the value at a key. -/
def tmod [DecidableEq α] (d : Nat → α) (t : Tbl α) (k : Nat) (f : α → α) : Tbl α :=
  tset d t k (f (tget d t k))

/-- Write the same value at every key of a list. -/
def tfill [DecidableEq α] (d : Nat → α) (v : α) : Tbl α → List Nat → Tbl α
  | t, [] => t
  | t, k :: ks => tfill d v (tset d t k v) ks

/-- Write a list of values at consecutive keys. -/
def tsets [DecidableEq α] (d : Nat → α) : Tbl α → Nat → List α → Tbl α
  | t, _, [] => t
  | t, k, v :: vs => tsets d (tset d t k v) (k + 1) vs

/-- Read `n` consecutive keys. -/
def tgets (d : Nat → α) (t : Tbl α) : Nat → Nat → List α
  | _, 0 => []
  | k, n + 1 => tget d t k :: tgets d t (k + 1) n

/-- Keep the entries whose key satisfies `p`; every other key reads as its default again. -/
def tkeep (p : Nat → Bool) (t : Tbl α) : Tbl α := t.filter (fun e => p e.1)

/-- Keys strictly rising. -/
def tsorted : Tbl α → Bool
  | [] => true
  | [_] => true
  | (j, _) :: (k, w) :: t => decide (j < k) && tsorted ((k, w) :: t)

/-- The canonical form: keys strictly rising, and no entry equal to what an unlisted key reads as. -/
def twf [DecidableEq α] (d : Nat → α) (t : Tbl α) : Bool :=
  tsorted t && t.all (fun e => decide (e.2 ≠ d e.1))

end Sys2Proof.Machine
end

