-- ==== Sys2Proof/Machine/Num.lean ====
section
/-!
DEFINITION. Number formats and conversion: R60 to R87 and R645. Every value is decoded to an exact dyadic,
a signed infinity or NaN, and rounded once into its destination.
-/
namespace Sys2Proof.Machine

/-! ### Bits -/

/-- Bits [hi:lo] of a number. -/
def bitsOf (v hi lo : Nat) : Nat := v / 2 ^ lo % 2 ^ (hi + 1 - lo)

/-- Bit `i` of a number. -/
def bitOf (v i : Nat) : Bool := v / 2 ^ i % 2 = 1

/-- A `w`-bit number read as two's complement. -/
def signed (w v : Nat) : Int := if v % 2 ^ w < 2 ^ (w - 1) then (v % 2 ^ w : Nat) else (v % 2 ^ w : Nat) - (2 ^ w : Nat)

/-- An integer as a `w`-bit two's-complement number. -/
def unsigned (w : Nat) (i : Int) : Nat := (i % (2 ^ w : Nat)).toNat

/-- A natural number from a bit. -/
def b2n (b : Bool) : Nat := if b then 1 else 0

/-- Bytes of a number, least significant first (R8). -/
def leBytes : Nat → Nat → List Byte
  | 0, _ => []
  | n + 1, v => BitVec.ofNat 8 v :: leBytes n (v / 256)

/-- The number a list of bytes spells, least significant first (R8). -/
def ofLe : List Byte → Nat
  | [] => 0
  | b :: bs => b.toNat + 256 * ofLe bs

/-! ### Flags (R113) -/

/-- The 10-bit flag word of R113. -/
abbrev Flags := BitVec 10

def fWOVF : Flags := 0x200#10
def fWINX : Flags := 0x100#10
def fDIVZERO : Flags := 0x080#10
def fINVALID : Flags := 0x040#10
def fNAN_DROPPED : Flags := 0x020#10
def fNAN_CREATED : Flags := 0x010#10
def fOVERFLOW_INF : Flags := 0x008#10
def fSATURATED : Flags := 0x004#10
def fUNDERFLOW : Flags := 0x002#10
def fINEXACT : Flags := 0x001#10

/-- A flag when a condition holds. -/
def fIf (c : Bool) (f : Flags) : Flags := if c then f else 0#10

/-! ### Formats (R60 to R66) -/

/-- The ten formats of R60, in the order of their codes. -/
inductive Fmt where
  | b32 | b16 | bf16 | e4m3 | e5m2 | i8 | f4b | e4m3b | e5m2b | i8b
  deriving DecidableEq, Repr

/-- The element formats of R61 to R65. -/
inductive Elem where
  | b32 | b16 | bf16 | e4m3 | e5m2 | i8 | f4
  deriving DecidableEq, Repr

/-- The format a 4-bit code names; codes 0xA to 0xF are reserved (R60). -/
def Fmt.ofCode : Nat → Option Fmt
  | 0 => some .b32 | 1 => some .b16 | 2 => some .bf16 | 3 => some .e4m3 | 4 => some .e5m2
  | 5 => some .i8 | 6 => some .f4b | 7 => some .e4m3b | 8 => some .e5m2b | 9 => some .i8b
  | _ => none

def Fmt.elem : Fmt → Elem
  | .b32 => .b32 | .b16 => .b16 | .bf16 => .bf16 | .e4m3 => .e4m3 | .e5m2 => .e5m2
  | .i8 => .i8 | .f4b => .f4 | .e4m3b => .e4m3 | .e5m2b => .e5m2 | .i8b => .i8

/-- Whether 32 elements share a scale byte (R60). -/
def Fmt.isBlock : Fmt → Bool
  | .f4b | .e4m3b | .e5m2b | .i8b => true
  | _ => false

/-- Whether the operand descriptor may carry an exponent bias (R71). -/
def Fmt.hasBias : Fmt → Bool
  | .b32 | .b16 | .bf16 => false
  | _ => true

/-- Element width in bits (R60). -/
def Elem.bits : Elem → Nat
  | .b32 => 32 | .b16 => 16 | .bf16 => 16 | .e4m3 => 8 | .e5m2 => 8 | .i8 => 8 | .f4 => 4

/-- Fraction bits (R62). -/
def Elem.frac : Elem → Nat
  | .b32 => 23 | .b16 => 10 | .bf16 => 7 | .e4m3 => 3 | .e5m2 => 2 | .i8 => 0 | .f4 => 1

/-- Exponent bias (R62). -/
def Elem.bias : Elem → Nat
  | .b32 => 127 | .b16 => 15 | .bf16 => 127 | .e4m3 => 7 | .e5m2 => 15 | .i8 => 0 | .f4 => 1

/-- Magnitude code of the largest finite value (R66). -/
def Elem.maxCode : Elem → Nat
  | .b32 => 0x7F7FFFFF | .b16 => 0x7BFF | .bf16 => 0x7F7F | .e4m3 => 0x7E | .e5m2 => 0x7B | .i8 => 0x7F | .f4 => 0x7

/-- Code of +infinity where the format has one (R66). -/
def Elem.infCode : Elem → Option Nat
  | .b32 => some 0x7F800000 | .b16 => some 0x7C00 | .bf16 => some 0x7F80 | .e5m2 => some 0x7C
  | _ => none

/-- The canonical NaN where the format has one (R66). -/
def Elem.nanCode : Elem → Option Nat
  | .b32 => some 0x7FC00000 | .b16 => some 0x7E00 | .bf16 => some 0x7FC0 | .e4m3 => some 0x7F | .e5m2 => some 0x7E
  | _ => none

/-- An exact value: NaN, a signed infinity, or `±m * 2^e` (a zero keeps its sign). -/
inductive Val where
  | nan
  | inf (neg : Bool)
  | fin (neg : Bool) (m : Nat) (e : Int)
  deriving DecidableEq, Repr

def Val.zero : Val := .fin false 0 0

def Val.isNan : Val → Bool
  | .nan => true
  | _ => false

/-- Decode one element code (R61 to R66). -/
def Elem.decode (f : Elem) (c : Nat) : Val :=
  match f with
  | .i8 => let i := signed 8 c; .fin (decide (i < 0)) i.natAbs 0
  | f =>
    let neg := bitOf c (f.bits - 1)
    let mag := c % 2 ^ (f.bits - 1)
    if f.maxCode < mag then
      (if f.infCode = some mag then .inf neg else .nan)
    else
      let E := mag / 2 ^ f.frac
      let T := mag % 2 ^ f.frac
      if E = 0 then .fin neg T (1 - (f.bias : Int) - f.frac)
      else .fin neg (2 ^ f.frac + T) ((E : Int) - f.bias - f.frac)

/-- Multiply an exact value by `k * 2^x`. -/
def Val.scale (v : Val) (k : Nat) (x : Int) : Val :=
  match v with
  | .nan => .nan
  | .inf n => .inf n
  | .fin n m e => .fin n (m * k) (e + x)

/-- The scale byte's value is `(4 + m) * 2^(e - 2)` (R68): the factor and the power of two. -/
def scaleParts (s : Nat) : Nat × Int := (4 + s % 4, signed 6 (s / 4) - 2)

/-- An element of a block with its scale byte and the tensor's bias (R69, R70). -/
def blockElem (f : Elem) (scale : Nat) (bias : Int) (c : Nat) : Val :=
  if scale % 256 = 0x80 then .nan
  else (f.decode c).scale (scaleParts scale).1 ((scaleParts scale).2 + bias)

/-! ### Comparing and adding exact values -/

/-- `m * 2^e` as an integer multiple of `2^g`, for `g` at most `e`. -/
def atGrid (m : Nat) (e g : Int) : Nat := m * 2 ^ (e - g).toNat

/-- `a * 2^x ≤ b * 2^y`. -/
def dyLe (a : Nat) (x : Int) (b : Nat) (y : Int) : Bool :=
  let g := min x y
  decide (atGrid a x g ≤ atGrid b y g)

def sgn (neg : Bool) (m : Nat) : Int := if neg then -(m : Int) else m

/-- Exact sum of two finite values; an exact zero is +0 except (-0) + (-0) (R101). -/
def finAdd (n1 : Bool) (m1 : Nat) (e1 : Int) (n2 : Bool) (m2 : Nat) (e2 : Int) : Val :=
  let g := min e1 e2
  let s := sgn n1 (atGrid m1 e1 g) + sgn n2 (atGrid m2 e2 g)
  if s = 0 then .fin (n1 && n2 && decide (m1 = 0) && decide (m2 = 0)) 0 0
  else .fin (decide (s < 0)) s.natAbs g

/-- Sum with its INVALID condition: infinity minus infinity (R101). -/
def Val.add (a b : Val) : Val × Flags :=
  match a, b with
  | .nan, _ => (.nan, 0)
  | _, .nan => (.nan, 0)
  | .inf n, .inf m => if n = m then (.inf n, 0) else (.nan, fINVALID)
  | .inf n, _ => (.inf n, 0)
  | _, .inf m => (.inf m, 0)
  | .fin n1 m1 e1, .fin n2 m2 e2 => (finAdd n1 m1 e1 n2 m2 e2, 0)

def Val.neg : Val → Val
  | .nan => .nan
  | .inf n => .inf (!n)
  | .fin n m e => .fin (!n) m e

def Val.abs : Val → Val
  | .nan => .nan
  | .inf _ => .inf false
  | .fin _ m e => .fin false m e

/-- Product with its INVALID condition: zero times infinity (R101). -/
def Val.mul (a b : Val) : Val × Flags :=
  match a, b with
  | .nan, _ => (.nan, 0)
  | _, .nan => (.nan, 0)
  | .inf n, .inf m => (.inf (n != m), 0)
  | .inf n, .fin m x _ => if x = 0 then (.nan, fINVALID) else (.inf (n != m), 0)
  | .fin m x _, .inf n => if x = 0 then (.nan, fINVALID) else (.inf (n != m), 0)
  | .fin n1 m1 e1, .fin n2 m2 e2 => (.fin (n1 != n2) (m1 * m2) (e1 + e2), 0)

/-- Order of values with -0 below +0, for values that are not NaN (R100). -/
def Val.lt (a b : Val) : Bool :=
  match a, b with
  | .nan, _ => false
  | _, .nan => false
  | .inf n, .inf m => n && !m
  | .inf n, _ => n
  | _, .inf m => !m
  | .fin n1 m1 e1, .fin n2 m2 e2 =>
    let g := min e1 e2
    let x := sgn n1 (atGrid m1 e1 g)
    let y := sgn n2 (atGrid m2 e2 g)
    if x = y then decide (x = 0) && n1 && !n2 else decide (x < y)

/-- Numerical equality: +0 equals -0 (R100). -/
def Val.eq (a b : Val) : Bool :=
  match a, b with
  | .nan, _ => false
  | _, .nan => false
  | .inf n, .inf m => n == m
  | .inf _, _ => false
  | _, .inf _ => false
  | .fin n1 m1 e1, .fin n2 m2 e2 =>
    let g := min e1 e2
    decide (sgn n1 (atGrid m1 e1 g) = sgn n2 (atGrid m2 e2 g))

/-! ### The rounding generator (R84, R85) -/

def lfsrStep (s : Nat) : Nat :=
  let fb := (s / 2 ^ 31 + s / 2 ^ 21 + s / 2 + s) % 2
  (s * 2 + fb) % 2 ^ 32

/-- 32 steps; the word drawn is the state after them. -/
def lfsrDraw (s : Nat) : Nat := Nat.repeat lfsrStep 32 s

/-- The state an operation loads from its seed (R85). -/
def lfsrSeed (seed : Nat) : Nat := if seed % 2 ^ 32 = 0 then 1 else seed % 2 ^ 32

/-! ### Rounding one value (R79 to R81, R86, R87, R645) -/

/-- Conversion control of R78: overflow to infinity, stochastic rounding. -/
structure Ctl where
  ovf : Bool
  stoch : Bool
  deriving DecidableEq, Repr

/-- A 4-bit conversion control is valid unless RM is 0b10 or 0b11 or bit 3 is set (R78). -/
def ctlValid (c : Nat) : Bool := decide (c / 8 % 2 = 0) && decide (c % 4 < 2)

def Ctl.ofCode (c : Nat) : Ctl := ⟨bitOf c 2, decide (c % 4 = 1)⟩

/-- Round to nearest, ties to even, with OVF 1: the fixed control of R646. -/
def Ctl.ieee : Ctl := ⟨true, false⟩

/-- floor(log2(a / b)) for positive a and b. -/
def log2Ratio (a b : Nat) : Int :=
  let L := (Nat.log2 a : Int) - Nat.log2 b
  if dyLe b L a 0 then L else L - 1

/-- Round `N / D` to an integer: the floor, and whether the exact value lies on the grid; `r` is the
generator word when the mode is stochastic. -/
def roundRatio (stoch : Bool) (r N D : Nat) : Nat × Bool :=
  let q := N / D
  let rem := N % D
  let up := if stoch then decide (r < rem * 2 ^ 32 / D)
    else decide (D < 2 * rem) || (decide (2 * rem = D) && decide (q % 2 = 1))
  (if up then q + 1 else q, decide (rem = 0))

/-- The outcome of writing one element: its code, the conditions it meets and whether it was written as NaN. -/
structure EOut where
  code : Nat
  flags : Flags
  nan : Bool
  deriving DecidableEq, Repr

/-- Sign bit of an element code. -/
def signBit (f : Elem) (neg : Bool) : Nat := if neg then 2 ^ (f.bits - 1) else 0

/-- The largest finite value of a sign: INT8 goes to -128 below (R80). -/
def maxOf (f : Elem) (neg : Bool) : Nat :=
  match f with
  | .i8 => if neg then 0x80 else 0x7F
  | f => f.maxCode + signBit f neg

/-- What an overflow or an infinite source gives (R80, R81). -/
def overflowTo (f : Elem) (c : Ctl) (neg : Bool) (fromInf : Bool) : EOut :=
  if c.ovf then
    match f.infCode with
    | some i => ⟨i + signBit f neg, fIf (!fromInf) fOVERFLOW_INF, false⟩
    | none =>
      if f = .e4m3 && fromInf then ⟨0x7F, fNAN_CREATED, true⟩
      else ⟨maxOf f neg, fSATURATED ||| fIf (!fromInf) fINEXACT, false⟩
  else ⟨maxOf f neg, fSATURATED ||| fIf (!fromInf) fINEXACT, false⟩

/-- What a NaN source gives in one element (R81). -/
def nanTo (f : Elem) : EOut :=
  match f.nanCode with
  | some n => ⟨n, 0, true⟩
  | none => ⟨0, fNAN_DROPPED, false⟩

/-- Write the finite value `±m * 2^e / d` into an element (R79, R80, R86). -/
def finTo (f : Elem) (c : Ctl) (r : Nat) (neg : Bool) (m : Nat) (e : Int) (d : Nat) : EOut :=
  if m = 0 then ⟨if f = .i8 then 0 else signBit f neg, 0, false⟩
  else
    match f with
    | .i8 =>
      let q := roundRatio c.stoch r (m * 2 ^ e.toNat) (d * 2 ^ (-e).toNat)
      if (if neg then 128 else 127) < q.1 then overflowTo f c neg false
      else ⟨unsigned 8 (sgn neg q.1), fIf (!q.2) fINEXACT ||| fIf (!q.2 && decide (q.1 = 0)) fUNDERFLOW, false⟩
    | f =>
      let emin : Int := 1 - (f.bias : Int)
      let g := max (log2Ratio m d + e) emin - f.frac
      let q := roundRatio c.stoch r (m * 2 ^ (e - g).toNat) (d * 2 ^ (g - e).toNat)
      let code := (g + f.frac - emin).toNat * 2 ^ f.frac + q.1
      if f.maxCode < code then overflowTo f c neg false
      else ⟨code + signBit f neg,
            fIf (!q.2) fINEXACT ||| fIf (!q.2 && decide (code < 2 ^ f.frac)) fUNDERFLOW, false⟩

/-- Write one value, times `2^x / d`, into an element (R77, R81). -/
def encodeVal (f : Elem) (c : Ctl) (r : Nat) (x : Int) (d : Nat) : Val → EOut
  | .nan => nanTo f
  | .inf n => overflowTo f c n true
  | .fin n m e => finTo f c r n m (e + x) d

/-! ### Block encoding (R82) -/

/-- M of R82 step 3. -/
def blockMax : Elem → Nat
  | .f4 => 6 | .e4m3 => 448 | .e5m2 => 57344 | _ => 127

/-- The largest finite magnitude of a list, as `m * 2^e`. -/
def amax : List Val → Nat × Int
  | [] => (0, 0)
  | v :: vs =>
    let r := amax vs
    match v with
    | .fin _ m e => if dyLe m e r.1 r.2 then r else (m, e)
    | _ => r

/-- The smallest of `n` signed scale codes from `s` up whose scale satisfies `a * 2^x ≤ M * S`; 127 when none does. -/
def scaleSearch (a : Nat) (x : Int) (M : Nat) : Nat → Int → Int
  | 0, _ => 127
  | n + 1, s =>
    let p := scaleParts (unsigned 8 s)
    if dyLe a x (M * p.1) p.2 then s else scaleSearch a x M n (s + 1)

/-- The scale code a block takes for its largest magnitude (R82 step 3). -/
def chooseScale (f : Elem) (a : Nat) (x : Int) : Nat := unsigned 8 (scaleSearch a x (blockMax f) 255 (-127))

/-- The outcome of one encoded block or of a row: element results, scale bytes, the generator's state. -/
structure RowOut where
  elems : List EOut
  scales : List Nat
  rng : Nat
  deriving DecidableEq, Repr

/-- Write values element by element, drawing one word each when the mode is stochastic (R85). -/
def encodeElems (f : Elem) (c : Ctl) (x : Int) (d : Nat) : Nat → List Val → List EOut × Nat
  | rng, [] => ([], rng)
  | rng, v :: vs =>
    let r := if c.stoch then lfsrDraw rng else rng
    let rest := encodeElems f c x d r vs
    (encodeVal f c r x d v :: rest.1, rest.2)

/-- An element of a NaN block: code zero, written as NaN; a source element that was not NaN raises NAN_CREATED (R69, R645). -/
def nanBlockElem (isPad : Bool) (v : Val) : EOut := ⟨0, fIf (!isPad && !v.isNan) fNAN_CREATED, true⟩

/-- Encode one block of 32 values, `pad` of them padding (R76, R82). -/
def encodeBlock (f : Elem) (c : Ctl) (bias : Int) (rng : Nat) (vs : List Val) : List EOut × Nat × Nat :=
  let all := vs ++ List.replicate (32 - vs.length) Val.zero
  if (f == .f4 || f == .i8) && vs.any Val.isNan then
    let rng' := if c.stoch then Nat.repeat lfsrDraw 32 rng else rng
    (vs.map (nanBlockElem false) ++ List.replicate (32 - vs.length) (nanBlockElem true .zero), 0x80, rng')
  else
    let a := amax all
    let s := chooseScale f a.1 (a.2 - bias)
    let p := scaleParts s
    let r := encodeElems f c (-bias - p.2) p.1 rng all
    (r.1, s, r.2)

/-- Split a list into runs of 32; `n` bounds the number of runs. -/
def chunk32 : Nat → List α → List (List α)
  | 0, _ => []
  | n + 1, l => if l.isEmpty then [] else l.take 32 :: chunk32 n (l.drop 32)

/-- Encode the blocks of a row. -/
def encodeBlocks (f : Elem) (c : Ctl) (bias : Int) : Nat → List (List Val) → RowOut
  | rng, [] => ⟨[], [], rng⟩
  | rng, b :: bs =>
    let o := encodeBlock f c bias rng b
    let rest := encodeBlocks f c bias o.2.2 bs
    ⟨o.1 ++ rest.elems, o.2.1 :: rest.scales, rest.rng⟩

/-- Encode one row of values into a format (R77, R82, R85). -/
def encodeRow (f : Fmt) (c : Ctl) (bias : Int) (rng : Nat) (vs : List Val) : RowOut :=
  if f.isBlock then encodeBlocks f.elem c bias rng (chunk32 (vs.length / 32 + 1) vs)
  else
    let r := encodeElems f.elem c (-bias) 1 rng vs
    ⟨r.1, [], r.2⟩

/-- The OR of the conditions of a list of written elements. -/
def orFlags : List EOut → Flags
  | [] => 0
  | e :: es => e.flags ||| orFlags es

/-! ### Layout (R72) -/

/-- The element codes of `n` elements in a run of bytes. -/
def unpackElems (f : Elem) (n : Nat) (bs : List Byte) : List Nat :=
  match f.bits with
  | 32 => (List.range n).map (fun i => ofLe ((bs.drop (4 * i)).take 4))
  | 16 => (List.range n).map (fun i => ofLe ((bs.drop (2 * i)).take 2))
  | 8 => (List.range n).map (fun i => ofLe ((bs.drop i).take 1))
  | _ => (List.range n).map (fun i => ofLe ((bs.drop (i / 2)).take 1) / 16 ^ (i % 2) % 16)

/-- The bytes of a run of element codes. -/
def packElems (f : Elem) : List Nat → List Byte
  | [] => []
  | c :: cs =>
    match f.bits with
    | 32 => leBytes 4 c ++ packElems f cs
    | 16 => leBytes 2 c ++ packElems f cs
    | 8 => leBytes 1 c ++ packElems f cs
    | _ =>
      match cs with
      | [] => leBytes 1 (c % 16)
      | h :: cs' => BitVec.ofNat 8 (c % 16 + h % 16 * 16) :: packElems f cs'

/-- Bytes that `n` elements of a format take in one row of its element plane (R67, R73). -/
def Fmt.rowBytes (f : Fmt) (n : Nat) : Nat :=
  if f.isBlock then (n + 31) / 32 * (4 * f.elem.bits) else n * f.elem.bits / 8

/-- Scale bytes of one row (R73). -/
def Fmt.rowScales (f : Fmt) (n : Nat) : Nat := if f.isBlock then (n + 31) / 32 else 0

/-- Decode one row of `n` values from its element bytes and its scale bytes (R70, R73). -/
def decodeRow (f : Fmt) (bias : Int) (n : Nat) (bs : List Byte) (scales : List Byte) : List Val :=
  let cs := unpackElems f.elem n bs
  if f.isBlock then
    (List.range n).map (fun i => blockElem f.elem (ofLe ((scales.drop (i / 32)).take 1)) bias (cs.getD i 0))
  else cs.map (fun c => (f.elem.decode c).scale 1 bias)

/-- Decode one code to binary32 under the fixed control of R646, with the conditions met. -/
def toB32 (v : Val) : Nat × Flags :=
  let o := encodeVal .b32 Ctl.ieee 0 0 1 v
  (o.code, o.flags)

end Sys2Proof.Machine
end

