-- ==== Sys2Proof/Machine/Approx.lean ====
section
/-!
DEFINITION. Enclosures of the exact transcendental functions, from which the bounds of R105 are taken: fixed-point
arithmetic with 256 fraction bits, widened by more than the truncations can lose.
-/
namespace Sys2Proof.Machine

/-- An enclosure: the exact value lies from `lo * 2^e` to `hi * 2^e`. -/
structure Encl where
  lo : Int
  hi : Int
  e : Int
  deriving DecidableEq, Repr

/-- 1 with 256 fraction bits. -/
def fxOne : Nat := 2 ^ 256

/-- The natural logarithm of 2, with 256 fraction bits. -/
def fxLn2 : Nat := 0xb17217f7d1cf79abc9e3b39803f2f6af40f343267298b62d8a0d175b8baafa2b

/-- The logarithm of e to base 2. -/
def fxLog2e : Nat := 0x171547652b82fe1777d0ffda0d23a7d11d6aef551bad2b4b1164a2cd9a342648f

/-- Two over the root of pi. -/
def fxTwoRtPi : Nat := 0x120dd750429b6d11ae3a914fed7fd8688281341d7587cea2e7342b06199cc4161

/-- One over the root of 2. -/
def fxRtHalf : Nat := 0xb504f333f9de6484597d89b3754abe9f1d6f60ba893ba84ced17ac8583339915

/-- Pi with 513 fraction bits, which is pi over 2 with 512. -/
def fxHalfPi : Nat :=
  0x3243f6a8885a308d313198a2e03707344a4093822299f31d0082efa98ec4e6c89452821e638d01377be5466cf34e90c6cc0ac29b7c97c50dd3f84d5b5b5470917 / 2

def fxMul (a b : Nat) : Nat := a * b / fxOne

/-- `m * 2^e` with `p` fraction bits; exact where it has no more. -/
def fxOf (p m : Nat) (e : Int) : Nat := m * 2 ^ ((p : Int) + e).toNat / 2 ^ (-((p : Int) + e)).toNat

/-- The exponential series of `y` below 1, from term `k` on: `n` terms, the first of them `t`. -/
def expSeries (y : Nat) : Nat → Nat → Nat → Nat
  | 0, _, _ => 0
  | n + 1, k, t => t + expSeries y n (k + 1) (fxMul t y / (k + 1))

/-- Two to the power `f` below 1: a mantissa from 1 to 2, which truncations make too small by less than 2^12 units. -/
def exp2Frac (f : Nat) : Nat := expSeries (fxMul f fxLn2) 72 0 fxOne

/-- e to the power `-x`, for `x` with 256 fraction bits below 200: its least and its greatest value with 512. -/
def expNeg (x : Nat) : Nat × Nat :=
  let y := fxMul x fxLog2e
  let n := y / fxOne + 1
  let m := exp2Frac (n * fxOne - y)
  ((m - 2 ^ 12) * 2 ^ (256 - n), (m + 2 ^ 12) * 2 ^ (256 - n))

/-- The alternating series of sine (`k` 1) or cosine (`k` 0) of `y` below 2: `n` terms, the first of them `t`. -/
def sinSeries (y2 : Nat) : Nat → Nat → Nat → Int
  | 0, _, _ => 0
  | n + 1, k, t => (t : Int) - sinSeries y2 n (k + 2) (fxMul t y2 / ((k + 1) * (k + 2)))

/-- Sine (`turn` 0) or cosine (`turn` 1) of a positive `m * 2^e`: the argument less its quarter turns, exactly reduced. -/
def enclSin (turn m : Nat) (e : Int) : Encl :=
  let x := fxOf 512 m e
  let q := x / fxHalfPi + turn
  let y := x % fxHalfPi / fxOne
  let y2 := fxMul y y
  let v := if q % 2 = 0 then sinSeries y2 40 1 y else sinSeries y2 40 0 fxOne
  let w := if q % 4 < 2 then v else -v
  ⟨w - 2 ^ 12, w + 2 ^ 12, -256⟩

/-- Two to a power that is not an integer: its floor `n` and its fraction with 256 bits. -/
def enclExp2 (n : Int) (f : Nat) : Encl :=
  let v := exp2Frac f
  ⟨(v : Int) - 2 ^ 12, (v : Int) + 2 ^ 12, n - 256⟩

/-- `n` binary places of the logarithm to base 2 of `v` from 1 to 2, with 320 fraction bits, by repeated squaring. -/
def log2Bits : Nat → Nat → Nat
  | 0, _ => 0
  | n + 1, v =>
    let w := v * v / 2 ^ 320
    if 2 ^ 321 ≤ w then 2 ^ n + log2Bits n (w / 2) else log2Bits n w

/-- The logarithm to base 2 of a positive `m * 2^e`. -/
def enclLog2 (m : Nat) (e : Int) : Encl :=
  let k := Nat.log2 m
  let v := ((k : Int) + e) * 2 ^ 80 + (log2Bits 80 (m * 2 ^ (320 - k)) : Nat)
  ⟨v - 2, v + 2, -80⟩

/-- The hyperbolic tangent of a positive `m * 2^e`: (1 - E) / (1 + E) with E = e^(-2x). -/
def enclTanh (m : Nat) (e : Int) : Encl :=
  if dyLe 20 0 m e then ⟨2 ^ 256 - 2 ^ 206, 2 ^ 256, -256⟩
  else
    let E := expNeg (2 * fxOf 256 m e)
    let one := 2 ^ 512
    ⟨((one - E.2) * fxOne / (one + E.2) : Nat), ((one - E.1) * fxOne / (one + E.1) + 1 : Nat), -256⟩

/-- The logistic function of a positive `m * 2^e`: 1 / (1 + E) with E = e^(-x). -/
def enclLogistic (m : Nat) (e : Int) : Encl :=
  if dyLe 40 0 m e then ⟨2 ^ 256 - 2 ^ 206, 2 ^ 256, -256⟩
  else
    let E := expNeg (fxOf 256 m e)
    let one := 2 ^ 512
    ⟨(one * fxOne / (one + E.2) : Nat), (one * fxOne / (one + E.1) + 1 : Nat), -256⟩

/-- The logistic function of `-m * 2^e`: E / (1 + E). -/
def enclLogisticNeg (m : Nat) (e : Int) : Encl :=
  if dyLe 110 0 m e then ⟨0, 2 ^ 355, -512⟩
  else
    let E := expNeg (fxOf 256 m e)
    let one := 2 ^ 512
    ⟨(E.1 * one / (one + E.1) : Nat), (E.2 * one / (one + E.2) + 1 : Nat), -512⟩

/-- The series of the error function, without its factor: `n` terms from term `k` on, `t` being x^(2k+1) / k!. -/
def erfSeries (x2 : Nat) : Nat → Nat → Nat → Int
  | 0, _, _ => 0
  | n + 1, k, t => (t / (2 * k + 1) : Nat) - erfSeries x2 n (k + 1) (fxMul t x2 / (k + 1))

/-- The error function of `z` below 5, with 256 fraction bits: true to 2^48 units. -/
def erfFix (z : Nat) : Int := erfSeries (fxMul z z) 220 0 z * (fxTwoRtPi : Nat) / (fxOne : Nat)

/-- The error function of a positive `m * 2^e`. -/
def enclErf (m : Nat) (e : Int) : Encl :=
  if dyLe 5 0 m e then ⟨2 ^ 256 - 2 ^ 217, 2 ^ 256, -256⟩
  else
    let v := erfFix (fxOf 256 m e)
    ⟨v - 2 ^ 48, v + 2 ^ 48, -256⟩

/-- GELU of `m * 2^e` or of its negative: x Φ(x), with Φ(x) = (1 + erf (x / √2)) / 2. -/
def enclGelu (neg : Bool) (m : Nat) (e : Int) : Encl :=
  if dyLe 7 0 m e then
    (if neg then (if dyLe 15 0 m e then ⟨-(2 ^ 107), 0, -256⟩ else ⟨-(2 ^ 220), 0, -256⟩)
    else ⟨(m : Int) * (2 ^ 39 - 1), (m : Int) * 2 ^ 39, e - 39⟩)
  else
    let x := fxOf 256 m e
    let r := erfFix (fxMul x fxRtHalf)
    let p := ((x : Nat) : Int) * ((fxOne : Nat) + (if neg then -r else r)) / (2 ^ 257 : Nat)
    let v := if neg then -p else p
    ⟨v - 2 ^ 52, v + 2 ^ 52, -256⟩

/-- The least binary32 value at or above `v * 2^e`. -/
def b32Up (v e : Int) : Val :=
  let g := max ((Nat.log2 v.natAbs : Int) + e) (-126) - 23
  let n := v.natAbs * 2 ^ (e - g).toNat
  let d := 2 ^ (g - e).toNat
  if v < 0 then .fin true (n / d) g else .fin false ((n + d - 1) / d) g

/-- How far from the exact value R105 lets r lie: `ulps` spacings of binary32 at that value, or `2^-a` where that is
more (`a` 0: no such bound); in units of `2^e`. No exact value stands at the end of its enclosure, so an end that is a
power of two takes the spacing below it. -/
def enclTol (b : Encl) (ulps a : Nat) : Int :=
  let g := max ((Nat.log2 (max b.lo.natAbs b.hi.natAbs - 1) : Int) + b.e) (-126) - 23
  max ((ulps : Int) * 2 ^ (g - b.e).toNat) (if a = 0 then 0 else 2 ^ (-(a : Int) - b.e).toNat)

/-- The least binary32 value that r may take, and a bound above it (R105): a result below 2^-149 gives a zero or ±2^-149. -/
def enclRange (b : Encl) (ulps a : Nat) : Val × Val :=
  let t := enclTol b ulps a
  let tiny : Int := 2 ^ (-149 - b.e).toNat
  let small := decide (b.e ≤ -149) && decide ((max b.lo.natAbs b.hi.natAbs : Int) < tiny)
  let lo := if small then max (b.lo - t) (-tiny) else b.lo - t
  let hi := if small then min (b.hi + t) tiny else b.hi + t
  (b32Up lo b.e, .fin (decide (hi < 0)) hi.natAbs b.e)

end Sys2Proof.Machine
end

