-- ==== Sys2Proof/Machine/Arith.lean ====
section
/-!
DEFINITION. Arithmetic: the window accumulator (R90 to R98), the vector lane functions (R100 to R103), the
transcendental functions (R105 to R107) and the fixed-point reductions (R108 to R112).
-/
namespace Sys2Proof.Machine

/-! ### The window accumulator (R91) -/

/-- The fields of R91. -/
structure WAcc where
  w : BitVec 200
  l : BitVec 10
  t : Bool
  o : Bool
  nan : Bool
  pinf : Bool
  ninf : Bool
  inv : Bool
  deriving DecidableEq, Repr

/-- A cleared accumulator with window base `l` (R96). -/
def WAcc.start (l : Int) : WAcc := ⟨0, BitVec.ofInt 10 l, false, false, false, false, false, false⟩

def WAcc.zero : WAcc := WAcc.start 0

/-- Take a finite addend `±m * 2^e` in: truncation toward zero to a multiple of 2^L (R93), saturation at the range's end (R94). -/
def WAcc.takeFin (a : WAcc) (neg : Bool) (m : Nat) (e : Int) : WAcc :=
  if a.o then a
  else
    let d := e - a.l.toInt
    let q := if 0 ≤ d then m * 2 ^ d.toNat else m / 2 ^ (-d).toNat
    let lost := decide (d < 0) && decide (m % 2 ^ (-d).toNat ≠ 0)
    let s := a.w.toInt + sgn neg q
    let t := a.t || lost
    if s < -(2 ^ 199) then { a with w := BitVec.ofInt 200 (-(2 ^ 199)), o := true, t := t }
    else if 2 ^ 199 - 1 < s then { a with w := BitVec.ofInt 200 (2 ^ 199 - 1), o := true, t := t }
    else { a with w := BitVec.ofInt 200 s, t := t }

/-- Take an exact value in: a finite addend, an infinity or NaN (R95, R102). -/
def WAcc.take (a : WAcc) : Val → WAcc
  | .nan => { a with nan := true }
  | .inf n => if n then { a with ninf := true } else { a with pinf := true }
  | .fin n m e => a.takeFin n m e

/-- Take the product of two elements in (R95). -/
def WAcc.takeProd (a : WAcc) (x y : Val) : WAcc :=
  match x, y with
  | .nan, _ => { a with nan := true }
  | _, .nan => { a with nan := true }
  | x, y =>
    let p := x.mul y
    if p.2 = fINVALID then { a with inv := true } else a.take p.1

/-- Take a list of products in. -/
def WAcc.takeProds (a : WAcc) : List Val → List Val → WAcc
  | x :: xs, y :: ys => (a.takeProd x y).takeProds xs ys
  | _, _ => a

/-- Take a list of addends in. -/
def WAcc.takeAll (a : WAcc) : List Val → WAcc
  | [] => a
  | v :: vs => (a.take v).takeAll vs

/-- The value an output write derives, with INVALID, WINX and WOVF; `x` is Ba + Bb (R97). -/
def WAcc.out (a : WAcc) (x : Int) : Val × Flags :=
  if a.nan || a.inv || (a.pinf && a.ninf) then (.nan, fIf (a.inv || (a.pinf && a.ninf)) fINVALID)
  else if a.pinf then (.inf false, 0)
  else if a.ninf then (.inf true, 0)
  else
    let i := a.w.toInt
    (.fin (decide (i < 0)) i.natAbs (a.l.toInt + x), fIf a.t fWINX ||| fIf a.o fWOVF)

/-- The pair classes of R90. -/
inductive PairClass where
  | f4 | i8 | f8 | h16
  deriving DecidableEq, Repr

/-- The class of an operand pair, whichever comes first; none for a pair R90 does not list. -/
def pairClass (a b : Fmt) : Option PairClass :=
  match a.elem, b.elem with
  | .f4, .f4 => some .f4
  | .i8, .i8 => some .i8
  | .e4m3, .e4m3 => some .f8
  | .e4m3, .e5m2 => some .f8
  | .e5m2, .e4m3 => some .f8
  | .b16, .b16 => some .h16
  | .b16, .bf16 => some .h16
  | .bf16, .b16 => some .h16
  | .bf16, .bf16 => some .h16
  | _, _ => none

/-- Core cycles per K element, `c` of R123. -/
def PairClass.cyc : PairClass → Nat
  | .f4 => 1 | .i8 => 2 | .f8 => 2 | .h16 => 4

/-- The window base of a start: -93 for the exact classes, WBASE for the 16-bit class (R92, R93). -/
def PairClass.base (c : PairClass) (wbase : Nat) : Int :=
  match c with
  | .h16 => signed 10 wbase
  | _ => -93

/-! ### Vector lanes (R100 to R103, R174) -/

/-- The functions of R174. -/
inductive VecFn where
  | add | sub | mul | fma | min | max | minnum | maxnum | abs | neg
  | cmpEq | cmpLt | cmpLe | cmpUn | sel | cvt | rsum | rmax | rmin | ftoi | itof
  | iadd | isub | imul | and | or | xor | shl | shr | sar | imin | imax
  deriving DecidableEq, Repr

/-- FN of a VEC trick (R174); every other value is reserved. -/
def VecFn.ofCode : Nat → Option VecFn
  | 0x00 => some .add | 0x01 => some .sub | 0x02 => some .mul | 0x03 => some .fma
  | 0x04 => some .min | 0x05 => some .max | 0x06 => some .minnum | 0x07 => some .maxnum
  | 0x08 => some .abs | 0x09 => some .neg | 0x0A => some .cmpEq | 0x0B => some .cmpLt
  | 0x0C => some .cmpLe | 0x0D => some .cmpUn | 0x0E => some .sel | 0x0F => some .cvt
  | 0x10 => some .rsum | 0x11 => some .rmax | 0x12 => some .rmin | 0x13 => some .ftoi
  | 0x14 => some .itof | 0x18 => some .iadd | 0x19 => some .isub | 0x1A => some .imul
  | 0x1B => some .and | 0x1C => some .or | 0x1D => some .xor | 0x1E => some .shl
  | 0x1F => some .shr | 0x20 => some .sar | 0x21 => some .imin | 0x22 => some .imax
  | _ => none

/-- The functions marked raw: 32-bit lanes in and out, no conversion (R174). -/
def VecFn.isRaw : VecFn → Bool
  | .sel | .iadd | .isub | .imul | .and | .or | .xor | .shl | .shr | .sar | .imin | .imax => true
  | _ => false

def VecFn.isCmp : VecFn → Bool
  | .cmpEq | .cmpLt | .cmpLe | .cmpUn => true
  | _ => false

/-- The reductions of R175. -/
def VecFn.isRed : VecFn → Bool
  | .rsum | .rmax | .rmin => true
  | _ => false

/-- Whether the function uses B, and whether it uses C (R174). -/
def VecFn.usesB : VecFn → Bool
  | .abs | .neg | .cvt | .rsum | .rmax | .rmin | .ftoi | .itof => false
  | _ => true

def VecFn.usesC : VecFn → Bool
  | .fma | .sel => true
  | _ => false

/-- IEEE 754-2019 minimum: a NaN operand gives NaN; -0 is below +0. -/
def vmin (a b : Val) : Val := if a.isNan || b.isNan then .nan else if b.lt a then b else a
def vmax (a b : Val) : Val := if a.isNan || b.isNan then .nan else if a.lt b then b else a
/-- IEEE 754-2019 minimumNumber: a NaN operand yields to the other. -/
def vminnum (a b : Val) : Val := if a.isNan then b else if b.isNan then a else vmin a b
def vmaxnum (a b : Val) : Val := if a.isNan then b else if b.isNan then a else vmax a b

/-- a * b + c, exact; INVALID from 0 * infinity even when c is a NaN (R101). -/
def vfma (a b c : Val) : Val × Flags :=
  let p := a.mul b
  let r := p.1.add c
  (r.1, p.2 ||| r.2)

/-- The result of an element-wise function before conversion (R100, R101). -/
def vecLane (f : VecFn) (a b c : Val) : Val × Flags :=
  match f with
  | .add => a.add b
  | .sub => a.add b.neg
  | .mul => a.mul b
  | .fma => vfma a b c
  | .min => (vmin a b, 0)
  | .max => (vmax a b, 0)
  | .minnum => (vminnum a b, 0)
  | .maxnum => (vmaxnum a b, 0)
  | .abs => (a.abs, 0)
  | .neg => (a.neg, 0)
  | _ => (a, 0)

/-- A comparison's lane mask (R100). -/
def cmpLane (f : VecFn) (a b : Val) : Nat :=
  let t := match f with
    | .cmpEq => a.eq b
    | .cmpLt => a.lt b && !a.eq b
    | .cmpLe => a.lt b || a.eq b
    | _ => a.isNan || b.isNan
  if t then 0xFFFFFFFF else 0

/-- A raw 32-bit lane function (R103). -/
def rawLane (f : VecFn) (a b c : Nat) : Nat :=
  let x := BitVec.ofNat 32 a
  let y := BitVec.ofNat 32 b
  let sh := b % 32
  (match f with
  | .sel => if c % 2 ^ 32 ≠ 0 then x else y
  | .iadd => x + y
  | .isub => x - y
  | .imul => x * y
  | .and => x &&& y
  | .or => x ||| y
  | .xor => x ^^^ y
  | .shl => x <<< sh
  | .shr => x >>> sh
  | .sar => x.sshiftRight sh
  | .imin => if x.toInt ≤ y.toInt then x else y
  | .imax => if x.toInt ≤ y.toInt then y else x
  | _ => x).toNat

/-- FTOI: round under RM to a 32-bit integer, saturating (R103). -/
def ftoiLane (c : Ctl) (r : Nat) : Val → EOut
  | .nan => ⟨0, fNAN_DROPPED, false⟩
  | .inf n => ⟨if n then 0x80000000 else 0x7FFFFFFF, fSATURATED, false⟩
  | .fin n m e =>
    let q := roundRatio c.stoch r (m * 2 ^ e.toNat) (2 ^ (-e).toNat)
    if (if n then 2 ^ 31 else 2 ^ 31 - 1) < q.1 then ⟨if n then 0x80000000 else 0x7FFFFFFF, fSATURATED ||| fINEXACT, false⟩
    else ⟨unsigned 32 (sgn n q.1), fIf (!q.2) fINEXACT ||| fIf (!q.2 && decide (q.1 = 0)) fUNDERFLOW, false⟩

/-- ITOF's source lane as an exact value. -/
def itofVal (a : Nat) : Val := let i := signed 32 a; .fin (decide (i < 0)) i.natAbs 0

/-! ### The transcendental unit (R105 to R107, R176) -/

/-- The functions of R176. -/
inductive TuFn where
  | exp2 | log2 | recip | rsqrt | sin | cos | tanh | logistic | erf | gelu
  deriving DecidableEq, Repr

def TuFn.ofCode : Nat → Option TuFn
  | 0 => some .exp2 | 1 => some .log2 | 2 => some .recip | 3 => some .rsqrt | 4 => some .sin
  | 5 => some .cos | 6 => some .tanh | 7 => some .logistic | 8 => some .erf | 9 => some .gelu
  | _ => none

def TuFn.code : TuFn → Nat
  | .exp2 => 0 | .log2 => 1 | .recip => 2 | .rsqrt => 3 | .sin => 4
  | .cos => 5 | .tanh => 6 | .logistic => 7 | .erf => 8 | .gelu => 9

/-- A result to write: an exact value with flags of its own, or a binary32 approximation of a result that is not a
binary32 value. -/
structure TuOut where
  val : Val
  flags : Flags
  inexact : Bool
  deriving DecidableEq, Repr

def tuExact (v : Val) : TuOut := ⟨v, 0, false⟩
def tuFlag (v : Val) (f : Flags) : TuOut := ⟨v, f, false⟩
def tuApprox (v : Val) : TuOut := ⟨v, 0, true⟩

/-- The odd part of a positive number and the power of two taken out; fuel bounds the steps. -/
def oddPart : Nat → Nat → Nat × Nat
  | 0, m => (m, 0)
  | n + 1, m => if m % 2 = 0 && m != 0 then let r := oddPart n (m / 2); (r.1, r.2 + 1) else (m, 0)

/-- The integer square root, bit by bit from bit `n` down. -/
def isqrt (v : Nat) : Nat → Nat → Nat
  | 0, acc => acc
  | n + 1, acc => if (acc + 2 ^ n) * (acc + 2 ^ n) ≤ v then isqrt v n (acc + 2 ^ n) else isqrt v n acc

/-- The binary32 grid point at or below `N / D`, and its grid's exponent: `q * 2^g` (R105's ULP is `2^g`). -/
def gridBelow (N D : Nat) : Nat × Int :=
  let g := max (log2Ratio N D) (-126) - 23
  (N * 2 ^ (-g).toNat / (D * 2 ^ g.toNat), g)

/-- A binary32 value free within [lo, hi]: the free value where it lies there, else `lo`. -/
def freeWithin (lo hi : Val) (fn : TuFn) (x : Nat) : Val :=
  let r := Elem.b32.decode (Config.approx fn.code x % 2 ^ 32)
  if r.isNan || r.lt lo || hi.lt r then lo else r

/-- A free binary32 value within the bound of R105 around an enclosure, and within [lo, hi], where the shapes of R106
keep it. -/
def freeAround (b : Encl) (ulps a : Nat) (lo hi : Val) (fn : TuFn) (x : Nat) : Val :=
  let r := enclRange b ulps a
  freeWithin (vmax lo r.1) (vmin hi r.2) fn x

/-- One of two neighbours, chosen by the free value. -/
def freeBit (fn : TuFn) (x : Nat) : Nat := Config.approx fn.code x % 2

def vInt (i : Int) : Val := .fin (decide (i < 0)) i.natAbs 0
def vOne : Val := .fin false 1 0
def vMaxB32 : Val := .fin false (2 ^ 24 - 1) 104
def vMinB32 : Val := .fin false 1 (-149)

/-- floor of a finite value. -/
def floorVal (n : Bool) (m : Nat) (e : Int) : Int :=
  Int.fdiv (sgn n (m * 2 ^ e.toNat)) ((2 ^ (-e).toNat : Nat) : Int)

/-- Whether a finite value is an integer. -/
def isIntVal (m : Nat) (e : Int) : Bool := decide (0 ≤ e) || decide (m % 2 ^ (-e).toNat = 0)

/-- A transcendental function of a positive finite input `m * 2^e` whose code is `x`, away from the corners of R107. -/
def tuPos (f : TuFn) (x m : Nat) (e : Int) : TuOut :=
  match f with
  | .exp2 =>
    if 128 ≤ floorVal false m e then tuExact (.fin false 1 128)
    else if isIntVal m e then tuExact (.fin false 1 (floorVal false m e))
    else
      let n := floorVal false m e
      let b := enclExp2 n (fxOf 256 m e - n.toNat * fxOne)
      tuApprox (freeAround b 1 0 (.fin false 1 n) (.fin false 1 (n + 1)) f x)
  | .log2 =>
    let o := oddPart 24 m
    if o.1 = 1 then tuExact (vInt (o.2 + e))
    else
      let L := (Nat.log2 m : Int) + e
      tuApprox (freeAround (enclLog2 m e) 1 26 (vInt L) (vInt (L + 1)) f x)
  | .recip =>
    let o := oddPart 24 m
    if o.1 = 1 && decide (-(o.2 + e) ≤ 127) then tuExact (.fin false 1 (-(o.2 + e)))
    else if dyLe (m * (2 ^ 24 - 1)) (104 + e) 1 0 then tuExact (.fin false 1 128)
    else
      let b := gridBelow (2 ^ (-e).toNat) (m * 2 ^ e.toNat)
      tuApprox (.fin false (b.1 + freeBit f x) b.2)
  | .rsqrt =>
    let o := oddPart 24 m
    if o.1 = 1 && decide ((o.2 + e) % 2 = 0) then tuExact (.fin false 1 (-((o.2 + e) / 2)))
    else
      let L := (Nat.log2 m : Int) + e
      let root (g : Int) : Nat := isqrt (2 ^ (-e - 2 * g).toNat / (m * 2 ^ (e + 2 * g).toNat)) 26 0
      let g0 := Int.fdiv (-L) 2 - 23
      let g := if root g0 < 2 ^ 23 then g0 - 1 else g0
      tuApprox (.fin false (root g + freeBit f x) g)
  | .sin => tuApprox (freeAround (enclSin 0 m e) 2 25 (vInt (-1)) vOne f x)
  | .cos => tuApprox (freeAround (enclSin 1 m e) 2 25 (vInt (-1)) vOne f x)
  | .tanh => tuApprox (freeAround (enclTanh m e) 2 0 vMinB32 vOne f x)
  | .erf => tuApprox (freeAround (enclErf m e) 2 0 vMinB32 vOne f x)
  | .logistic => tuApprox (freeAround (enclLogistic m e) 2 0 (.fin false 1 (-1)) vOne f x)
  | .gelu => tuApprox (freeAround (enclGelu false m e) 3 30 vMinB32 vMaxB32 f x)

/-- A transcendental function of a finite, non-zero negative input of magnitude `m * 2^e`; `x` is the magnitude's code. -/
def tuNeg (f : TuFn) (x m : Nat) (e : Int) : TuOut :=
  match f with
  | .exp2 =>
    let n := floorVal true m e
    if isIntVal m e && decide (-149 ≤ n) then tuExact (.fin false 1 n)
    else if n < -149 then tuApprox (.fin false (Config.approx f.code (x + 2 ^ 31) % 2) (-149))
    else
      let b := enclExp2 n ((-n).toNat * fxOne - fxOf 256 m e)
      tuApprox (freeAround b 1 0 (.fin false 1 n) (.fin false 1 (n + 1)) f (x + 2 ^ 31))
  | .log2 | .rsqrt => tuFlag .nan fINVALID
  | .recip | .sin | .tanh | .erf => let o := tuPos f x m e; { o with val := o.val.neg }
  | .cos => tuPos f x m e
  | .logistic => tuApprox (freeAround (enclLogisticNeg m e) 2 0 .zero (.fin false 1 (-1)) f (x + 2 ^ 31))
  | .gelu => tuApprox (freeAround (enclGelu true m e) 3 30 (vInt (-1)) (.fin true 0 0) f (x + 2 ^ 31))

/-- The corners of R107: ±0, min, max, -max; none where the row defers to R105. -/
def tuCorner (f : TuFn) (c : Nat) : Option TuOut :=
  let vMin : Val := .fin false 1 (-149)
  let nMin := tuApprox vMin
  match f, c with
  | .exp2, 0x00000000 => some (tuExact vOne) | .exp2, 0x80000000 => some (tuExact vOne)
  | .exp2, 0x00000001 => some (tuApprox vOne)
  | .exp2, 0xFF7FFFFF => some (tuApprox .zero)
  | .log2, 0x00000000 => some (tuFlag (.inf true) fDIVZERO)
  | .log2, 0x80000000 => some (tuFlag (.inf true) fDIVZERO)
  | .log2, 0x7F7FFFFF => some (tuApprox (vInt 128))
  | .recip, 0x00000000 => some (tuFlag (.inf false) fDIVZERO)
  | .recip, 0x80000000 => some (tuFlag (.inf true) fDIVZERO)
  | .recip, 0x7F7FFFFF => some (tuApprox (.fin false 1 (-128)))
  | .recip, 0xFF7FFFFF => some (tuApprox (.fin true 1 (-128)))
  | .rsqrt, 0x00000000 => some (tuFlag (.inf false) fDIVZERO)
  | .rsqrt, 0x80000000 => some (tuFlag (.inf true) fDIVZERO)
  | .rsqrt, 0x00000001 => some (tuApprox (Elem.b32.decode 0x64B504F3))
  | .rsqrt, 0x7F7FFFFF => some (tuApprox (.fin false 1 (-64)))
  | .sin, 0x00000000 => some (tuExact .zero) | .sin, 0x80000000 => some (tuExact (.fin true 0 0))
  | .sin, 0x00000001 => some nMin | .sin, 0x80000001 => some (tuApprox vMin.neg)
  | .cos, 0x00000000 => some (tuExact vOne) | .cos, 0x80000000 => some (tuExact vOne)
  | .cos, 0x00000001 => some (tuApprox vOne) | .cos, 0x80000001 => some (tuApprox vOne)
  | .tanh, 0x00000000 => some (tuExact .zero) | .tanh, 0x80000000 => some (tuExact (.fin true 0 0))
  | .tanh, 0x00000001 => some nMin | .tanh, 0x80000001 => some (tuApprox vMin.neg)
  | .tanh, 0x7F7FFFFF => some (tuApprox vOne) | .tanh, 0xFF7FFFFF => some (tuApprox vOne.neg)
  | .erf, 0x00000000 => some (tuExact .zero) | .erf, 0x80000000 => some (tuExact (.fin true 0 0))
  | .erf, 0x00000001 => some nMin | .erf, 0x80000001 => some (tuApprox vMin.neg)
  | .erf, 0x7F7FFFFF => some (tuApprox vOne) | .erf, 0xFF7FFFFF => some (tuApprox vOne.neg)
  | .logistic, 0x00000000 => some (tuExact (.fin false 1 (-1)))
  | .logistic, 0x80000000 => some (tuExact (.fin false 1 (-1)))
  | .logistic, 0x00000001 => some (tuApprox (.fin false 1 (-1)))
  | .logistic, 0x7F7FFFFF => some (tuApprox vOne) | .logistic, 0xFF7FFFFF => some (tuApprox .zero)
  | .gelu, 0x00000000 => some (tuExact .zero) | .gelu, 0x80000000 => some (tuExact (.fin true 0 0))
  | .gelu, 0x00000001 => some nMin
  | .gelu, 0x7F7FFFFF => some (tuApprox vMaxB32) | .gelu, 0xFF7FFFFF => some (tuApprox (.fin true 0 0))
  | _, _ => none

/-- The result at an infinity (R107). -/
def tuInf (f : TuFn) (neg : Bool) : TuOut :=
  match f with
  | .exp2 => tuExact (if neg then .zero else .inf false)
  | .log2 => if neg then tuFlag .nan fINVALID else tuExact (.inf false)
  | .recip => tuExact (.fin neg 0 0)
  | .rsqrt => if neg then tuFlag .nan fINVALID else tuExact .zero
  | .sin | .cos => tuFlag .nan fINVALID
  | .tanh | .erf => tuExact (vInt (if neg then -1 else 1))
  | .logistic => tuExact (if neg then .zero else vOne)
  | .gelu => tuExact (if neg then .fin true 0 0 else .inf false)

/-- A transcendental function of a binary32 code (R105, R107). -/
def tuEval (f : TuFn) (c : Nat) : TuOut :=
  match Elem.b32.decode c with
  | .nan => tuExact .nan
  | .inf n => tuInf f n
  | .fin n m e =>
    match tuCorner f c with
    | some o => o
    | none => if n then tuNeg f (c % 2 ^ 31) m e else tuPos f (c % 2 ^ 31) m e

/-- The conditions of a written transcendental result: INEXACT where it is not the exact one, and UNDERFLOW where its code
is zero or subnormal besides (R87, R107). -/
def tuMark (f : Elem) (o : TuOut) (e : EOut) : EOut :=
  let small := match f with
    | .i8 => decide (e.code = 0)
    | f => decide (e.code % 2 ^ (f.bits - 1) < 2 ^ f.frac)
  let fin := match o.val with
    | .fin _ _ _ => decide (e.flags &&& fOVERFLOW_INF = 0) && !e.nan
    | _ => false
  { e with flags := e.flags ||| o.flags ||| fIf (o.inexact && fin) fINEXACT ||| fIf (o.inexact && fin && small) fUNDERFLOW }

/-- The written elements of a row with the conditions of their results; padding has none. -/
def tuMarks (f : Elem) : List TuOut → List EOut → List EOut
  | o :: os, e :: es => tuMark f o e :: tuMarks f os es
  | _, es => es

/-! ### Fixed-point reductions (R108 to R111) -/

/-- The NaN element (R108). -/
def fixNan : Nat := 2 ^ 63

/-- A contributor's value enters at exponent `E` with headroom `H` (R109). -/
def fixEnter (E : Int) (H : Nat) : Val → Nat × Flags
  | .nan => (fixNan, 0)
  | .inf n => (unsigned 64 (sgn n (2 ^ (63 - H) - 1)), fSATURATED)
  | .fin n m e =>
    let d := e - E
    let q := if 0 ≤ d then m * 2 ^ d.toNat else m / 2 ^ (-d).toNat
    let lost := decide (d < 0) && decide (m % 2 ^ (-d).toNat ≠ 0)
    let lim := 2 ^ (63 - H) - 1
    (unsigned 64 (sgn n (min q lim)), fIf lost fWINX ||| fIf (decide (lim < q)) fWOVF)

/-- The sum of two elements (R110). -/
def fixAdd (a b : Nat) : Nat × Flags :=
  if a % 2 ^ 64 = fixNan || b % 2 ^ 64 = fixNan then (fixNan, 0)
  else
    let s := signed 64 a + signed 64 b
    if s < -(2 ^ 63 - 1) then (unsigned 64 (-(2 ^ 63 - 1)), fWOVF)
    else if 2 ^ 63 - 1 < s then (unsigned 64 (2 ^ 63 - 1), fWOVF)
    else (unsigned 64 s, 0)

/-- An element's value on exit (R111). -/
def fixExit (E : Int) (q : Nat) : Val :=
  if q % 2 ^ 64 = fixNan then .nan
  else
    let i := signed 64 q
    .fin (decide (i < 0)) i.natAbs E

/-- The binary32 atomic add: roundTiesToEven at each arrival (R112). -/
def addB32 (a b : Nat) : Nat × Flags :=
  let s := (Elem.b32.decode a).add (Elem.b32.decode b)
  let o := encodeVal .b32 Ctl.ieee 0 0 1 s.1
  (o.code, o.flags ||| s.2)

end Sys2Proof.Machine
end

