-- ==== Sys2Proof/Machine/RegMap.lean ====
section
/-!
DEFINITION. The register file's map: every register of every unit of R609 with its offset, its array
shape, and each field's place, access code (R599) and reset value, as the unit's chapter maps it.
-/
namespace Sys2Proof.Machine

/-- Access codes of R599. -/
inductive Acc where
  | RO | RW | RWM | RL | WP | W2 | WO
  deriving DecidableEq, Repr

/-- One field of a register: bits [hi:lo], access code and reset value. -/
structure RegField where
  hi : Nat
  lo : Nat
  acc : Acc
  reset : Nat
  deriving DecidableEq, Repr

/-- One register, or an array of registers: offset `base` in the unit, then (count, stride) for each index; `ctr` marks a counter (R603). -/
structure RegRow where
  name : String
  base : Nat
  dims : List (Nat × Nat)
  ctr : Bool
  fields : List RegField
  deriving DecidableEq, Repr

/-- The units of R609. -/
inductive RegUnit where
  | rf | rst | sump | heron | round | sedge | hl | dc | xlat | part
  | arith | cstore | seq | peg | sc | rtlb | dir | ce | fab | rfc | trc | hbmc | lode
  deriving DecidableEq, Repr

/-- The RF unit (R610). -/
def rfRegs : List RegRow :=
  [
    ⟨"ID", 0x0, [], false, [⟨31, 24, .RO, 0x1⟩, ⟨23, 16, .RO, 0x0⟩]⟩,
    ⟨"PAR_ERR", 0x10, [], false, [⟨31, 31, .RO, 0x0⟩, ⟨27, 20, .RO, 0x0⟩, ⟨19, 0, .RO, 0x0⟩]⟩,
    ⟨"ACC_ERR", 0x14, [], false, [⟨31, 31, .RO, 0x0⟩, ⟨30, 28, .RO, 0x0⟩, ⟨27, 20, .RO, 0x0⟩, ⟨19, 0, .RO, 0x0⟩]⟩,
    ⟨"SCAN", 0x20, [], false, [⟨15, 0, .RW, 0x3E8⟩]⟩,
    ⟨"PAR_CNT", 0x200, [], true, [⟨31, 0, .RO, 0x0⟩]⟩,
    ⟨"BADSIZE_CNT", 0x204, [], true, [⟨31, 0, .RO, 0x0⟩]⟩,
    ⟨"HOSTDENY_CNT", 0x208, [], true, [⟨31, 0, .RO, 0x0⟩]⟩,
    ⟨"OFF_CNT", 0x20C, [], true, [⟨31, 0, .RO, 0x0⟩]⟩,
    ⟨"W2_FAIL_CNT", 0x210, [], true, [⟨31, 0, .RO, 0x0⟩]⟩,
    ⟨"WP_DROP_CNT", 0x214, [], true, [⟨31, 0, .RO, 0x0⟩]⟩,
    ⟨"SNAP", 0x7F0, [], false, [⟨31, 0, .WO, 0x0⟩]⟩
  ]

/-- The RST unit (R596). -/
def rstRegs : List RegRow :=
  [
    ⟨"STS", 0x0, [], false, [⟨31, 31, .RL, 0x0⟩, ⟨25, 24, .RO, 0x0⟩, ⟨23, 16, .RO, 0x0⟩, ⟨6, 0, .RO, 0x0⟩]⟩,
    ⟨"PROG", 0x4, [], false, [⟨3, 0, .RL, 0x0⟩]⟩,
    ⟨"SWREQ", 0x20, [], false, [⟨0, 0, .W2, 0x0⟩]⟩,
    ⟨"WDT", 0x30, [], false, [⟨31, 16, .RO, 0x1F4⟩, ⟨15, 0, .RO, 0x64⟩]⟩,
    ⟨"CLK_STS0", 0x40, [], false, [⟨23, 16, .RL, 0x0⟩, ⟨15, 0, .RL, 0x0⟩]⟩,
    ⟨"CLK_STS1", 0x44, [], false, [⟨19, 19, .RL, 0x1⟩, ⟨18, 18, .RL, 0x0⟩, ⟨17, 17, .RL, 0x0⟩, ⟨16, 16, .RL, 0x0⟩, ⟨15, 12, .RL, 0x0⟩, ⟨11, 8, .RL, 0x0⟩, ⟨7, 0, .RL, 0x0⟩]⟩,
    ⟨"BKP_0 to BKP_7", 0x100, [(8, 4)], false, [⟨31, 0, .RW, 0x0⟩]⟩,
    ⟨"BKP_8 to BKP_15", 0x120, [(8, 4)], false, [⟨31, 0, .RO, 0x0⟩]⟩,
    ⟨"BLOCK_CNT", 0x200, [], true, [⟨31, 0, .RO, 0x0⟩]⟩,
    ⟨"B_WDT_CNT", 0x204, [], true, [⟨31, 0, .RO, 0x0⟩]⟩,
    ⟨"H_WDT_CNT", 0x208, [], true, [⟨31, 0, .RO, 0x0⟩]⟩,
    ⟨"DEFER_CNT", 0x20C, [], true, [⟨31, 0, .RO, 0x0⟩]⟩,
    ⟨"CLKFAIL_CNT", 0x210, [], true, [⟨31, 0, .RO, 0x0⟩]⟩,
    ⟨"SNAP", 0x7F0, [], false, [⟨31, 0, .WO, 0x0⟩]⟩
  ]

/-- The SUMP unit (R577). -/
def sumpRegs : List RegRow :=
  [
    ⟨"STS", 0x0, [], false, [⟨31, 31, .RO, 0x0⟩, ⟨30, 30, .RO, 0x0⟩, ⟨29, 29, .RO, 0x0⟩, ⟨28, 28, .RO, 0x0⟩, ⟨21, 11, .RL, 0x0⟩, ⟨10, 0, .RL, 0x0⟩]⟩,
    ⟨"ESC_CTL", 0x10, [], false, [⟨31, 16, .W2, 0x3E8⟩, ⟨15, 0, .W2, 0xA⟩]⟩,
    ⟨"ACK", 0x20, [], false, [⟨31, 16, .WO, 0x0⟩, ⟨1, 0, .WO, 0x0⟩]⟩,
    ⟨"FATAL_w", 0x40, [(4, 4)], false, [⟨31, 0, .RO, 0x0⟩]⟩,
    ⟨"LAST_w", 0x50, [(4, 4)], false, [⟨31, 0, .RO, 0x0⟩]⟩,
    ⟨"DRILL", 0x100, [], false, [⟨0, 0, .W2, 0x0⟩]⟩,
    ⟨"FORCE_SEL", 0x110, [], false, [⟨31, 16, .W2, 0x0⟩, ⟨11, 0, .W2, 0x0⟩]⟩,
    ⟨"FORCE_ADDR_LO", 0x118, [], false, [⟨31, 0, .RW, 0x0⟩]⟩,
    ⟨"FORCE_ADDR_HI", 0x11C, [], false, [⟨23, 21, .RW, 0x0⟩, ⟨19, 0, .RW, 0x0⟩]⟩,
    ⟨"FORCE_GO", 0x120, [], false, [⟨0, 0, .WO, 0x0⟩]⟩,
    ⟨"CE_CNT", 0x200, [], true, [⟨31, 0, .RO, 0x0⟩]⟩,
    ⟨"CU_CNT", 0x204, [], true, [⟨31, 0, .RO, 0x0⟩]⟩,
    ⟨"ESC_CNT", 0x208, [], true, [⟨31, 0, .RO, 0x0⟩]⟩,
    ⟨"FQ_DROP_CNT", 0x20C, [], true, [⟨31, 0, .RO, 0x0⟩]⟩,
    ⟨"FORCE_CNT", 0x210, [], true, [⟨31, 0, .RO, 0x0⟩]⟩,
    ⟨"FORCE_REJ_CNT", 0x214, [], true, [⟨31, 0, .RO, 0x0⟩]⟩,
    ⟨"SNAP", 0x7F0, [], false, [⟨31, 0, .WO, 0x0⟩]⟩
  ]

/-- The HERON unit (R552). -/
def heronRegs : List RegRow :=
  [
    ⟨"STS", 0x0, [], false, [⟨27, 16, .RO, 0x0⟩, ⟨15, 8, .RO, 0x0⟩, ⟨6, 4, .RO, 0x0⟩, ⟨3, 3, .RO, 0x0⟩, ⟨2, 2, .RO, 0x0⟩, ⟨1, 0, .RL, 0x0⟩]⟩,
    ⟨"OP_r", 0x10, [(4, 4)], false, [⟨26, 24, .RL, 0x0⟩, ⟨22, 20, .RL, 0x0⟩, ⟨18, 16, .RL, 0x0⟩, ⟨11, 11, .RL, 0x0⟩, ⟨10, 10, .RL, 0x0⟩, ⟨9, 9, .RL, 0x0⟩, ⟨8, 8, .RL, 0x0⟩, ⟨2, 0, .RL, 0x0⟩]⟩,
    ⟨"TJ", 0x40, [], false, [⟨23, 16, .RO, 0x0⟩, ⟨13, 8, .RL, 0x0⟩, ⟨7, 0, .RL, 0x0⟩]⟩,
    ⟨"POWER", 0x44, [], false, [⟨15, 0, .RL, 0x0⟩]⟩,
    ⟨"TEMP_w", 0x100, [(16, 4)], false, [⟨31, 0, .RL, 0xFFFFFFFF⟩]⟩,
    ⟨"RAIL_n_I", 0x200, [(9, 8)], false, [⟨31, 16, .RO, 0x0⟩, ⟨15, 0, .RL, 0x0⟩]⟩,
    ⟨"RAIL_n_V", 0x204, [(9, 8)], false, [⟨15, 0, .RL, 0x0⟩]⟩,
    ⟨"FW_STS", 0x300, [], false, [⟨8, 8, .RL, 0x0⟩, ⟨6, 4, .RL, 0x0⟩, ⟨2, 0, .RL, 0x0⟩]⟩,
    ⟨"FW_RND_LO", 0x304, [], false, [⟨31, 0, .RL, 0x0⟩]⟩,
    ⟨"FW_RND_HI", 0x308, [], false, [⟨31, 0, .RL, 0x0⟩]⟩,
    ⟨"LOG_STS", 0x400, [], false, [⟨31, 31, .RO, 0x0⟩, ⟨27, 16, .RO, 0x0⟩, ⟨14, 0, .RO, 0x0⟩]⟩,
    ⟨"LOG_SEQ", 0x404, [], false, [⟨31, 0, .RO, 0x0⟩]⟩,
    ⟨"LOG_SEL", 0x410, [], false, [⟨31, 31, .RW, 0x0⟩, ⟨14, 0, .RW, 0x0⟩]⟩,
    ⟨"LOG_DATA_w", 0x420, [(8, 4)], false, [⟨31, 0, .RO, 0x0⟩]⟩,
    ⟨"GRANT_CNT", 0x600, [], true, [⟨31, 0, .RO, 0x0⟩]⟩,
    ⟨"REFUSE_CNT", 0x604, [], true, [⟨31, 0, .RO, 0x0⟩]⟩,
    ⟨"THR_CNT", 0x608, [], true, [⟨31, 0, .RO, 0x0⟩]⟩,
    ⟨"TCAP_CNT", 0x60C, [], true, [⟨31, 0, .RO, 0x0⟩]⟩,
    ⟨"DEFER_CNT", 0x610, [], true, [⟨31, 0, .RO, 0x0⟩]⟩,
    ⟨"SNAP", 0x7F0, [], false, [⟨31, 0, .WO, 0x0⟩]⟩
  ]

/-- The ROUND unit (R58). -/
def roundRegs : List RegRow :=
  [
    ⟨"CTL", 0x0, [], false, [⟨23, 20, .W2, 0x0⟩, ⟨19, 16, .W2, 0x0⟩, ⟨10, 8, .W2, 0x2⟩, ⟨5, 5, .W2, 0x0⟩, ⟨4, 4, .W2, 0x0⟩, ⟨3, 2, .W2, 0x0⟩, ⟨0, 0, .W2, 0x0⟩]⟩,
    ⟨"STS", 0x10, [], false, [⟨16, 16, .RO, 0x0⟩, ⟨15, 12, .RO, 0x0⟩, ⟨11, 10, .RL, 0x3⟩, ⟨7, 3, .RO, 0x0⟩, ⟨2, 0, .RL, 0x0⟩]⟩,
    ⟨"RND_LO", 0x20, [], false, [⟨31, 0, .RO, 0x0⟩]⟩,
    ⟨"RND_HI", 0x24, [], false, [⟨31, 0, .RO, 0x0⟩]⟩,
    ⟨"RND_OFS", 0x28, [], false, [⟨31, 31, .RO, 0x0⟩, ⟨9, 0, .RO, 0x0⟩]⟩,
    ⟨"EPOCH", 0x30, [], false, [⟨15, 0, .RW, 0x0⟩]⟩,
    ⟨"MASTER", 0x34, [], false, [⟨17, 0, .RO, 0x0⟩]⟩,
    ⟨"STANDBY", 0x40, [], false, [⟨17, 16, .RW, 0x0⟩, ⟨15, 0, .RW, 0x100⟩]⟩,
    ⟨"HOLD", 0x44, [], false, [⟨23, 0, .RW, 0x10000⟩]⟩,
    ⟨"ASYM_n", 0x80, [(16, 4)], false, [⟨7, 0, .RW, 0x0⟩]⟩,
    ⟨"DELAY_n", 0xC0, [(16, 4)], false, [⟨31, 31, .RO, 0x0⟩, ⟨23, 0, .RO, 0x0⟩]⟩,
    ⟨"OFFSET", 0x100, [], false, [⟨15, 0, .RO, 0x0⟩]⟩,
    ⟨"PPS_RND_LO", 0x110, [], false, [⟨31, 0, .RO, 0x0⟩]⟩,
    ⟨"PPS_RND_HI", 0x114, [], false, [⟨31, 0, .RO, 0x0⟩]⟩,
    ⟨"PPS_OFS", 0x118, [], false, [⟨31, 31, .RO, 0x0⟩, ⟨9, 0, .RO, 0x0⟩]⟩,
    ⟨"MISS_CNT", 0x200, [], true, [⟨31, 0, .RO, 0x0⟩]⟩,
    ⟨"LATE_CNT", 0x204, [], true, [⟨31, 0, .RO, 0x0⟩]⟩,
    ⟨"BAD_CNT", 0x208, [], true, [⟨31, 0, .RO, 0x0⟩]⟩,
    ⟨"STALE_CNT", 0x20C, [], true, [⟨31, 0, .RO, 0x0⟩]⟩,
    ⟨"STEP_CNT", 0x210, [], true, [⟨31, 0, .RO, 0x0⟩]⟩
  ] ++
  [
    ⟨"HOLD_CNT", 0x214, [], true, [⟨31, 0, .RO, 0x0⟩]⟩,
    ⟨"SNAP", 0x1F0, [], false, [⟨31, 0, .WO, 0x0⟩]⟩
  ]

/-- The SEDGE unit (R632). -/
def sedgeRegs : List RegRow :=
  [
    ⟨"STS", 0x0, [], false, [⟨31, 29, .RL, 0x0⟩, ⟨28, 28, .RL, 0x0⟩, ⟨27, 25, .RO, 0x0⟩, ⟨23, 16, .RO, 0x0⟩, ⟨7, 4, .RL, 0x0⟩, ⟨3, 0, .RL, 0x0⟩]⟩,
    ⟨"SVN", 0x10, [], false, [⟨31, 24, .RO, 0x0⟩, ⟨23, 16, .RO, 0x0⟩, ⟨15, 8, .RO, 0x0⟩, ⟨3, 0, .RO, 0x0⟩]⟩,
    ⟨"FABRIC", 0x20, [], false, [⟨31, 31, .RO, 0x0⟩, ⟨17, 0, .RO, 0x0⟩]⟩,
    ⟨"OWNER", 0x24, [], false, [⟨31, 31, .RO, 0x0⟩]⟩,
    ⟨"IDE", 0x30, [], false, [⟨8, 0, .RL, 0x0⟩]⟩,
    ⟨"TDI_p", 0x40, [(8, 4)], false, [⟨11, 8, .RO, 0x0⟩, ⟨1, 0, .RL, 0x0⟩]⟩,
    ⟨"SESSION_CNT", 0x200, [], true, [⟨31, 0, .RO, 0x0⟩]⟩,
    ⟨"AUTH_FAIL_CNT", 0x204, [], true, [⟨31, 0, .RO, 0x0⟩]⟩,
    ⟨"KEM_CNT", 0x208, [], true, [⟨31, 0, .RO, 0x0⟩]⟩,
    ⟨"KEYUPD_CNT", 0x20C, [], true, [⟨31, 0, .RO, 0x0⟩]⟩,
    ⟨"ZERO_CNT", 0x210, [], true, [⟨31, 0, .RO, 0x0⟩]⟩,
    ⟨"RESEED_CNT", 0x214, [], true, [⟨31, 0, .RO, 0x0⟩]⟩,
    ⟨"HEALTH_FAIL_CNT", 0x218, [], true, [⟨31, 0, .RO, 0x0⟩]⟩,
    ⟨"SNAP", 0x7F0, [], false, [⟨31, 0, .WO, 0x0⟩]⟩
  ]

/-- The HL unit (R469). -/
def hlRegs : List RegRow :=
  [
    ⟨"CTL", 0x0, [], false, [⟨23, 16, .RW, 0xA⟩, ⟨15, 0, .RW, 0x3E8⟩]⟩,
    ⟨"STS", 0x10, [], false, [⟨31, 30, .RL, 0x0⟩, ⟨29, 29, .RL, 0x0⟩, ⟨28, 28, .RO, 0x0⟩, ⟨27, 27, .RL, 0x0⟩, ⟨26, 26, .RL, 0x0⟩, ⟨23, 20, .RL, 0x0⟩, ⟨15, 8, .RO, 0x0⟩]⟩,
    ⟨"LWL_STS", 0x20, [], false, [⟨31, 31, .RO, 0x0⟩, ⟨9, 0, .RO, 0x0⟩]⟩,
    ⟨"LWL_OVF_LO", 0x24, [], false, [⟨31, 0, .RO, 0x0⟩]⟩,
    ⟨"LWL_OVF_HI", 0x28, [], false, [⟨31, 0, .RO, 0x0⟩]⟩,
    ⟨"IRQ_PEND_w", 0x100, [(64, 4)], false, [⟨31, 0, .RL, 0x0⟩]⟩,
    ⟨"RETRAIN_CNT", 0x200, [], true, [⟨31, 0, .RO, 0x0⟩]⟩,
    ⟨"HOLD_CNT", 0x204, [], true, [⟨31, 0, .RO, 0x0⟩]⟩,
    ⟨"ABANDON_CNT", 0x208, [], true, [⟨31, 0, .RO, 0x0⟩]⟩,
    ⟨"LWL_DROP_CNT", 0x20C, [], true, [⟨31, 0, .RO, 0x0⟩]⟩,
    ⟨"CTO_CNT", 0x210, [], true, [⟨31, 0, .RO, 0x0⟩]⟩,
    ⟨"UNEXP_CNT", 0x214, [], true, [⟨31, 0, .RO, 0x0⟩]⟩,
    ⟨"BADREQ_CNT", 0x218, [], true, [⟨31, 0, .RO, 0x0⟩]⟩,
    ⟨"L1_CNT", 0x21C, [], true, [⟨31, 0, .RO, 0x0⟩]⟩,
    ⟨"MSG_CNT", 0x220, [], true, [⟨31, 0, .RO, 0x0⟩]⟩,
    ⟨"SNAP", 0x7F0, [], false, [⟨31, 0, .WO, 0x0⟩]⟩,
    ⟨"LWL_n_W0", 0x1000, [(512, 16)], false, [⟨31, 31, .RO, 0x0⟩, ⟨30, 29, .RO, 0x0⟩, ⟨28, 28, .RO, 0x0⟩, ⟨27, 27, .RO, 0x0⟩, ⟨26, 21, .RO, 0x0⟩, ⟨20, 14, .RO, 0x0⟩, ⟨7, 0, .RO, 0x0⟩]⟩,
    ⟨"LWL_n_W1", 0x1004, [(512, 16)], false, [⟨31, 0, .RO, 0x0⟩]⟩,
    ⟨"LWL_n_W2", 0x1008, [(512, 16)], false, [⟨13, 0, .RO, 0x0⟩]⟩,
    ⟨"LWL_n_W3", 0x100C, [(512, 16)], false, [⟨15, 0, .RO, 0x0⟩]⟩
  ] ++
  [
    ⟨"BIAS_w", 0x10000, [(6144, 4)], false, [⟨31, 0, .RO, 0x0⟩]⟩
  ]

/-- The DC unit (R312). -/
def dcRegs : List RegRow :=
  [
    ⟨"CTL", 0x0, [], false, [⟨0, 0, .RW, 0x1⟩]⟩,
    ⟨"STS", 0x10, [], false, [⟨29, 16, .RL, 0x0⟩, ⟨2, 0, .RL, 0x0⟩]⟩,
    ⟨"OCC", 0x14, [], false, [⟨31, 24, .RL, 0x0⟩, ⟨23, 12, .RL, 0x0⟩, ⟨11, 0, .RL, 0x0⟩]⟩,
    ⟨"LFSR", 0x20, [], false, [⟨15, 0, .RW, 0x1⟩]⟩,
    ⟨"WAYMASK_n", 0x40, [(9, 4)], false, [⟨16, 16, .RO, 0x0⟩, ⟨15, 0, .RO, 0x0⟩]⟩,
    ⟨"MAINT", 0x100, [], false, [⟨31, 31, .RL, 0x0⟩, ⟨27, 26, .RO, 0x0⟩, ⟨5, 4, .RO, 0x0⟩, ⟨1, 0, .RO, 0x0⟩]⟩,
    ⟨"MAINT_A0", 0x104, [], false, [⟨31, 0, .RO, 0x0⟩]⟩,
    ⟨"MAINT_A1", 0x108, [], false, [⟨13, 0, .RO, 0x0⟩]⟩,
    ⟨"MAINT_SW", 0x10C, [], false, [⟨31, 16, .RO, 0x0⟩, ⟨13, 0, .RO, 0x0⟩]⟩,
    ⟨"MAINT_CNT", 0x110, [], false, [⟨14, 0, .RO, 0x0⟩]⟩,
    ⟨"ERR", 0x180, [], false, [⟨31, 31, .RO, 0x0⟩, ⟨30, 29, .RO, 0x0⟩, ⟨17, 14, .RO, 0x0⟩, ⟨13, 0, .RO, 0x0⟩]⟩,
    ⟨"HIT_CNT", 0x200, [], true, [⟨31, 0, .RO, 0x0⟩]⟩,
    ⟨"MISS_CNT", 0x204, [], true, [⟨31, 0, .RO, 0x0⟩]⟩,
    ⟨"WT_CNT", 0x208, [], true, [⟨31, 0, .RO, 0x0⟩]⟩,
    ⟨"ZERO_CNT", 0x20C, [], true, [⟨31, 0, .RO, 0x0⟩]⟩,
    ⟨"PF_CNT", 0x210, [], true, [⟨31, 0, .RO, 0x0⟩]⟩,
    ⟨"PF_USE_CNT", 0x214, [], true, [⟨31, 0, .RO, 0x0⟩]⟩,
    ⟨"EVICT_CNT", 0x218, [], true, [⟨31, 0, .RO, 0x0⟩]⟩,
    ⟨"EVB_WAIT_CNT", 0x21C, [], true, [⟨31, 0, .RO, 0x0⟩]⟩,
    ⟨"SNP_CNT", 0x220, [], true, [⟨31, 0, .RO, 0x0⟩]⟩
  ] ++
  [
    ⟨"SNP_INV_CNT", 0x224, [], true, [⟨31, 0, .RO, 0x0⟩]⟩,
    ⟨"PAR_CNT", 0x228, [], true, [⟨31, 0, .RO, 0x0⟩]⟩,
    ⟨"SNAP", 0x7F0, [], false, [⟨31, 0, .WO, 0x0⟩]⟩
  ]

/-- The XLAT unit (R289). -/
def xlatRegs : List RegRow :=
  [
    ⟨"CTX_n", 0x0, [(64, 4)], false, [⟨31, 31, .RO, 0x0⟩, ⟨26, 24, .RO, 0x0⟩, ⟨23, 16, .RO, 0x0⟩, ⟨0, 0, .RO, 0x0⟩]⟩,
    ⟨"FLT_n_W0", 0x400, [(64, 32)], false, [⟨31, 31, .RO, 0x0⟩, ⟨27, 24, .RO, 0x0⟩, ⟨23, 22, .RO, 0x0⟩, ⟨21, 20, .RO, 0x0⟩, ⟨19, 16, .RO, 0x0⟩, ⟨15, 12, .RO, 0x0⟩, ⟨6, 0, .RO, 0x0⟩]⟩,
    ⟨"FLT_n_W1", 0x404, [(64, 32)], false, [⟨31, 0, .RO, 0x0⟩]⟩,
    ⟨"FLT_n_W2", 0x408, [(64, 32)], false, [⟨15, 0, .RO, 0x0⟩]⟩,
    ⟨"FLT_n_W3", 0x40C, [(64, 32)], false, [⟨31, 0, .RO, 0x0⟩]⟩,
    ⟨"FLT_n_W4", 0x410, [(64, 32)], false, [⟨31, 0, .RO, 0x0⟩]⟩,
    ⟨"FLT_n_W5", 0x414, [(64, 32)], false, [⟨31, 0, .RO, 0x0⟩]⟩,
    ⟨"FLT_n_W6", 0x418, [(64, 32)], false, [⟨31, 0, .RO, 0x0⟩]⟩,
    ⟨"INV_STS", 0xC00, [], false, [⟨3, 0, .RL, 0x0⟩]⟩,
    ⟨"INV_CNT", 0xC10, [], true, [⟨31, 0, .RO, 0x0⟩]⟩,
    ⟨"FLT_CNT", 0xC14, [], true, [⟨31, 0, .RO, 0x0⟩]⟩,
    ⟨"SNAP", 0xFF0, [], false, [⟨31, 0, .WO, 0x0⟩]⟩,
    ⟨"SEG_c_s_W0", 0x10000, [(64, 256), (16, 16)], false, [⟨31, 31, .RO, 0x0⟩, ⟨30, 28, .RO, 0x0⟩, ⟨27, 27, .RO, 0x0⟩, ⟨26, 26, .RO, 0x0⟩, ⟨25, 25, .RO, 0x0⟩, ⟨24, 24, .RO, 0x0⟩, ⟨23, 22, .RO, 0x0⟩, ⟨8, 8, .RO, 0x0⟩, ⟨7, 0, .RO, 0x0⟩]⟩,
    ⟨"SEG_c_s_W1", 0x10004, [(64, 256), (16, 16)], false, [⟨27, 0, .RO, 0x0⟩]⟩,
    ⟨"SEG_c_s_W2", 0x10008, [(64, 256), (16, 16)], false, [⟨31, 0, .RO, 0x0⟩]⟩,
    ⟨"SEG_c_s_W3", 0x1000C, [(64, 256), (16, 16)], false, [⟨3, 0, .RO, 0x0⟩]⟩
  ]

/-- The PART unit (R520). -/
def partRegs : List RegRow :=
  [
    ⟨"STS_p", 0x0, [(8, 128)], false, [⟨31, 30, .RL, 0x0⟩, ⟨29, 29, .RO, 0x0⟩, ⟨22, 16, .RO, 0x0⟩, ⟨6, 0, .RL, 0x0⟩]⟩,
    ⟨"CORES_w", 0x4, [(8, 128), (3, 4)], false, [⟨31, 0, .RO, 0x0⟩]⟩,
    ⟨"CE", 0x10, [(8, 128)], false, [⟨15, 8, .RO, 0x0⟩, ⟨7, 0, .RO, 0x0⟩]⟩,
    ⟨"T1_LIMIT", 0x14, [(8, 128)], false, [⟨31, 0, .RO, 0x0⟩]⟩,
    ⟨"T1_USED", 0x18, [(8, 128)], false, [⟨31, 0, .RL, 0x0⟩]⟩,
    ⟨"T2_LIMIT", 0x1C, [(8, 128)], false, [⟨16, 0, .RO, 0x0⟩]⟩,
    ⟨"T2_USED", 0x20, [(8, 128)], false, [⟨16, 0, .RL, 0x0⟩]⟩,
    ⟨"T0_n", 0x40, [(8, 128), (8, 4)], false, [⟨31, 16, .RO, 0x0⟩, ⟨15, 0, .RL, 0x0⟩]⟩
  ]

/-- The ARITH unit (R116). -/
def arithRegs : List RegRow :=
  [
    ⟨"FLAGS_ME", 0x0, [(26, 64)], false, [⟨31, 16, .RWM, 0x0⟩, ⟨9, 9, .RWM, 0x0⟩, ⟨8, 8, .RWM, 0x0⟩, ⟨7, 7, .RWM, 0x0⟩, ⟨6, 6, .RWM, 0x0⟩, ⟨5, 5, .RWM, 0x0⟩, ⟨4, 4, .RWM, 0x0⟩, ⟨3, 3, .RWM, 0x0⟩, ⟨2, 2, .RWM, 0x0⟩, ⟨1, 1, .RWM, 0x0⟩, ⟨0, 0, .RWM, 0x0⟩]⟩,
    ⟨"FLAGS_VE", 0x4, [(26, 64)], false, [⟨31, 16, .RWM, 0x0⟩, ⟨9, 9, .RWM, 0x0⟩, ⟨8, 8, .RWM, 0x0⟩, ⟨7, 7, .RWM, 0x0⟩, ⟨6, 6, .RWM, 0x0⟩, ⟨5, 5, .RWM, 0x0⟩, ⟨4, 4, .RWM, 0x0⟩, ⟨3, 3, .RWM, 0x0⟩, ⟨2, 2, .RWM, 0x0⟩, ⟨1, 1, .RWM, 0x0⟩, ⟨0, 0, .RWM, 0x0⟩]⟩,
    ⟨"FLAGS_TU", 0x8, [(26, 64)], false, [⟨31, 16, .RWM, 0x0⟩, ⟨9, 9, .RWM, 0x0⟩, ⟨8, 8, .RWM, 0x0⟩, ⟨7, 7, .RWM, 0x0⟩, ⟨6, 6, .RWM, 0x0⟩, ⟨5, 5, .RWM, 0x0⟩, ⟨4, 4, .RWM, 0x0⟩, ⟨3, 3, .RWM, 0x0⟩, ⟨2, 2, .RWM, 0x0⟩, ⟨1, 1, .RWM, 0x0⟩, ⟨0, 0, .RWM, 0x0⟩]⟩,
    ⟨"FLAGS_SE", 0xC, [(26, 64)], false, [⟨31, 16, .RWM, 0x0⟩, ⟨9, 9, .RWM, 0x0⟩, ⟨8, 8, .RWM, 0x0⟩, ⟨7, 7, .RWM, 0x0⟩, ⟨6, 6, .RWM, 0x0⟩, ⟨5, 5, .RWM, 0x0⟩, ⟨4, 4, .RWM, 0x0⟩, ⟨3, 3, .RWM, 0x0⟩, ⟨2, 2, .RWM, 0x0⟩, ⟨1, 1, .RWM, 0x0⟩, ⟨0, 0, .RWM, 0x0⟩]⟩,
    ⟨"WINX_CNT", 0x10, [(26, 64)], true, [⟨31, 0, .RO, 0x0⟩]⟩,
    ⟨"WOVF_CNT", 0x14, [(26, 64)], true, [⟨31, 0, .RO, 0x0⟩]⟩,
    ⟨"INV_CNT", 0x18, [(26, 64)], true, [⟨31, 0, .RO, 0x0⟩]⟩,
    ⟨"SAT_CNT", 0x1C, [(26, 64)], true, [⟨31, 0, .RO, 0x0⟩]⟩,
    ⟨"NAN_CNT", 0x20, [(26, 64)], true, [⟨31, 0, .RO, 0x0⟩]⟩,
    ⟨"SNAP", 0x7F0, [], false, [⟨31, 0, .WO, 0x0⟩]⟩
  ]

/-- The CSTORE unit (R157). -/
def cstoreRegs : List RegRow :=
  [
    ⟨"STS", 0x0, [(26, 64)], false, [⟨11, 8, .RO, 0x0⟩, ⟨7, 6, .RL, 0x0⟩, ⟨5, 5, .RO, 0x0⟩, ⟨4, 4, .RO, 0x0⟩]⟩,
    ⟨"CE_CNT", 0x4, [(26, 64)], true, [⟨31, 0, .RO, 0x0⟩]⟩,
    ⟨"UE_CNT", 0x8, [(26, 64)], true, [⟨31, 0, .RO, 0x0⟩]⟩,
    ⟨"UE_ADDR", 0xC, [(26, 64)], false, [⟨31, 31, .RO, 0x0⟩, ⟨22, 3, .RO, 0x0⟩]⟩,
    ⟨"SPARE", 0x10, [(26, 64)], false, [⟨10, 0, .RO, 0x0⟩]⟩,
    ⟨"CC_CE_CNT", 0x14, [(26, 64)], true, [⟨31, 0, .RO, 0x0⟩]⟩,
    ⟨"CC_UE_CNT", 0x18, [(26, 64)], true, [⟨31, 0, .RO, 0x0⟩]⟩,
    ⟨"CONFLICT_CNT", 0x1C, [(26, 64)], true, [⟨31, 0, .RO, 0x0⟩]⟩,
    ⟨"PROMOTE_CNT", 0x20, [(26, 64)], true, [⟨31, 0, .RO, 0x0⟩]⟩,
    ⟨"SCRUB_PASS", 0x24, [(26, 64)], true, [⟨31, 0, .RO, 0x0⟩]⟩,
    ⟨"SCRUB_CTL", 0x7E0, [], false, [⟨16, 16, .RW, 0x1⟩, ⟨15, 0, .RW, 0x400⟩]⟩,
    ⟨"SNAP", 0x7F0, [], false, [⟨31, 0, .WO, 0x0⟩]⟩
  ]

/-- The SEQ unit (R207). -/
def seqRegs : List RegRow :=
  [
    ⟨"STS", 0x0, [(26, 64)], false, [⟨29, 16, .RL, 0x0⟩, ⟨15, 12, .RL, 0x0⟩, ⟨11, 8, .RL, 0x0⟩, ⟨2, 0, .RL, 0x0⟩]⟩,
    ⟨"FAULT", 0x4, [(26, 64)], false, [⟨31, 31, .RO, 0x0⟩, ⟨23, 16, .RO, 0x0⟩, ⟨13, 0, .RO, 0x0⟩]⟩,
    ⟨"BASE_LO", 0x8, [(26, 64)], false, [⟨31, 0, .RO, 0x0⟩]⟩,
    ⟨"BASE_HI", 0xC, [(26, 64)], false, [⟨31, 0, .RO, 0x0⟩]⟩,
    ⟨"ISSUE_CNT", 0x10, [(26, 64)], true, [⟨31, 0, .RO, 0x0⟩]⟩,
    ⟨"DL_MET_CNT", 0x14, [(26, 64)], true, [⟨31, 0, .RO, 0x0⟩]⟩,
    ⟨"DL_MISS_CNT", 0x18, [(26, 64)], true, [⟨31, 0, .RO, 0x0⟩]⟩,
    ⟨"TFENCE_CNT", 0x1C, [(26, 64)], true, [⟨31, 0, .RO, 0x0⟩]⟩,
    ⟨"WAIT_CYC", 0x20, [(26, 64)], true, [⟨31, 0, .RO, 0x0⟩]⟩,
    ⟨"HOLD_CYC", 0x24, [(26, 64)], true, [⟨31, 0, .RO, 0x0⟩]⟩,
    ⟨"SNAP", 0x7F0, [], false, [⟨31, 0, .WO, 0x0⟩]⟩
  ]

/-- The PEG unit (R223). -/
def pegRegs : List RegRow :=
  [
    ⟨"PART_n", 0x0, [(8, 4)], false, [⟨31, 16, .RO, 0x0⟩, ⟨14, 0, .RO, 0x0⟩]⟩,
    ⟨"CTX_n", 0x100, [(64, 4)], false, [⟨31, 16, .RO, 0x0⟩, ⟨14, 0, .RO, 0x0⟩]⟩,
    ⟨"ECC", 0x300, [], false, [⟨31, 31, .RO, 0x0⟩, ⟨12, 0, .RO, 0x0⟩]⟩,
    ⟨"SIG_CNT", 0x400, [], true, [⟨31, 0, .RO, 0x0⟩]⟩,
    ⟨"WAKE_CNT", 0x404, [], true, [⟨31, 0, .RO, 0x0⟩]⟩,
    ⟨"SAT_CNT", 0x408, [], true, [⟨31, 0, .RO, 0x0⟩]⟩,
    ⟨"RMT_DROP_CNT", 0x40C, [], true, [⟨31, 0, .RO, 0x0⟩]⟩,
    ⟨"CE_CNT", 0x410, [], true, [⟨31, 0, .RO, 0x0⟩]⟩,
    ⟨"UE_CNT", 0x414, [], true, [⟨31, 0, .RO, 0x0⟩]⟩,
    ⟨"POISON_SIG_CNT", 0x418, [], true, [⟨31, 0, .RO, 0x0⟩]⟩,
    ⟨"SNAP", 0x7F0, [], false, [⟨31, 0, .WO, 0x0⟩]⟩,
    ⟨"COUNT_m", 0x10000, [(8192, 16)], false, [⟨31, 0, .RO, 0x0⟩]⟩,
    ⟨"TARGET_m", 0x10004, [(8192, 16)], false, [⟨31, 0, .RO, 0x0⟩]⟩,
    ⟨"STATE_m", 0x10008, [(8192, 16)], false, [⟨15, 8, .RL, 0x0⟩, ⟨3, 3, .RO, 0x0⟩, ⟨2, 2, .RO, 0x0⟩, ⟨1, 1, .RL, 0x0⟩, ⟨0, 0, .RO, 0x0⟩]⟩
  ]

/-- The SC unit (R259). -/
def scRegs : List RegRow :=
  [
    ⟨"WAYMASK_n", 0x0, [(9, 4)], false, [⟨20, 16, .RO, 0x0⟩, ⟨15, 0, .RO, 0x0⟩]⟩,
    ⟨"REG_SC_n", 0x40, [(9, 8)], false, [⟨31, 16, .RO, 0x0⟩, ⟨15, 15, .RO, 0x0⟩, ⟨12, 0, .RO, 0x0⟩]⟩,
    ⟨"REG_HBM_n", 0x44, [(9, 8)], false, [⟨31, 16, .RO, 0x0⟩, ⟨15, 15, .RO, 0x0⟩, ⟨12, 0, .RO, 0x0⟩]⟩,
    ⟨"HIT_CNT", 0x200, [], true, [⟨31, 0, .RO, 0x0⟩]⟩,
    ⟨"MISS_CNT", 0x204, [], true, [⟨31, 0, .RO, 0x0⟩]⟩,
    ⟨"WB_CNT", 0x208, [], true, [⟨31, 0, .RO, 0x0⟩]⟩,
    ⟨"LAST_DROP_CNT", 0x20C, [], true, [⟨31, 0, .RO, 0x0⟩]⟩,
    ⟨"ATOMIC_CNT", 0x210, [], true, [⟨31, 0, .RO, 0x0⟩]⟩,
    ⟨"CE_CNT", 0x214, [], true, [⟨31, 0, .RO, 0x0⟩]⟩,
    ⟨"UE_CNT", 0x218, [], true, [⟨31, 0, .RO, 0x0⟩]⟩,
    ⟨"WAIT_n", 0x300, [(9, 4)], true, [⟨31, 0, .RO, 0x0⟩]⟩,
    ⟨"SNAP", 0x7F0, [], false, [⟨31, 0, .WO, 0x0⟩]⟩
  ]

/-- The RTLB unit (R290). -/
def rtlbRegs : List RegRow :=
  [
    ⟨"CTL", 0x0, [], false, [⟨0, 0, .RW, 0x1⟩]⟩,
    ⟨"STS", 0x10, [], false, [⟨27, 16, .RL, 0x0⟩, ⟨4, 0, .RL, 0x0⟩]⟩,
    ⟨"UTLB_MISS_CNT", 0x200, [], true, [⟨31, 0, .RO, 0x0⟩]⟩,
    ⟨"HIT_CNT", 0x204, [], true, [⟨31, 0, .RO, 0x0⟩]⟩,
    ⟨"MISS_CNT", 0x208, [], true, [⟨31, 0, .RO, 0x0⟩]⟩,
    ⟨"WALK_CNT", 0x20C, [], true, [⟨31, 0, .RO, 0x0⟩]⟩,
    ⟨"WALK_CYC", 0x210, [], true, [⟨31, 0, .RO, 0x0⟩]⟩,
    ⟨"PF_CNT", 0x214, [], true, [⟨31, 0, .RO, 0x0⟩]⟩,
    ⟨"PF_DROP_CNT", 0x218, [], true, [⟨31, 0, .RO, 0x0⟩]⟩,
    ⟨"CONT_MISMATCH_CNT", 0x21C, [], true, [⟨31, 0, .RO, 0x0⟩]⟩,
    ⟨"PIN_FULL_CNT", 0x220, [], true, [⟨31, 0, .RO, 0x0⟩]⟩,
    ⟨"SNAP", 0x7F0, [], false, [⟨31, 0, .WO, 0x0⟩]⟩
  ]

/-- The DIR unit (R334). -/
def dirRegs : List RegRow :=
  [
    ⟨"CTL", 0x0, [], false, [⟨23, 8, .RW, 0x100⟩, ⟨1, 0, .RW, 0x0⟩]⟩,
    ⟨"STS", 0x10, [], false, [⟨31, 31, .RL, 0x0⟩, ⟨20, 16, .RL, 0x0⟩, ⟨10, 0, .RL, 0x0⟩]⟩,
    ⟨"EPOCH_k", 0x100, [(26, 4)], false, [⟨7, 0, .RO, 0x0⟩]⟩,
    ⟨"STALE", 0x180, [], false, [⟨31, 31, .RO, 0x0⟩, ⟨20, 16, .RO, 0x0⟩, ⟨7, 0, .RO, 0x0⟩]⟩,
    ⟨"SNP_CNT", 0x200, [], true, [⟨31, 0, .RO, 0x0⟩]⟩,
    ⟨"SNP_DEFER_CNT", 0x204, [], true, [⟨31, 0, .RO, 0x0⟩]⟩,
    ⟨"CONFLICT_CNT", 0x208, [], true, [⟨31, 0, .RO, 0x0⟩]⟩,
    ⟨"NEAR_CNT", 0x20C, [], true, [⟨31, 0, .RO, 0x0⟩]⟩,
    ⟨"FAR_CNT", 0x210, [], true, [⟨31, 0, .RO, 0x0⟩]⟩,
    ⟨"STALE_CNT", 0x214, [], true, [⟨31, 0, .RO, 0x0⟩]⟩,
    ⟨"RECLAIM_CNT", 0x218, [], true, [⟨31, 0, .RO, 0x0⟩]⟩,
    ⟨"RECLAIM_POISON_CNT", 0x21C, [], true, [⟨31, 0, .RO, 0x0⟩]⟩,
    ⟨"SNP_TO_CNT", 0x220, [], true, [⟨31, 0, .RO, 0x0⟩]⟩,
    ⟨"SNAP", 0x7F0, [], false, [⟨31, 0, .WO, 0x0⟩]⟩
  ]

/-- The CE unit (R371). -/
def ceRegs : List RegRow :=
  [
    ⟨"STS_e", 0x0, [(4, 64)], false, [⟨30, 28, .RL, 0x0⟩, ⟨27, 21, .RL, 0x0⟩, ⟨11, 0, .RL, 0x0⟩]⟩,
    ⟨"GATE_e", 0x4, [(4, 64)], false, [⟨31, 31, .RL, 0x0⟩, ⟨20, 15, .RL, 0x0⟩, ⟨14, 0, .RL, 0x0⟩]⟩,
    ⟨"DESC_CNT", 0x10, [(4, 64)], true, [⟨31, 0, .RO, 0x0⟩]⟩,
    ⟨"LIST_CNT", 0x14, [(4, 64)], true, [⟨31, 0, .RO, 0x0⟩]⟩,
    ⟨"WR_64K_CNT", 0x18, [(4, 64)], true, [⟨31, 0, .RO, 0x0⟩]⟩,
    ⟨"SILT_IN_CNT", 0x1C, [(4, 64)], true, [⟨31, 0, .RO, 0x0⟩]⟩,
    ⟨"SILT_OUT_CNT", 0x20, [(4, 64)], true, [⟨31, 0, .RO, 0x0⟩]⟩,
    ⟨"ABORT_CNT", 0x24, [(4, 64)], true, [⟨31, 0, .RO, 0x0⟩]⟩,
    ⟨"POISON_CNT", 0x28, [(4, 64)], true, [⟨31, 0, .RO, 0x0⟩]⟩,
    ⟨"LOST_CNT", 0x2C, [(4, 64)], true, [⟨31, 0, .RO, 0x0⟩]⟩,
    ⟨"SNAP", 0x7F0, [], false, [⟨31, 0, .WO, 0x0⟩]⟩,
    ⟨"LIST_e_n_W0", 0x1000, [(4, 1024), (64, 16)], false, [⟨31, 31, .RL, 0x0⟩, ⟨30, 28, .RL, 0x0⟩, ⟨27, 22, .RL, 0x0⟩, ⟨21, 16, .RL, 0x0⟩, ⟨9, 0, .RL, 0x0⟩]⟩,
    ⟨"LIST_e_n_W1", 0x1004, [(4, 1024), (64, 16)], false, [⟨31, 0, .RL, 0x0⟩]⟩,
    ⟨"LIST_e_n_W2", 0x1008, [(4, 1024), (64, 16)], false, [⟨31, 24, .RL, 0x0⟩, ⟨23, 0, .RL, 0x0⟩]⟩,
    ⟨"LIST_e_n_W3", 0x100C, [(4, 1024), (64, 16)], false, [⟨10, 10, .RL, 0x0⟩, ⟨9, 0, .RL, 0x0⟩]⟩
  ]

/-- The FAB unit (R442). -/
def fabRegs : List RegRow :=
  [
    ⟨"ID", 0x0, [], false, [⟨31, 31, .RO, 0x0⟩, ⟨25, 8, .RO, 0x0⟩, ⟨7, 0, .RO, 0x0⟩]⟩,
    ⟨"STS", 0x10, [], false, [⟨27, 23, .RL, 0x0⟩, ⟨22, 16, .RL, 0x0⟩, ⟨11, 0, .RL, 0x0⟩]⟩,
    ⟨"TIMING", 0x20, [], false, [⟨31, 16, .RW, 0xC8⟩, ⟨15, 8, .RW, 0x40⟩, ⟨7, 0, .RW, 0x8⟩]⟩,
    ⟨"TXRATE_p", 0x40, [(8, 4)], false, [⟨31, 16, .RO, 0x0⟩, ⟨15, 0, .RO, 0x0⟩]⟩,
    ⟨"STALE", 0x180, [], false, [⟨31, 31, .RO, 0x0⟩, ⟨25, 8, .RO, 0x0⟩, ⟨7, 0, .RO, 0x0⟩]⟩,
    ⟨"TX_PKT_CNT", 0x200, [], true, [⟨31, 0, .RO, 0x0⟩]⟩,
    ⟨"RX_PKT_CNT", 0x204, [], true, [⟨31, 0, .RO, 0x0⟩]⟩,
    ⟨"RETX_CNT", 0x208, [], true, [⟨31, 0, .RO, 0x0⟩]⟩,
    ⟨"FRAME_CNT", 0x20C, [], true, [⟨31, 0, .RO, 0x0⟩]⟩,
    ⟨"MISROUTE_CNT", 0x210, [], true, [⟨31, 0, .RO, 0x0⟩]⟩,
    ⟨"CRC_CNT", 0x214, [], true, [⟨31, 0, .RO, 0x0⟩]⟩,
    ⟨"NOCONN_CNT", 0x218, [], true, [⟨31, 0, .RO, 0x0⟩]⟩,
    ⟨"STALE_CNT", 0x21C, [], true, [⟨31, 0, .RO, 0x0⟩]⟩,
    ⟨"DUP_CNT", 0x220, [], true, [⟨31, 0, .RO, 0x0⟩]⟩,
    ⟨"CREDIT_VIOL_CNT", 0x224, [], true, [⟨31, 0, .RO, 0x0⟩]⟩,
    ⟨"BAD_CNT", 0x228, [], true, [⟨31, 0, .RO, 0x0⟩]⟩,
    ⟨"REFUSE_CNT", 0x22C, [], true, [⟨31, 0, .RO, 0x0⟩]⟩,
    ⟨"SIG_LOST_CNT", 0x230, [], true, [⟨31, 0, .RO, 0x0⟩]⟩,
    ⟨"BROKEN_CNT", 0x234, [], true, [⟨31, 0, .RO, 0x0⟩]⟩,
    ⟨"HCACHE_MISS_CNT", 0x238, [], true, [⟨31, 0, .RO, 0x0⟩]⟩
  ] ++
  [
    ⟨"PLACE_REFUSE_CNT", 0x23C, [], true, [⟨31, 0, .RO, 0x0⟩]⟩,
    ⟨"PLACE_n_W0", 0x400, [(16, 16)], false, [⟨31, 31, .RO, 0x0⟩, ⟨30, 28, .RO, 0x0⟩, ⟨15, 0, .RO, 0x0⟩]⟩,
    ⟨"PLACE_n_W1", 0x404, [(16, 16)], false, [⟨23, 0, .RO, 0x0⟩]⟩,
    ⟨"PLACE_n_W2", 0x408, [(16, 16)], false, [⟨23, 0, .RO, 0x0⟩]⟩,
    ⟨"PLACE_n_W3", 0x40C, [(16, 16)], false, [⟨14, 0, .RO, 0x0⟩]⟩,
    ⟨"SNAP", 0x7F0, [], false, [⟨31, 0, .WO, 0x0⟩]⟩,
    ⟨"LIST_n_W0", 0x800, [(64, 16)], false, [⟨31, 31, .RL, 0x0⟩, ⟨30, 28, .RL, 0x0⟩, ⟨27, 22, .RL, 0x0⟩, ⟨21, 16, .RL, 0x0⟩, ⟨9, 0, .RL, 0x0⟩]⟩,
    ⟨"LIST_n_W1", 0x804, [(64, 16)], false, [⟨31, 0, .RL, 0x0⟩]⟩,
    ⟨"LIST_n_W2", 0x808, [(64, 16)], false, [⟨31, 24, .RL, 0x0⟩, ⟨23, 0, .RL, 0x0⟩]⟩,
    ⟨"LIST_n_W3", 0x80C, [(64, 16)], false, [⟨10, 10, .RL, 0x0⟩, ⟨9, 0, .RL, 0x0⟩]⟩,
    ⟨"CONN_i_W0", 0x10000, [(1024, 32)], false, [⟨31, 30, .RL, 0x0⟩, ⟨29, 27, .RO, 0x0⟩, ⟨26, 24, .RO, 0x0⟩, ⟨23, 16, .RO, 0x0⟩, ⟨15, 0, .RO, 0x0⟩]⟩,
    ⟨"CONN_i_W1", 0x10004, [(1024, 32)], false, [⟨25, 8, .RO, 0x0⟩, ⟨7, 0, .RO, 0x0⟩]⟩,
    ⟨"CONN_i_W2", 0x10008, [(1024, 32)], false, [⟨27, 16, .RO, 0x0⟩, ⟨10, 0, .RO, 0x0⟩]⟩,
    ⟨"CONN_i_W3", 0x1000C, [(1024, 32)], false, [⟨23, 0, .RL, 0x0⟩]⟩,
    ⟨"CONN_i_W4", 0x10010, [(1024, 32)], false, [⟨23, 0, .RL, 0x0⟩]⟩,
    ⟨"CONN_i_W5", 0x10014, [(1024, 32)], false, [⟨23, 0, .RL, 0x0⟩]⟩,
    ⟨"CONN_i_W6", 0x10018, [(1024, 32)], false, [⟨26, 16, .RL, 0x0⟩, ⟨3, 0, .RL, 0x0⟩]⟩,
    ⟨"CONN_i_W7", 0x1001C, [(1024, 32)], false, [⟨31, 16, .RL, 0x0⟩, ⟨7, 0, .RL, 0x0⟩]⟩
  ]

/-- The RFC unit (R578). -/
def rfcRegs : List RegRow :=
  [
    ⟨"STS", 0x0, [], false, [⟨15, 8, .RL, 0x0⟩, ⟨6, 0, .RL, 0x0⟩]⟩,
    ⟨"CORE_k", 0x100, [(26, 4)], false, [⟨31, 31, .RL, 0x0⟩, ⟨30, 30, .RO, 0x0⟩, ⟨29, 29, .RO, 0x0⟩, ⟨6, 0, .RL, 0x0⟩]⟩,
    ⟨"MSG_CNT", 0x200, [], true, [⟨31, 0, .RO, 0x0⟩]⟩,
    ⟨"MERGE_CNT", 0x204, [], true, [⟨31, 0, .RO, 0x0⟩]⟩,
    ⟨"DROP_CNT", 0x208, [], true, [⟨31, 0, .RO, 0x0⟩]⟩,
    ⟨"FENCE_CNT", 0x20C, [], true, [⟨31, 0, .RO, 0x0⟩]⟩,
    ⟨"SNAP", 0x7F0, [], false, [⟨31, 0, .WO, 0x0⟩]⟩
  ]

/-- The TRC unit (R643). -/
def trcRegs : List RegRow :=
  [
    ⟨"CTL", 0x0, [], false, [⟨31, 31, .RW, 0x0⟩, ⟨30, 30, .RW, 0x0⟩, ⟨29, 29, .RW, 0x0⟩, ⟨28, 28, .RW, 0x1⟩, ⟨25, 0, .RW, 0x0⟩]⟩,
    ⟨"STS", 0x10, [], false, [⟨31, 31, .RL, 0x0⟩, ⟨14, 0, .RL, 0x0⟩]⟩,
    ⟨"WR", 0x14, [], false, [⟨13, 0, .RL, 0x0⟩]⟩,
    ⟨"RD", 0x18, [], false, [⟨13, 0, .RW, 0x0⟩]⟩,
    ⟨"WIN", 0x1C, [], false, [⟨2, 0, .RW, 0x0⟩]⟩,
    ⟨"SNAP_RND_LO", 0x20, [], false, [⟨31, 0, .RW, 0x0⟩]⟩,
    ⟨"SNAP_RND_HI", 0x24, [], false, [⟨31, 0, .RW, 0x0⟩]⟩,
    ⟨"SNAP_ARM", 0x28, [], false, [⟨0, 0, .RW, 0x0⟩]⟩,
    ⟨"FAB_n", 0x30, [(4, 4)], false, [⟨31, 31, .RW, 0x0⟩, ⟨9, 0, .RW, 0x0⟩]⟩,
    ⟨"REC_CNT", 0x200, [], true, [⟨31, 0, .RO, 0x0⟩]⟩,
    ⟨"LOST_CNT", 0x204, [], true, [⟨31, 0, .RO, 0x0⟩]⟩,
    ⟨"SLEEP_CNT", 0x208, [], true, [⟨31, 0, .RO, 0x0⟩]⟩,
    ⟨"WAKE_CNT", 0x20C, [], true, [⟨31, 0, .RO, 0x0⟩]⟩,
    ⟨"SNAP", 0x7F0, [], false, [⟨31, 0, .WO, 0x0⟩]⟩,
    ⟨"REC_j_w", 0x8000, [(2048, 16), (4, 4)], false, [⟨31, 0, .RO, 0x0⟩]⟩
  ]

/-- The HBMC unit (R258). -/
def hbmcRegs : List RegRow :=
  [
    ⟨"CTL", 0x0, [], false, [⟨17, 17, .RW, 0x1⟩, ⟨16, 16, .RW, 0x1⟩, ⟨15, 0, .RW, 0xC8⟩]⟩,
    ⟨"STS", 0x10, [], false, [⟨12, 8, .RL, 0x0⟩, ⟨2, 0, .RL, 0x0⟩]⟩,
    ⟨"THERM", 0x20, [], false, [⟨31, 24, .RW, 0x69⟩, ⟨23, 16, .RW, 0x5A⟩, ⟨2, 0, .RW, 0x4⟩]⟩,
    ⟨"TEMP", 0x24, [], false, [⟨31, 31, .RL, 0x0⟩, ⟨9, 8, .RL, 0x0⟩, ⟨7, 0, .RL, 0x0⟩]⟩,
    ⟨"ERR_ADDR", 0x30, [], false, [⟨31, 31, .RO, 0x0⟩, ⟨30, 29, .RO, 0x0⟩, ⟨28, 0, .RO, 0x0⟩]⟩,
    ⟨"LANE_c", 0x100, [(32, 4)], false, [⟨15, 8, .RO, 0x0⟩, ⟨7, 0, .RO, 0x0⟩]⟩,
    ⟨"PAR_RETRY_CNT", 0x200, [], true, [⟨31, 0, .RO, 0x0⟩]⟩,
    ⟨"PAR_FAIL_CNT", 0x204, [], true, [⟨31, 0, .RO, 0x0⟩]⟩,
    ⟨"CE_CNT", 0x208, [], true, [⟨31, 0, .RO, 0x0⟩]⟩,
    ⟨"UE_CNT", 0x20C, [], true, [⟨31, 0, .RO, 0x0⟩]⟩,
    ⟨"SCRUB_PASS", 0x210, [], true, [⟨31, 0, .RO, 0x0⟩]⟩,
    ⟨"SPPR_CNT", 0x214, [], true, [⟨31, 0, .RO, 0x0⟩]⟩,
    ⟨"SPPR_FAIL_CNT", 0x218, [], true, [⟨31, 0, .RO, 0x0⟩]⟩,
    ⟨"LANE_RPR_CNT", 0x21C, [], true, [⟨31, 0, .RO, 0x0⟩]⟩,
    ⟨"SNAP", 0x7F0, [], false, [⟨31, 0, .WO, 0x0⟩]⟩
  ]

/-- The LODE unit (R408). -/
def lodeRegs : List RegRow :=
  [
    ⟨"CTL", 0x0, [], false, [⟨5, 4, .W2, 0x0⟩, ⟨2, 2, .W2, 0x0⟩, ⟨1, 1, .W2, 0x0⟩, ⟨0, 0, .W2, 0x0⟩]⟩,
    ⟨"STS", 0x10, [], false, [⟨31, 31, .RO, 0x0⟩, ⟨26, 24, .RL, 0x0⟩, ⟨23, 22, .RL, 0x0⟩, ⟨21, 20, .RL, 0x0⟩, ⟨19, 18, .RL, 0x0⟩, ⟨17, 16, .RL, 0x0⟩]⟩,
    ⟨"LANE_STS", 0x14, [], false, [⟨23, 16, .RL, 0x0⟩, ⟨15, 8, .RL, 0x0⟩, ⟨7, 0, .RL, 0x0⟩]⟩,
    ⟨"TIMING", 0x20, [], false, [⟨31, 16, .RW, 0x104⟩, ⟨15, 8, .RW, 0xA⟩, ⟨7, 0, .RW, 0x10⟩]⟩,
    ⟨"BACKOFF", 0x24, [], false, [⟨31, 16, .RW, 0x3E8⟩, ⟨15, 0, .RW, 0x1⟩]⟩,
    ⟨"QCTL0", 0x30, [], false, [⟨31, 16, .RW, 0x2710⟩, ⟨15, 0, .RW, 0x3E8⟩]⟩,
    ⟨"QCTL1", 0x34, [], false, [⟨31, 24, .RW, 0x4⟩, ⟨23, 16, .RW, 0x10⟩, ⟨15, 8, .RW, 0x8⟩, ⟨7, 4, .RW, 0x3⟩, ⟨3, 0, .RW, 0x3⟩]⟩,
    ⟨"QCTL2", 0x38, [], false, [⟨31, 16, .RW, 0x64⟩]⟩,
    ⟨"QSTS", 0x40, [], false, [⟨31, 31, .RL, 0x0⟩, ⟨30, 28, .RO, 0x0⟩, ⟨7, 0, .RL, 0x0⟩]⟩,
    ⟨"RELEASE", 0x44, [], false, [⟨0, 0, .W2, 0x0⟩]⟩,
    ⟨"PARTNER", 0x50, [], false, [⟨31, 31, .RL, 0x0⟩, ⟨30, 30, .RL, 0x0⟩, ⟨17, 0, .RL, 0x0⟩]⟩,
    ⟨"OPT_n", 0x100, [(8, 4)], false, [⟨31, 16, .RL, 0x8000⟩, ⟨15, 0, .RL, 0x8000⟩]⟩,
    ⟨"LSYM_n", 0x140, [(8, 4)], true, [⟨31, 0, .RO, 0x0⟩]⟩,
    ⟨"CORR_CW_CNT", 0x200, [], true, [⟨31, 0, .RO, 0x0⟩]⟩,
    ⟨"UE_BLK_CNT", 0x204, [], true, [⟨31, 0, .RO, 0x0⟩]⟩,
    ⟨"TAG_FAIL_CNT", 0x208, [], true, [⟨31, 0, .RO, 0x0⟩]⟩,
    ⟨"RETRY_CNT", 0x20C, [], true, [⟨31, 0, .RO, 0x0⟩]⟩,
    ⟨"DUP_CNT", 0x210, [], true, [⟨31, 0, .RO, 0x0⟩]⟩,
    ⟨"BAD_CNT", 0x214, [], true, [⟨31, 0, .RO, 0x0⟩]⟩,
    ⟨"NARROW_CNT", 0x218, [], true, [⟨31, 0, .RO, 0x0⟩]⟩
  ] ++
  [
    ⟨"WIDEN_CNT", 0x21C, [], true, [⟨31, 0, .RO, 0x0⟩]⟩,
    ⟨"RETRAIN_CNT", 0x220, [], true, [⟨31, 0, .RO, 0x0⟩]⟩,
    ⟨"AUTH_FAIL_CNT", 0x224, [], true, [⟨31, 0, .RO, 0x0⟩]⟩,
    ⟨"PROBE_CNT", 0x228, [], true, [⟨31, 0, .RO, 0x0⟩]⟩,
    ⟨"QUAR_CNT", 0x22C, [], true, [⟨31, 0, .RO, 0x0⟩]⟩,
    ⟨"SNAP", 0x7F0, [], false, [⟨31, 0, .WO, 0x0⟩]⟩
  ]

/-- The rows of a unit's map. -/
def RegUnit.rows : RegUnit → List RegRow
  | .rf => rfRegs
  | .rst => rstRegs
  | .sump => sumpRegs
  | .heron => heronRegs
  | .round => roundRegs
  | .sedge => sedgeRegs
  | .hl => hlRegs
  | .dc => dcRegs
  | .xlat => xlatRegs
  | .part => partRegs
  | .arith => arithRegs
  | .cstore => cstoreRegs
  | .seq => seqRegs
  | .peg => pegRegs
  | .sc => scRegs
  | .rtlb => rtlbRegs
  | .dir => dirRegs
  | .ce => ceRegs
  | .fab => fabRegs
  | .rfc => rfcRegs
  | .trc => trcRegs
  | .hbmc => hbmcRegs
  | .lode => lodeRegs

/-- The unit in a slot, and its instance (the region, the stack or the lode); none for a slot that holds no unit (R609). -/
def unitOfSlot (slot : Nat) : Option (RegUnit × Nat) :=
  if slot < 0x20 then
    match slot with
    | 0 => some (.rf, 0) | 1 => some (.rst, 0) | 2 => some (.sump, 0) | 3 => some (.heron, 0)
    | 4 => some (.round, 0) | 5 => some (.sedge, 0) | 6 => some (.hl, 0) | 7 => some (.dc, 0)
    | 8 => some (.xlat, 0) | 9 => some (.part, 0) | _ => none
  else if slot < 0xA0 then
    let r := (slot - 0x20) / 0x20
    match (slot - 0x20) % 0x20 with
    | 0 => some (.arith, r) | 1 => some (.cstore, r) | 2 => some (.seq, r) | 3 => some (.peg, r)
    | 4 => some (.sc, r) | 5 => some (.rtlb, r) | 6 => some (.dir, r) | 7 => some (.ce, r)
    | 8 => some (.fab, r) | 9 => some (.rfc, r) | 10 => some (.trc, r)
    | 16 => some (.hbmc, 2 * r) | 17 => some (.hbmc, 2 * r + 1)
    | 20 => some (.lode, 4 * r) | 21 => some (.lode, 4 * r + 1)
    | 22 => some (.lode, 4 * r + 2) | 23 => some (.lode, 4 * r + 3)
    | _ => none
  else none

/-- The indices of an array register at a distance `d` from its base; none where `d` hits no element. -/
def dimIndex : List (Nat × Nat) → Nat → Option (List Nat)
  | [], d => if d = 0 then some [] else none
  | (n, st) :: ds, d =>
    if d / st < n then
      match dimIndex ds (d % st) with
      | some is => some (d / st :: is)
      | none => none
    else none

/-- Whether a register lies at an offset of its unit, and its indices. -/
def RegRow.indexAt (r : RegRow) (off : Nat) : Option (List Nat) :=
  if r.base ≤ off then dimIndex r.dims (off - r.base) else none

/-- The register at an offset of a unit. -/
def findRow (off : Nat) : List RegRow → Option (RegRow × List Nat)
  | [] => none
  | r :: rs =>
    match r.indexAt off with
    | some is => some (r, is)
    | none => findRow off rs

/-- What lies at a BAR2 offset: the unit, its instance, the register and its indices. -/
structure RegHit where
  unit : RegUnit
  inst : Nat
  row : RegRow
  idx : List Nat
  deriving DecidableEq, Repr

/-- Look a BAR2 offset up in the maps (R608, R609). -/
def regAt (a : Nat) : Option RegHit :=
  match unitOfSlot (a / 0x100000) with
  | some (u, i) =>
    match findRow (a % 0x100000) u.rows with
    | some (r, is) => some ⟨u, i, r, is⟩
    | none => none
  | none => none

/-- The value a register's fields hold at reset, as its map states them. -/
def RegRow.resetValue (r : RegRow) : Word :=
  BitVec.ofNat 32 (r.fields.foldl (fun v f => v + f.reset * 2 ^ f.lo) 0)

/-- The reset value at a BAR2 offset; zero where no register lies (R606). -/
def regReset (a : Nat) : Word :=
  match regAt a with
  | some h => h.row.resetValue
  | none => 0#32

/-- The bits of a register whose field carries an access code that satisfies `p`. -/
def RegRow.maskOf (r : RegRow) (p : Acc → Bool) : Word :=
  BitVec.ofNat 32 (r.fields.foldl (fun v f => if p f.acc then v + (2 ^ (f.hi + 1) - 2 ^ f.lo) else v) 0)

namespace Reg

abbrev RF_ID : Nat := 0x0
abbrev RF_PAR_ERR : Nat := 0x0 + 0x10
abbrev RF_ACC_ERR : Nat := 0x0 + 0x14
abbrev RF_SCAN : Nat := 0x0 + 0x20
abbrev RF_PAR_CNT : Nat := 0x0 + 0x200
abbrev RF_BADSIZE_CNT : Nat := 0x0 + 0x204
abbrev RF_HOSTDENY_CNT : Nat := 0x0 + 0x208
abbrev RF_OFF_CNT : Nat := 0x0 + 0x20C
abbrev RF_W2_FAIL_CNT : Nat := 0x0 + 0x210
abbrev RF_WP_DROP_CNT : Nat := 0x0 + 0x214
abbrev RF_SNAP : Nat := 0x0 + 0x7F0
abbrev RST_STS : Nat := 0x100000
abbrev RST_PROG : Nat := 0x100000 + 0x4
abbrev RST_SWREQ : Nat := 0x100000 + 0x20
abbrev RST_WDT : Nat := 0x100000 + 0x30
abbrev RST_CLK_STS0 : Nat := 0x100000 + 0x40
abbrev RST_CLK_STS1 : Nat := 0x100000 + 0x44
abbrev RST_BKP_host (i : Nat) : Nat := 0x100000 + 0x100 + 4 * i
abbrev RST_BKP_fw (i : Nat) : Nat := 0x100000 + 0x120 + 4 * i
abbrev RST_BLOCK_CNT : Nat := 0x100000 + 0x200
abbrev RST_B_WDT_CNT : Nat := 0x100000 + 0x204
abbrev RST_H_WDT_CNT : Nat := 0x100000 + 0x208
abbrev RST_DEFER_CNT : Nat := 0x100000 + 0x20C
abbrev RST_CLKFAIL_CNT : Nat := 0x100000 + 0x210
abbrev RST_SNAP : Nat := 0x100000 + 0x7F0
abbrev SUMP_STS : Nat := 0x200000
abbrev SUMP_ESC_CTL : Nat := 0x200000 + 0x10
abbrev SUMP_ACK : Nat := 0x200000 + 0x20
abbrev SUMP_FATAL (i : Nat) : Nat := 0x200000 + 0x40 + 4 * i
abbrev SUMP_LAST (i : Nat) : Nat := 0x200000 + 0x50 + 4 * i
abbrev SUMP_DRILL : Nat := 0x200000 + 0x100
abbrev SUMP_FORCE_SEL : Nat := 0x200000 + 0x110
abbrev SUMP_FORCE_ADDR_LO : Nat := 0x200000 + 0x118
abbrev SUMP_FORCE_ADDR_HI : Nat := 0x200000 + 0x11C
abbrev SUMP_FORCE_GO : Nat := 0x200000 + 0x120
abbrev SUMP_CE_CNT : Nat := 0x200000 + 0x200
abbrev SUMP_CU_CNT : Nat := 0x200000 + 0x204
abbrev SUMP_ESC_CNT : Nat := 0x200000 + 0x208
abbrev SUMP_FQ_DROP_CNT : Nat := 0x200000 + 0x20C
abbrev SUMP_FORCE_CNT : Nat := 0x200000 + 0x210
abbrev SUMP_FORCE_REJ_CNT : Nat := 0x200000 + 0x214
abbrev SUMP_SNAP : Nat := 0x200000 + 0x7F0
abbrev HERON_STS : Nat := 0x300000
abbrev HERON_OP (i : Nat) : Nat := 0x300000 + 0x10 + 4 * i
abbrev HERON_TJ : Nat := 0x300000 + 0x40
abbrev HERON_POWER : Nat := 0x300000 + 0x44
abbrev HERON_TEMP (i : Nat) : Nat := 0x300000 + 0x100 + 4 * i
abbrev HERON_RAIL_I (i : Nat) : Nat := 0x300000 + 0x200 + 8 * i
abbrev HERON_RAIL_V (i : Nat) : Nat := 0x300000 + 0x204 + 8 * i
abbrev HERON_FW_STS : Nat := 0x300000 + 0x300
abbrev HERON_FW_RND_LO : Nat := 0x300000 + 0x304
abbrev HERON_FW_RND_HI : Nat := 0x300000 + 0x308
abbrev HERON_LOG_STS : Nat := 0x300000 + 0x400
abbrev HERON_LOG_SEQ : Nat := 0x300000 + 0x404
abbrev HERON_LOG_SEL : Nat := 0x300000 + 0x410
abbrev HERON_LOG_DATA (i : Nat) : Nat := 0x300000 + 0x420 + 4 * i
abbrev HERON_GRANT_CNT : Nat := 0x300000 + 0x600
abbrev HERON_REFUSE_CNT : Nat := 0x300000 + 0x604
abbrev HERON_THR_CNT : Nat := 0x300000 + 0x608
abbrev HERON_TCAP_CNT : Nat := 0x300000 + 0x60C
abbrev HERON_DEFER_CNT : Nat := 0x300000 + 0x610
abbrev HERON_SNAP : Nat := 0x300000 + 0x7F0
abbrev ROUND_CTL : Nat := 0x400000
abbrev ROUND_STS : Nat := 0x400000 + 0x10
abbrev ROUND_RND_LO : Nat := 0x400000 + 0x20
abbrev ROUND_RND_HI : Nat := 0x400000 + 0x24
abbrev ROUND_RND_OFS : Nat := 0x400000 + 0x28
abbrev ROUND_EPOCH : Nat := 0x400000 + 0x30
abbrev ROUND_MASTER : Nat := 0x400000 + 0x34
abbrev ROUND_STANDBY : Nat := 0x400000 + 0x40
abbrev ROUND_HOLD : Nat := 0x400000 + 0x44
abbrev ROUND_ASYM (i : Nat) : Nat := 0x400000 + 0x80 + 4 * i
abbrev ROUND_DELAY (i : Nat) : Nat := 0x400000 + 0xC0 + 4 * i
abbrev ROUND_OFFSET : Nat := 0x400000 + 0x100
abbrev ROUND_PPS_RND_LO : Nat := 0x400000 + 0x110
abbrev ROUND_PPS_RND_HI : Nat := 0x400000 + 0x114
abbrev ROUND_PPS_OFS : Nat := 0x400000 + 0x118
abbrev ROUND_MISS_CNT : Nat := 0x400000 + 0x200
abbrev ROUND_LATE_CNT : Nat := 0x400000 + 0x204
abbrev ROUND_BAD_CNT : Nat := 0x400000 + 0x208
abbrev ROUND_STALE_CNT : Nat := 0x400000 + 0x20C
abbrev ROUND_STEP_CNT : Nat := 0x400000 + 0x210
abbrev ROUND_HOLD_CNT : Nat := 0x400000 + 0x214
abbrev ROUND_SNAP : Nat := 0x400000 + 0x1F0
abbrev SEDGE_STS : Nat := 0x500000
abbrev SEDGE_SVN : Nat := 0x500000 + 0x10
abbrev SEDGE_FABRIC : Nat := 0x500000 + 0x20
abbrev SEDGE_OWNER : Nat := 0x500000 + 0x24
abbrev SEDGE_IDE : Nat := 0x500000 + 0x30
abbrev SEDGE_TDI (i : Nat) : Nat := 0x500000 + 0x40 + 4 * i
abbrev SEDGE_SESSION_CNT : Nat := 0x500000 + 0x200
abbrev SEDGE_AUTH_FAIL_CNT : Nat := 0x500000 + 0x204
abbrev SEDGE_KEM_CNT : Nat := 0x500000 + 0x208
abbrev SEDGE_KEYUPD_CNT : Nat := 0x500000 + 0x20C
abbrev SEDGE_ZERO_CNT : Nat := 0x500000 + 0x210
abbrev SEDGE_RESEED_CNT : Nat := 0x500000 + 0x214
abbrev SEDGE_HEALTH_FAIL_CNT : Nat := 0x500000 + 0x218
abbrev SEDGE_SNAP : Nat := 0x500000 + 0x7F0
abbrev HL_CTL : Nat := 0x600000
abbrev HL_STS : Nat := 0x600000 + 0x10
abbrev HL_LWL_STS : Nat := 0x600000 + 0x20
abbrev HL_LWL_OVF_LO : Nat := 0x600000 + 0x24
abbrev HL_LWL_OVF_HI : Nat := 0x600000 + 0x28
abbrev HL_IRQ_PEND (i : Nat) : Nat := 0x600000 + 0x100 + 4 * i
abbrev HL_RETRAIN_CNT : Nat := 0x600000 + 0x200
abbrev HL_HOLD_CNT : Nat := 0x600000 + 0x204
abbrev HL_ABANDON_CNT : Nat := 0x600000 + 0x208
abbrev HL_LWL_DROP_CNT : Nat := 0x600000 + 0x20C
abbrev HL_CTO_CNT : Nat := 0x600000 + 0x210
abbrev HL_UNEXP_CNT : Nat := 0x600000 + 0x214
abbrev HL_BADREQ_CNT : Nat := 0x600000 + 0x218
abbrev HL_L1_CNT : Nat := 0x600000 + 0x21C
abbrev HL_MSG_CNT : Nat := 0x600000 + 0x220
abbrev HL_SNAP : Nat := 0x600000 + 0x7F0
abbrev HL_LWL_W0 (i : Nat) : Nat := 0x600000 + 0x1000 + 16 * i
abbrev HL_LWL_W1 (i : Nat) : Nat := 0x600000 + 0x1004 + 16 * i
abbrev HL_LWL_W2 (i : Nat) : Nat := 0x600000 + 0x1008 + 16 * i
abbrev HL_LWL_W3 (i : Nat) : Nat := 0x600000 + 0x100C + 16 * i
abbrev HL_BIAS (i : Nat) : Nat := 0x600000 + 0x10000 + 4 * i
abbrev DC_CTL : Nat := 0x700000
abbrev DC_STS : Nat := 0x700000 + 0x10
abbrev DC_OCC : Nat := 0x700000 + 0x14
abbrev DC_LFSR : Nat := 0x700000 + 0x20
abbrev DC_WAYMASK (i : Nat) : Nat := 0x700000 + 0x40 + 4 * i
abbrev DC_MAINT : Nat := 0x700000 + 0x100
abbrev DC_MAINT_A0 : Nat := 0x700000 + 0x104
abbrev DC_MAINT_A1 : Nat := 0x700000 + 0x108
abbrev DC_MAINT_SW : Nat := 0x700000 + 0x10C
abbrev DC_MAINT_CNT : Nat := 0x700000 + 0x110
abbrev DC_ERR : Nat := 0x700000 + 0x180
abbrev DC_HIT_CNT : Nat := 0x700000 + 0x200
abbrev DC_MISS_CNT : Nat := 0x700000 + 0x204
abbrev DC_WT_CNT : Nat := 0x700000 + 0x208
abbrev DC_ZERO_CNT : Nat := 0x700000 + 0x20C
abbrev DC_PF_CNT : Nat := 0x700000 + 0x210
abbrev DC_PF_USE_CNT : Nat := 0x700000 + 0x214
abbrev DC_EVICT_CNT : Nat := 0x700000 + 0x218
abbrev DC_EVB_WAIT_CNT : Nat := 0x700000 + 0x21C
abbrev DC_SNP_CNT : Nat := 0x700000 + 0x220
abbrev DC_SNP_INV_CNT : Nat := 0x700000 + 0x224
abbrev DC_PAR_CNT : Nat := 0x700000 + 0x228
abbrev DC_SNAP : Nat := 0x700000 + 0x7F0
abbrev XLAT_CTX (i : Nat) : Nat := 0x800000 + 4 * i
abbrev XLAT_FLT_W0 (i : Nat) : Nat := 0x800000 + 0x400 + 32 * i
abbrev XLAT_FLT_W1 (i : Nat) : Nat := 0x800000 + 0x404 + 32 * i
abbrev XLAT_FLT_W2 (i : Nat) : Nat := 0x800000 + 0x408 + 32 * i
abbrev XLAT_FLT_W3 (i : Nat) : Nat := 0x800000 + 0x40C + 32 * i
abbrev XLAT_FLT_W4 (i : Nat) : Nat := 0x800000 + 0x410 + 32 * i
abbrev XLAT_FLT_W5 (i : Nat) : Nat := 0x800000 + 0x414 + 32 * i
abbrev XLAT_FLT_W6 (i : Nat) : Nat := 0x800000 + 0x418 + 32 * i
abbrev XLAT_INV_STS : Nat := 0x800000 + 0xC00
abbrev XLAT_INV_CNT : Nat := 0x800000 + 0xC10
abbrev XLAT_FLT_CNT : Nat := 0x800000 + 0xC14
abbrev XLAT_SNAP : Nat := 0x800000 + 0xFF0
abbrev XLAT_SEG_W0 (i : Nat) (j : Nat) : Nat := 0x800000 + 0x10000 + 256 * i + 16 * j
abbrev XLAT_SEG_W1 (i : Nat) (j : Nat) : Nat := 0x800000 + 0x10004 + 256 * i + 16 * j
abbrev XLAT_SEG_W2 (i : Nat) (j : Nat) : Nat := 0x800000 + 0x10008 + 256 * i + 16 * j
abbrev XLAT_SEG_W3 (i : Nat) (j : Nat) : Nat := 0x800000 + 0x1000C + 256 * i + 16 * j
abbrev PART_STS (i : Nat) : Nat := 0x900000 + 128 * i
abbrev PART_CORES (i : Nat) (j : Nat) : Nat := 0x900000 + 0x4 + 128 * i + 4 * j
abbrev PART_CE (i : Nat) : Nat := 0x900000 + 0x10 + 128 * i
abbrev PART_T1_LIMIT (i : Nat) : Nat := 0x900000 + 0x14 + 128 * i
abbrev PART_T1_USED (i : Nat) : Nat := 0x900000 + 0x18 + 128 * i
abbrev PART_T2_LIMIT (i : Nat) : Nat := 0x900000 + 0x1C + 128 * i
abbrev PART_T2_USED (i : Nat) : Nat := 0x900000 + 0x20 + 128 * i
abbrev PART_T0 (i : Nat) (j : Nat) : Nat := 0x900000 + 0x40 + 128 * i + 4 * j
abbrev ARITH_FLAGS_ME (r : Nat) (i : Nat) : Nat := (0x20 + 0x20 * r) * 0x100000 + 64 * i
abbrev ARITH_FLAGS_VE (r : Nat) (i : Nat) : Nat := (0x20 + 0x20 * r) * 0x100000 + 0x4 + 64 * i
abbrev ARITH_FLAGS_TU (r : Nat) (i : Nat) : Nat := (0x20 + 0x20 * r) * 0x100000 + 0x8 + 64 * i
abbrev ARITH_FLAGS_SE (r : Nat) (i : Nat) : Nat := (0x20 + 0x20 * r) * 0x100000 + 0xC + 64 * i
abbrev ARITH_WINX_CNT (r : Nat) (i : Nat) : Nat := (0x20 + 0x20 * r) * 0x100000 + 0x10 + 64 * i
abbrev ARITH_WOVF_CNT (r : Nat) (i : Nat) : Nat := (0x20 + 0x20 * r) * 0x100000 + 0x14 + 64 * i
abbrev ARITH_INV_CNT (r : Nat) (i : Nat) : Nat := (0x20 + 0x20 * r) * 0x100000 + 0x18 + 64 * i
abbrev ARITH_SAT_CNT (r : Nat) (i : Nat) : Nat := (0x20 + 0x20 * r) * 0x100000 + 0x1C + 64 * i
abbrev ARITH_NAN_CNT (r : Nat) (i : Nat) : Nat := (0x20 + 0x20 * r) * 0x100000 + 0x20 + 64 * i
abbrev ARITH_SNAP (r : Nat) : Nat := (0x20 + 0x20 * r) * 0x100000 + 0x7F0
abbrev CSTORE_STS (r : Nat) (i : Nat) : Nat := (0x21 + 0x20 * r) * 0x100000 + 64 * i
abbrev CSTORE_CE_CNT (r : Nat) (i : Nat) : Nat := (0x21 + 0x20 * r) * 0x100000 + 0x4 + 64 * i
abbrev CSTORE_UE_CNT (r : Nat) (i : Nat) : Nat := (0x21 + 0x20 * r) * 0x100000 + 0x8 + 64 * i
abbrev CSTORE_UE_ADDR (r : Nat) (i : Nat) : Nat := (0x21 + 0x20 * r) * 0x100000 + 0xC + 64 * i
abbrev CSTORE_SPARE (r : Nat) (i : Nat) : Nat := (0x21 + 0x20 * r) * 0x100000 + 0x10 + 64 * i
abbrev CSTORE_CC_CE_CNT (r : Nat) (i : Nat) : Nat := (0x21 + 0x20 * r) * 0x100000 + 0x14 + 64 * i
abbrev CSTORE_CC_UE_CNT (r : Nat) (i : Nat) : Nat := (0x21 + 0x20 * r) * 0x100000 + 0x18 + 64 * i
abbrev CSTORE_CONFLICT_CNT (r : Nat) (i : Nat) : Nat := (0x21 + 0x20 * r) * 0x100000 + 0x1C + 64 * i
abbrev CSTORE_PROMOTE_CNT (r : Nat) (i : Nat) : Nat := (0x21 + 0x20 * r) * 0x100000 + 0x20 + 64 * i
abbrev CSTORE_SCRUB_PASS (r : Nat) (i : Nat) : Nat := (0x21 + 0x20 * r) * 0x100000 + 0x24 + 64 * i
abbrev CSTORE_SCRUB_CTL (r : Nat) : Nat := (0x21 + 0x20 * r) * 0x100000 + 0x7E0
abbrev CSTORE_SNAP (r : Nat) : Nat := (0x21 + 0x20 * r) * 0x100000 + 0x7F0
abbrev SEQ_STS (r : Nat) (i : Nat) : Nat := (0x22 + 0x20 * r) * 0x100000 + 64 * i
abbrev SEQ_FAULT (r : Nat) (i : Nat) : Nat := (0x22 + 0x20 * r) * 0x100000 + 0x4 + 64 * i
abbrev SEQ_BASE_LO (r : Nat) (i : Nat) : Nat := (0x22 + 0x20 * r) * 0x100000 + 0x8 + 64 * i
abbrev SEQ_BASE_HI (r : Nat) (i : Nat) : Nat := (0x22 + 0x20 * r) * 0x100000 + 0xC + 64 * i
abbrev SEQ_ISSUE_CNT (r : Nat) (i : Nat) : Nat := (0x22 + 0x20 * r) * 0x100000 + 0x10 + 64 * i
abbrev SEQ_DL_MET_CNT (r : Nat) (i : Nat) : Nat := (0x22 + 0x20 * r) * 0x100000 + 0x14 + 64 * i
abbrev SEQ_DL_MISS_CNT (r : Nat) (i : Nat) : Nat := (0x22 + 0x20 * r) * 0x100000 + 0x18 + 64 * i
abbrev SEQ_TFENCE_CNT (r : Nat) (i : Nat) : Nat := (0x22 + 0x20 * r) * 0x100000 + 0x1C + 64 * i
abbrev SEQ_WAIT_CYC (r : Nat) (i : Nat) : Nat := (0x22 + 0x20 * r) * 0x100000 + 0x20 + 64 * i
abbrev SEQ_HOLD_CYC (r : Nat) (i : Nat) : Nat := (0x22 + 0x20 * r) * 0x100000 + 0x24 + 64 * i
abbrev SEQ_SNAP (r : Nat) : Nat := (0x22 + 0x20 * r) * 0x100000 + 0x7F0
abbrev PEG_PART (r : Nat) (i : Nat) : Nat := (0x23 + 0x20 * r) * 0x100000 + 4 * i
abbrev PEG_CTX (r : Nat) (i : Nat) : Nat := (0x23 + 0x20 * r) * 0x100000 + 0x100 + 4 * i
abbrev PEG_ECC (r : Nat) : Nat := (0x23 + 0x20 * r) * 0x100000 + 0x300
abbrev PEG_SIG_CNT (r : Nat) : Nat := (0x23 + 0x20 * r) * 0x100000 + 0x400
abbrev PEG_WAKE_CNT (r : Nat) : Nat := (0x23 + 0x20 * r) * 0x100000 + 0x404
abbrev PEG_SAT_CNT (r : Nat) : Nat := (0x23 + 0x20 * r) * 0x100000 + 0x408
abbrev PEG_RMT_DROP_CNT (r : Nat) : Nat := (0x23 + 0x20 * r) * 0x100000 + 0x40C
abbrev PEG_CE_CNT (r : Nat) : Nat := (0x23 + 0x20 * r) * 0x100000 + 0x410
abbrev PEG_UE_CNT (r : Nat) : Nat := (0x23 + 0x20 * r) * 0x100000 + 0x414
abbrev PEG_POISON_SIG_CNT (r : Nat) : Nat := (0x23 + 0x20 * r) * 0x100000 + 0x418
abbrev PEG_SNAP (r : Nat) : Nat := (0x23 + 0x20 * r) * 0x100000 + 0x7F0
abbrev PEG_COUNT (r : Nat) (i : Nat) : Nat := (0x23 + 0x20 * r) * 0x100000 + 0x10000 + 16 * i
abbrev PEG_TARGET (r : Nat) (i : Nat) : Nat := (0x23 + 0x20 * r) * 0x100000 + 0x10004 + 16 * i
abbrev PEG_STATE (r : Nat) (i : Nat) : Nat := (0x23 + 0x20 * r) * 0x100000 + 0x10008 + 16 * i
abbrev SC_WAYMASK (r : Nat) (i : Nat) : Nat := (0x24 + 0x20 * r) * 0x100000 + 4 * i
abbrev SC_REG_SC (r : Nat) (i : Nat) : Nat := (0x24 + 0x20 * r) * 0x100000 + 0x40 + 8 * i
abbrev SC_REG_HBM (r : Nat) (i : Nat) : Nat := (0x24 + 0x20 * r) * 0x100000 + 0x44 + 8 * i
abbrev SC_HIT_CNT (r : Nat) : Nat := (0x24 + 0x20 * r) * 0x100000 + 0x200
abbrev SC_MISS_CNT (r : Nat) : Nat := (0x24 + 0x20 * r) * 0x100000 + 0x204
abbrev SC_WB_CNT (r : Nat) : Nat := (0x24 + 0x20 * r) * 0x100000 + 0x208
abbrev SC_LAST_DROP_CNT (r : Nat) : Nat := (0x24 + 0x20 * r) * 0x100000 + 0x20C
abbrev SC_ATOMIC_CNT (r : Nat) : Nat := (0x24 + 0x20 * r) * 0x100000 + 0x210
abbrev SC_CE_CNT (r : Nat) : Nat := (0x24 + 0x20 * r) * 0x100000 + 0x214
abbrev SC_UE_CNT (r : Nat) : Nat := (0x24 + 0x20 * r) * 0x100000 + 0x218
abbrev SC_WAIT (r : Nat) (i : Nat) : Nat := (0x24 + 0x20 * r) * 0x100000 + 0x300 + 4 * i
abbrev SC_SNAP (r : Nat) : Nat := (0x24 + 0x20 * r) * 0x100000 + 0x7F0
abbrev RTLB_CTL (r : Nat) : Nat := (0x25 + 0x20 * r) * 0x100000
abbrev RTLB_STS (r : Nat) : Nat := (0x25 + 0x20 * r) * 0x100000 + 0x10
abbrev RTLB_UTLB_MISS_CNT (r : Nat) : Nat := (0x25 + 0x20 * r) * 0x100000 + 0x200
abbrev RTLB_HIT_CNT (r : Nat) : Nat := (0x25 + 0x20 * r) * 0x100000 + 0x204
abbrev RTLB_MISS_CNT (r : Nat) : Nat := (0x25 + 0x20 * r) * 0x100000 + 0x208
abbrev RTLB_WALK_CNT (r : Nat) : Nat := (0x25 + 0x20 * r) * 0x100000 + 0x20C
abbrev RTLB_WALK_CYC (r : Nat) : Nat := (0x25 + 0x20 * r) * 0x100000 + 0x210
abbrev RTLB_PF_CNT (r : Nat) : Nat := (0x25 + 0x20 * r) * 0x100000 + 0x214
abbrev RTLB_PF_DROP_CNT (r : Nat) : Nat := (0x25 + 0x20 * r) * 0x100000 + 0x218
abbrev RTLB_CONT_MISMATCH_CNT (r : Nat) : Nat := (0x25 + 0x20 * r) * 0x100000 + 0x21C
abbrev RTLB_PIN_FULL_CNT (r : Nat) : Nat := (0x25 + 0x20 * r) * 0x100000 + 0x220
abbrev RTLB_SNAP (r : Nat) : Nat := (0x25 + 0x20 * r) * 0x100000 + 0x7F0
abbrev DIR_CTL (r : Nat) : Nat := (0x26 + 0x20 * r) * 0x100000
abbrev DIR_STS (r : Nat) : Nat := (0x26 + 0x20 * r) * 0x100000 + 0x10
abbrev DIR_EPOCH (r : Nat) (i : Nat) : Nat := (0x26 + 0x20 * r) * 0x100000 + 0x100 + 4 * i
abbrev DIR_STALE (r : Nat) : Nat := (0x26 + 0x20 * r) * 0x100000 + 0x180
abbrev DIR_SNP_CNT (r : Nat) : Nat := (0x26 + 0x20 * r) * 0x100000 + 0x200
abbrev DIR_SNP_DEFER_CNT (r : Nat) : Nat := (0x26 + 0x20 * r) * 0x100000 + 0x204
abbrev DIR_CONFLICT_CNT (r : Nat) : Nat := (0x26 + 0x20 * r) * 0x100000 + 0x208
abbrev DIR_NEAR_CNT (r : Nat) : Nat := (0x26 + 0x20 * r) * 0x100000 + 0x20C
abbrev DIR_FAR_CNT (r : Nat) : Nat := (0x26 + 0x20 * r) * 0x100000 + 0x210
abbrev DIR_STALE_CNT (r : Nat) : Nat := (0x26 + 0x20 * r) * 0x100000 + 0x214
abbrev DIR_RECLAIM_CNT (r : Nat) : Nat := (0x26 + 0x20 * r) * 0x100000 + 0x218
abbrev DIR_RECLAIM_POISON_CNT (r : Nat) : Nat := (0x26 + 0x20 * r) * 0x100000 + 0x21C
abbrev DIR_SNP_TO_CNT (r : Nat) : Nat := (0x26 + 0x20 * r) * 0x100000 + 0x220
abbrev DIR_SNAP (r : Nat) : Nat := (0x26 + 0x20 * r) * 0x100000 + 0x7F0
abbrev CE_STS (r : Nat) (i : Nat) : Nat := (0x27 + 0x20 * r) * 0x100000 + 64 * i
abbrev CE_GATE (r : Nat) (i : Nat) : Nat := (0x27 + 0x20 * r) * 0x100000 + 0x4 + 64 * i
abbrev CE_DESC_CNT (r : Nat) (i : Nat) : Nat := (0x27 + 0x20 * r) * 0x100000 + 0x10 + 64 * i
abbrev CE_LIST_CNT (r : Nat) (i : Nat) : Nat := (0x27 + 0x20 * r) * 0x100000 + 0x14 + 64 * i
abbrev CE_WR_64K_CNT (r : Nat) (i : Nat) : Nat := (0x27 + 0x20 * r) * 0x100000 + 0x18 + 64 * i
abbrev CE_SILT_IN_CNT (r : Nat) (i : Nat) : Nat := (0x27 + 0x20 * r) * 0x100000 + 0x1C + 64 * i
abbrev CE_SILT_OUT_CNT (r : Nat) (i : Nat) : Nat := (0x27 + 0x20 * r) * 0x100000 + 0x20 + 64 * i
abbrev CE_ABORT_CNT (r : Nat) (i : Nat) : Nat := (0x27 + 0x20 * r) * 0x100000 + 0x24 + 64 * i
abbrev CE_POISON_CNT (r : Nat) (i : Nat) : Nat := (0x27 + 0x20 * r) * 0x100000 + 0x28 + 64 * i
abbrev CE_LOST_CNT (r : Nat) (i : Nat) : Nat := (0x27 + 0x20 * r) * 0x100000 + 0x2C + 64 * i
abbrev CE_SNAP (r : Nat) : Nat := (0x27 + 0x20 * r) * 0x100000 + 0x7F0
abbrev CE_LIST_W0 (r : Nat) (i : Nat) (j : Nat) : Nat := (0x27 + 0x20 * r) * 0x100000 + 0x1000 + 1024 * i + 16 * j
abbrev CE_LIST_W1 (r : Nat) (i : Nat) (j : Nat) : Nat := (0x27 + 0x20 * r) * 0x100000 + 0x1004 + 1024 * i + 16 * j
abbrev CE_LIST_W2 (r : Nat) (i : Nat) (j : Nat) : Nat := (0x27 + 0x20 * r) * 0x100000 + 0x1008 + 1024 * i + 16 * j
abbrev CE_LIST_W3 (r : Nat) (i : Nat) (j : Nat) : Nat := (0x27 + 0x20 * r) * 0x100000 + 0x100C + 1024 * i + 16 * j
abbrev FAB_ID (r : Nat) : Nat := (0x28 + 0x20 * r) * 0x100000
abbrev FAB_STS (r : Nat) : Nat := (0x28 + 0x20 * r) * 0x100000 + 0x10
abbrev FAB_TIMING (r : Nat) : Nat := (0x28 + 0x20 * r) * 0x100000 + 0x20
abbrev FAB_TXRATE (r : Nat) (i : Nat) : Nat := (0x28 + 0x20 * r) * 0x100000 + 0x40 + 4 * i
abbrev FAB_STALE (r : Nat) : Nat := (0x28 + 0x20 * r) * 0x100000 + 0x180
abbrev FAB_TX_PKT_CNT (r : Nat) : Nat := (0x28 + 0x20 * r) * 0x100000 + 0x200
abbrev FAB_RX_PKT_CNT (r : Nat) : Nat := (0x28 + 0x20 * r) * 0x100000 + 0x204
abbrev FAB_RETX_CNT (r : Nat) : Nat := (0x28 + 0x20 * r) * 0x100000 + 0x208
abbrev FAB_FRAME_CNT (r : Nat) : Nat := (0x28 + 0x20 * r) * 0x100000 + 0x20C
abbrev FAB_MISROUTE_CNT (r : Nat) : Nat := (0x28 + 0x20 * r) * 0x100000 + 0x210
abbrev FAB_CRC_CNT (r : Nat) : Nat := (0x28 + 0x20 * r) * 0x100000 + 0x214
abbrev FAB_NOCONN_CNT (r : Nat) : Nat := (0x28 + 0x20 * r) * 0x100000 + 0x218
abbrev FAB_STALE_CNT (r : Nat) : Nat := (0x28 + 0x20 * r) * 0x100000 + 0x21C
abbrev FAB_DUP_CNT (r : Nat) : Nat := (0x28 + 0x20 * r) * 0x100000 + 0x220
abbrev FAB_CREDIT_VIOL_CNT (r : Nat) : Nat := (0x28 + 0x20 * r) * 0x100000 + 0x224
abbrev FAB_BAD_CNT (r : Nat) : Nat := (0x28 + 0x20 * r) * 0x100000 + 0x228
abbrev FAB_REFUSE_CNT (r : Nat) : Nat := (0x28 + 0x20 * r) * 0x100000 + 0x22C
abbrev FAB_SIG_LOST_CNT (r : Nat) : Nat := (0x28 + 0x20 * r) * 0x100000 + 0x230
abbrev FAB_BROKEN_CNT (r : Nat) : Nat := (0x28 + 0x20 * r) * 0x100000 + 0x234
abbrev FAB_HCACHE_MISS_CNT (r : Nat) : Nat := (0x28 + 0x20 * r) * 0x100000 + 0x238
abbrev FAB_PLACE_REFUSE_CNT (r : Nat) : Nat := (0x28 + 0x20 * r) * 0x100000 + 0x23C
abbrev FAB_PLACE_W0 (r : Nat) (i : Nat) : Nat := (0x28 + 0x20 * r) * 0x100000 + 0x400 + 16 * i
abbrev FAB_PLACE_W1 (r : Nat) (i : Nat) : Nat := (0x28 + 0x20 * r) * 0x100000 + 0x404 + 16 * i
abbrev FAB_PLACE_W2 (r : Nat) (i : Nat) : Nat := (0x28 + 0x20 * r) * 0x100000 + 0x408 + 16 * i
abbrev FAB_PLACE_W3 (r : Nat) (i : Nat) : Nat := (0x28 + 0x20 * r) * 0x100000 + 0x40C + 16 * i
abbrev FAB_SNAP (r : Nat) : Nat := (0x28 + 0x20 * r) * 0x100000 + 0x7F0
abbrev FAB_LIST_W0 (r : Nat) (i : Nat) : Nat := (0x28 + 0x20 * r) * 0x100000 + 0x800 + 16 * i
abbrev FAB_LIST_W1 (r : Nat) (i : Nat) : Nat := (0x28 + 0x20 * r) * 0x100000 + 0x804 + 16 * i
abbrev FAB_LIST_W2 (r : Nat) (i : Nat) : Nat := (0x28 + 0x20 * r) * 0x100000 + 0x808 + 16 * i
abbrev FAB_LIST_W3 (r : Nat) (i : Nat) : Nat := (0x28 + 0x20 * r) * 0x100000 + 0x80C + 16 * i
abbrev FAB_CONN_W0 (r : Nat) (i : Nat) : Nat := (0x28 + 0x20 * r) * 0x100000 + 0x10000 + 32 * i
abbrev FAB_CONN_W1 (r : Nat) (i : Nat) : Nat := (0x28 + 0x20 * r) * 0x100000 + 0x10004 + 32 * i
abbrev FAB_CONN_W2 (r : Nat) (i : Nat) : Nat := (0x28 + 0x20 * r) * 0x100000 + 0x10008 + 32 * i
abbrev FAB_CONN_W3 (r : Nat) (i : Nat) : Nat := (0x28 + 0x20 * r) * 0x100000 + 0x1000C + 32 * i
abbrev FAB_CONN_W4 (r : Nat) (i : Nat) : Nat := (0x28 + 0x20 * r) * 0x100000 + 0x10010 + 32 * i
abbrev FAB_CONN_W5 (r : Nat) (i : Nat) : Nat := (0x28 + 0x20 * r) * 0x100000 + 0x10014 + 32 * i
abbrev FAB_CONN_W6 (r : Nat) (i : Nat) : Nat := (0x28 + 0x20 * r) * 0x100000 + 0x10018 + 32 * i
abbrev FAB_CONN_W7 (r : Nat) (i : Nat) : Nat := (0x28 + 0x20 * r) * 0x100000 + 0x1001C + 32 * i
abbrev RFC_STS (r : Nat) : Nat := (0x29 + 0x20 * r) * 0x100000
abbrev RFC_CORE (r : Nat) (i : Nat) : Nat := (0x29 + 0x20 * r) * 0x100000 + 0x100 + 4 * i
abbrev RFC_MSG_CNT (r : Nat) : Nat := (0x29 + 0x20 * r) * 0x100000 + 0x200
abbrev RFC_MERGE_CNT (r : Nat) : Nat := (0x29 + 0x20 * r) * 0x100000 + 0x204
abbrev RFC_DROP_CNT (r : Nat) : Nat := (0x29 + 0x20 * r) * 0x100000 + 0x208
abbrev RFC_FENCE_CNT (r : Nat) : Nat := (0x29 + 0x20 * r) * 0x100000 + 0x20C
abbrev RFC_SNAP (r : Nat) : Nat := (0x29 + 0x20 * r) * 0x100000 + 0x7F0
abbrev TRC_CTL (r : Nat) : Nat := (0x2A + 0x20 * r) * 0x100000
abbrev TRC_STS (r : Nat) : Nat := (0x2A + 0x20 * r) * 0x100000 + 0x10
abbrev TRC_WR (r : Nat) : Nat := (0x2A + 0x20 * r) * 0x100000 + 0x14
abbrev TRC_RD (r : Nat) : Nat := (0x2A + 0x20 * r) * 0x100000 + 0x18
abbrev TRC_WIN (r : Nat) : Nat := (0x2A + 0x20 * r) * 0x100000 + 0x1C
abbrev TRC_SNAP_RND_LO (r : Nat) : Nat := (0x2A + 0x20 * r) * 0x100000 + 0x20
abbrev TRC_SNAP_RND_HI (r : Nat) : Nat := (0x2A + 0x20 * r) * 0x100000 + 0x24
abbrev TRC_SNAP_ARM (r : Nat) : Nat := (0x2A + 0x20 * r) * 0x100000 + 0x28
abbrev TRC_FAB (r : Nat) (i : Nat) : Nat := (0x2A + 0x20 * r) * 0x100000 + 0x30 + 4 * i
abbrev TRC_REC_CNT (r : Nat) : Nat := (0x2A + 0x20 * r) * 0x100000 + 0x200
abbrev TRC_LOST_CNT (r : Nat) : Nat := (0x2A + 0x20 * r) * 0x100000 + 0x204
abbrev TRC_SLEEP_CNT (r : Nat) : Nat := (0x2A + 0x20 * r) * 0x100000 + 0x208
abbrev TRC_WAKE_CNT (r : Nat) : Nat := (0x2A + 0x20 * r) * 0x100000 + 0x20C
abbrev TRC_SNAP (r : Nat) : Nat := (0x2A + 0x20 * r) * 0x100000 + 0x7F0
abbrev TRC_REC (r : Nat) (i : Nat) (j : Nat) : Nat := (0x2A + 0x20 * r) * 0x100000 + 0x8000 + 16 * i + 4 * j
abbrev HBMC_CTL (u : Nat) : Nat := (0x30 + 0x20 * (u / 2) + u % 2) * 0x100000
abbrev HBMC_STS (u : Nat) : Nat := (0x30 + 0x20 * (u / 2) + u % 2) * 0x100000 + 0x10
abbrev HBMC_THERM (u : Nat) : Nat := (0x30 + 0x20 * (u / 2) + u % 2) * 0x100000 + 0x20
abbrev HBMC_TEMP (u : Nat) : Nat := (0x30 + 0x20 * (u / 2) + u % 2) * 0x100000 + 0x24
abbrev HBMC_ERR_ADDR (u : Nat) : Nat := (0x30 + 0x20 * (u / 2) + u % 2) * 0x100000 + 0x30
abbrev HBMC_LANE (u : Nat) (i : Nat) : Nat := (0x30 + 0x20 * (u / 2) + u % 2) * 0x100000 + 0x100 + 4 * i
abbrev HBMC_PAR_RETRY_CNT (u : Nat) : Nat := (0x30 + 0x20 * (u / 2) + u % 2) * 0x100000 + 0x200
abbrev HBMC_PAR_FAIL_CNT (u : Nat) : Nat := (0x30 + 0x20 * (u / 2) + u % 2) * 0x100000 + 0x204
abbrev HBMC_CE_CNT (u : Nat) : Nat := (0x30 + 0x20 * (u / 2) + u % 2) * 0x100000 + 0x208
abbrev HBMC_UE_CNT (u : Nat) : Nat := (0x30 + 0x20 * (u / 2) + u % 2) * 0x100000 + 0x20C
abbrev HBMC_SCRUB_PASS (u : Nat) : Nat := (0x30 + 0x20 * (u / 2) + u % 2) * 0x100000 + 0x210
abbrev HBMC_SPPR_CNT (u : Nat) : Nat := (0x30 + 0x20 * (u / 2) + u % 2) * 0x100000 + 0x214
abbrev HBMC_SPPR_FAIL_CNT (u : Nat) : Nat := (0x30 + 0x20 * (u / 2) + u % 2) * 0x100000 + 0x218
abbrev HBMC_LANE_RPR_CNT (u : Nat) : Nat := (0x30 + 0x20 * (u / 2) + u % 2) * 0x100000 + 0x21C
abbrev HBMC_SNAP (u : Nat) : Nat := (0x30 + 0x20 * (u / 2) + u % 2) * 0x100000 + 0x7F0
abbrev LODE_CTL (u : Nat) : Nat := (0x34 + 0x20 * (u / 4) + u % 4) * 0x100000
abbrev LODE_STS (u : Nat) : Nat := (0x34 + 0x20 * (u / 4) + u % 4) * 0x100000 + 0x10
abbrev LODE_LANE_STS (u : Nat) : Nat := (0x34 + 0x20 * (u / 4) + u % 4) * 0x100000 + 0x14
abbrev LODE_TIMING (u : Nat) : Nat := (0x34 + 0x20 * (u / 4) + u % 4) * 0x100000 + 0x20
abbrev LODE_BACKOFF (u : Nat) : Nat := (0x34 + 0x20 * (u / 4) + u % 4) * 0x100000 + 0x24
abbrev LODE_QCTL0 (u : Nat) : Nat := (0x34 + 0x20 * (u / 4) + u % 4) * 0x100000 + 0x30
abbrev LODE_QCTL1 (u : Nat) : Nat := (0x34 + 0x20 * (u / 4) + u % 4) * 0x100000 + 0x34
abbrev LODE_QCTL2 (u : Nat) : Nat := (0x34 + 0x20 * (u / 4) + u % 4) * 0x100000 + 0x38
abbrev LODE_QSTS (u : Nat) : Nat := (0x34 + 0x20 * (u / 4) + u % 4) * 0x100000 + 0x40
abbrev LODE_RELEASE (u : Nat) : Nat := (0x34 + 0x20 * (u / 4) + u % 4) * 0x100000 + 0x44
abbrev LODE_PARTNER (u : Nat) : Nat := (0x34 + 0x20 * (u / 4) + u % 4) * 0x100000 + 0x50
abbrev LODE_OPT (u : Nat) (i : Nat) : Nat := (0x34 + 0x20 * (u / 4) + u % 4) * 0x100000 + 0x100 + 4 * i
abbrev LODE_LSYM (u : Nat) (i : Nat) : Nat := (0x34 + 0x20 * (u / 4) + u % 4) * 0x100000 + 0x140 + 4 * i
abbrev LODE_CORR_CW_CNT (u : Nat) : Nat := (0x34 + 0x20 * (u / 4) + u % 4) * 0x100000 + 0x200
abbrev LODE_UE_BLK_CNT (u : Nat) : Nat := (0x34 + 0x20 * (u / 4) + u % 4) * 0x100000 + 0x204
abbrev LODE_TAG_FAIL_CNT (u : Nat) : Nat := (0x34 + 0x20 * (u / 4) + u % 4) * 0x100000 + 0x208
abbrev LODE_RETRY_CNT (u : Nat) : Nat := (0x34 + 0x20 * (u / 4) + u % 4) * 0x100000 + 0x20C
abbrev LODE_DUP_CNT (u : Nat) : Nat := (0x34 + 0x20 * (u / 4) + u % 4) * 0x100000 + 0x210
abbrev LODE_BAD_CNT (u : Nat) : Nat := (0x34 + 0x20 * (u / 4) + u % 4) * 0x100000 + 0x214
abbrev LODE_NARROW_CNT (u : Nat) : Nat := (0x34 + 0x20 * (u / 4) + u % 4) * 0x100000 + 0x218
abbrev LODE_WIDEN_CNT (u : Nat) : Nat := (0x34 + 0x20 * (u / 4) + u % 4) * 0x100000 + 0x21C
abbrev LODE_RETRAIN_CNT (u : Nat) : Nat := (0x34 + 0x20 * (u / 4) + u % 4) * 0x100000 + 0x220
abbrev LODE_AUTH_FAIL_CNT (u : Nat) : Nat := (0x34 + 0x20 * (u / 4) + u % 4) * 0x100000 + 0x224
abbrev LODE_PROBE_CNT (u : Nat) : Nat := (0x34 + 0x20 * (u / 4) + u % 4) * 0x100000 + 0x228
abbrev LODE_QUAR_CNT (u : Nat) : Nat := (0x34 + 0x20 * (u / 4) + u % 4) * 0x100000 + 0x22C
abbrev LODE_SNAP (u : Nat) : Nat := (0x34 + 0x20 * (u / 4) + u % 4) * 0x100000 + 0x7F0

end Reg

end Sys2Proof.Machine
end

