-- ==== Sys2Proof/Machine/State.lean ====
section
/-!
DEFINITION. The state of the block as plain data, its reasons to stop, and the state after reset.
-/
namespace Sys2Proof.Machine

/-- The machine's stops with a fault: none. Every command of the block completes, so no command raises one (safe). -/
inductive Fault where
  deriving DecidableEq, Repr

/-- The machine's refusals. -/
inductive Refusal where
  /-- Raised by `exec` for a command that has no meaning yet (safe: a run stops there). -/
  | notModelled (mnemonic : String)
  deriving DecidableEq, Repr

/-! ### The Round unit (chapter 2) -/

/-- The states of R48. -/
inductive RoundState where
  | off | acquire | locked | holdover | unaligned | master
  deriving DecidableEq, Repr

def RoundState.code : RoundState → Nat
  | .off => 0 | .acquire => 1 | .locked => 2 | .holdover => 3 | .unaligned => 4 | .master => 5

/-- What the unit keeps of one lode's delay exchanges (R44): the accepted delays, newest last, in 1/16 ns; the
consecutive rejections; the ID of the last request, and its time t1 in 1/8 ns while it has no response. -/
structure DelaySt where
  id : Nat := 0
  kept : List Nat := []
  rejects : Nat := 0
  sent : Option Nat := none
  deriving DecidableEq, Repr

structure RoundSt where
  state : RoundState := .off
  cnt : DWord := 0                -- the Round counter (R35)
  run : Bool := false             -- the counter runs: MASTER, or a first mark was accepted (R48)
  phase : Nat := 0                -- phase within the Round, in 1/1024 of it (R36)
  period : Nat := 2               -- period in force (R36, R53)
  ctl : Word := 0x200#32          -- the CTL fields that have taken effect at a boundary (R59)
  accepted : Bool := false        -- RND_REF10M accepted, as it took effect at a boundary (R40)
  finding : Bool := false         -- what the last reference window found (R40)
  act : Nat := 0                  -- lode in use (R50)
  depth : Nat := 0                -- depth of this device (R38)
  src : Nat := 0                  -- the master's reference as the last mark told it (R41)
  lock : Nat := 0                 -- consecutive marks within 2 ns (R48)
  srcGood : Nat := 0              -- consecutive good marks on the source lode while the backup is in use (R50)
  noGood : Nat := 0               -- consecutive Rounds without a good mark on the lode in use (R50)
  gotGood : Bool := false         -- a good mark came in this Round on the lode in use, and on the source lode
  srcGot : Bool := false
  missed : Bool := false          -- the missing mark of this Round has been counted
  away : Nat := 0                 -- Rounds in HOLDOVER or UNALIGNED (R51)
  held : Nat := 0                 -- Rounds in HOLDOVER (R48)
  sinceExch : Nat := 0            -- Rounds since the last delay exchange (R44)
  delays : Tbl DelaySt := []      -- by lode
  deriving DecidableEq, Repr

/-! ### Faults (chapter 19) -/

/-- A fault message (R556). -/
structure FaultMsg where
  src : Nat
  kind : Nat
  cls : Nat
  raised : Nat
  forced : Bool
  ctx : Option Nat
  atype : Nat
  mult : Bool
  addr : Nat
  syn : Nat
  deriving DecidableEq, Repr

/-- A region fault collector (R563): its queue and the class 10 messages that sources hold for it. -/
structure Collector where
  q : List FaultMsg := []
  held : List FaultMsg := []
  deriving DecidableEq, Repr

structure SumpSt where
  fatal : Bool := false
  drill : Bool := false
  factory : Bool := false
  forceErr : Bool := false
  fatalSeen : Bool := false           -- FATAL_w holds the first class 11 message
  pend1 : List Nat := []              -- sources whose class 01 pending bit is set (R560)
  pend10 : List Nat := []             -- sources whose class 10 pending bit is set
  flight : List FaultMsg := []        -- messages on their way to a collector or to Sump (R553)
  lines : List FaultMsg := []         -- fatal lines driven and not yet seen by Sump
  rfc : Tbl Collector := []           -- by region
  fq : List FaultMsg := []            -- Sump's fault queue for Bittern
  ask : Option Bool := none           -- a fault-drill request accepted and not yet written: entry or exit (R569)
  logged : Tbl Nat := []              -- by source: ms of its last class 01 record, plus 1 (R564)
  triggers : List Nat := []           -- cores for which a fence trigger is on its way to a collector (R570)
  isolate : List Nat := []            -- isolated cores whose fence is not complete, in trigger order (R571)
  deriving DecidableEq, Repr

/-! ### Registers (chapter 21) -/

/-- A guard latch (R601): the address A and the value written there; none of it when no window runs. -/
structure Latch where
  addr : Nat
  value : Word
  deriving DecidableEq, Repr

structure RegSt where
  cfg : Tbl Word := []              -- every stored field, by BAR2 offset; unlisted: the reset value
  ctr : Tbl Word := []              -- live counters (R603); unlisted: zero
  hold : Tbl Word := []             -- holding registers (R603); unlisted: zero
  latch : Tbl Latch := []           -- guard latches, by 2 × slot + path
  capt : Tbl (List (Nat × Word)) := []  -- captures, by 2 × slot + path: the captured words by BAR2 offset (R598)
  bad : List (Nat × Word) := []     -- registers whose parity fails, with the value Bittern's shadow copy holds (R605)
  deriving DecidableEq, Repr

/-! ### Pegs (chapter 7) -/

/-- One peg (R208); its WAITERS are the registrations of `State.waits`. -/
structure Peg where
  count : Nat := 0
  target : Nat := 0
  armed : Bool := false
  sat : Bool := false
  poison : Bool := false
  deriving DecidableEq, Repr

/-- Who waits on a peg (R217): a physical core's sequencer, a copy engine (0 to 15), the fabric transmit path of a
region, or the launch of a context. -/
inductive Waiter where
  | seq (core : Nat)
  | ce (engine : Nat)
  | fab (region : Nat)
  | launch (ctx : Nat)
  deriving DecidableEq, Repr

/-- An operation of R210; the source order of R212 is 0 Bittern, 1 sequencer, 2 the others. -/
inductive PegOp where
  | signal (a : Nat)
  | arm (x : Nat) (order : Nat)
  | reset
  | wait (w : Waiter)
  | unwait (w : Waiter)
  deriving DecidableEq, Repr

/-! ### Cores (chapters 5 and 6) -/

/-- Core power states (R155). -/
inductive Pwr where
  | off | init | clockStop | run
  deriving DecidableEq, Repr

def Pwr.code : Pwr → Nat
  | .off => 0 | .init => 1 | .clockStop => 2 | .run => 3

/-- Sequencer states of SEQ.STS.STATE (R207). -/
inductive SeqState where
  | idle | ready | run | wait | draining | suspended | halted | fault
  deriving DecidableEq, Repr

def SeqState.code : SeqState → Nat
  | .idle => 0 | .ready => 1 | .run => 2 | .wait => 3 | .draining => 4 | .suspended => 5 | .halted => 6 | .fault => 7

/-- What a sequencer in WAIT waits for: a device peg, a Round, or a deadline (peg, deadline Round, fallback row). -/
inductive Wait where
  | peg (p : Nat)
  | round (n : Nat)
  | deadline (p : Nat) (d : Nat) (fb : Nat)
  deriving DecidableEq, Repr

/-- A loop stack entry (R181). -/
structure LoopEnt where
  start : Nat
  count : Nat
  index : Nat
  depth : Nat
  deriving DecidableEq, Repr

/-- A captured row of the fetch window (R189): its eight words, and whether it holds poison (R194). -/
structure Row where
  words : List Nat
  poison : Bool
  deriving DecidableEq, Repr

/-- A resolved tile: planes, geometry and format of an operand (R164, R166). `cap` is the number of rows its
descriptor allows. -/
structure Tile where
  fmt : Fmt
  bias : Nat
  ebase : Nat
  epitch : Nat
  sbase : Nat
  spitch : Nat
  rows : Nat
  len : Nat
  deriving DecidableEq, Repr

/-- Stream functions (R130, R177). -/
inductive StreamFn where
  | stageIn | stageOut | gather | scatter | copyLocal
  deriving DecidableEq, Repr

/-- An engine trick with every operand resolved (R170). -/
inductive EngOp where
  | mm (left right : Tile) (out : Option Tile) (m n k : Nat) (start : Bool) (wbase conv seed : Nat)
  | vec (fn : VecFn) (shape : Nat) (a : Tile) (b c d : Option Tile) (start write : Bool) (wbase conv seed : Nat)
  | tu (fn : TuFn) (a d : Tile) (conv seed : Nat)
  | stream (fn : StreamFn) (cs mem : Tile) (idx : Option Tile) (transpose cached : Bool) (hint conv seed : Nat)
      (next : Option Tile)
  deriving DecidableEq, Repr

/-- A write an engine still has to land: core store offset and bytes (whole range of one output row). -/
structure StoreWr where
  off : Nat
  data : List Byte
  deriving DecidableEq, Repr

/-- What a started compute trick will do when its last write lands (R179): its output writes, whether they are
written poisoned, the conditions it raised and how many elements raised each counted one (R114, R116). -/
structure Running where
  wr : List StoreWr := []
  poison : Bool := false
  flags : Flags := 0
  winx : Nat := 0
  wovf : Nat := 0
  inv : Nat := 0
  satc : Nat := 0
  nan : Nat := 0
  deriving DecidableEq, Repr

/-- An issued engine trick in its queue (R117): its row, operands, SIG peg, trace bit; what it produced once it is
started; and, for a stream trick, the tile rows completed and the generator at the first incomplete row (R197). -/
structure Trick where
  id : Nat
  row : Nat
  opc : Nat
  op : EngOp
  sig : Option Nat
  tr : Bool
  running : Option Running := none
  done : Nat := 0
  rng : Nat := 0
  stopped : Bool := false
  deriving DecidableEq, Repr

/-- A range entry of R142: the interval of a read or write range of trick `id`. -/
structure RangeEnt where
  lo : Nat
  hi : Nat
  write : Bool
  id : Nat
  deriving DecidableEq, Repr

/-- A core cache line (R151): its line address (in 128-byte lines; host lines above the device ones), MESI state. -/
inductive Mesi where
  | i | s | e | m
  deriving DecidableEq, Repr

structure CLine where
  line : Nat
  st : Mesi
  data : List Byte
  poison : Nat := 0                   -- bit h: half h holds poison
  deriving DecidableEq, Repr

/-- Why a sequencer is stopping (R195, R163, R20, R486): for preemption, for suspension, for a cancel. -/
inductive Stop where
  | preempt | suspend | cancel
  deriving DecidableEq, Repr

structure Core where
  pwr : Pwr := .off
  lcore : Option Nat := none          -- logical core bound to it (R17)
  isolated : Bool := false            -- R571
  ctx : Option Nat := none            -- context whose hand it runs
  tbl : Nat := 0                      -- table area size t (R136)
  store : Tbl Byte := []              -- core store; unlisted bytes are zero (R150, R205)
  poison : Tbl Bool := []             -- poisoned 64-bit words, by word number
  spare : Tbl Nat := []               -- remapped rows: 1024 × bank + row ↦ spare row + 1 (R148)
  rowCe : Tbl Nat := []               -- corrected errors by row since the core left OFF (R148)
  wb : List Nat := []                 -- words whose corrected value waits to be written back (R144)
  remap : List Nat := []              -- rows that wait for their copy to a spare row (R148)
  scrub : Nat := 0                    -- next row of the scrub, 0 to 1,039 (R149)
  seq : SeqState := .idle
  row : Nat := 0                      -- next row to issue
  calls : List Nat := []              -- call stack, top first
  loops : List LoopEnt := []          -- loop stack, top first
  base : Nat := 0                     -- base Round (R182)
  window : Tbl Row := []              -- fetch window (R189), by row number
  parked : Bool := false              -- a stop has taken effect at a boundary (R195)
  wait : Option Wait := none
  stop : Option Stop := none
  halt : Bool := false                -- HALT has issued (R187)
  enq : Option (Nat × Nat × Nat) := none -- an ENQ held until its list is accepted: engine, first byte, units (R185)
  eng : Tbl (List Trick) := []        -- issue queues, by engine 0 to 7, oldest first (R117)
  nextId : Nat := 0
  ranges : List RangeEnt := []        -- R142
  acc : Tbl WAcc := []                -- window accumulators: 16384 × engine + i for ME, 65536 + 256 × engine + j for VE
  cc : Tbl CLine := []                -- core cache, by 8 × set + way
  plru : Tbl Nat := []                -- tree pseudo-LRU bits, by set
  ccMiss : List Nat := []             -- lines with an outstanding miss (R152)
  deriving DecidableEq, Repr

/-! ### Commands, rings and contexts (chapter 16) -/

/-- A started command (R475): its number in order of fetch, where it came from, its class (0 to 7, or 15 for the admin
class) and its slot. `ran`: its effect has begun and it runs on in the background. -/
structure Cmd where
  id : Nat
  src : CmdSrc
  cls : Nat
  head : Nat
  bytes : List Byte
  ran : Bool := false
  deriving DecidableEq, Repr

/-- A completion record (R478) without its PHASE. -/
structure Rec where
  tag : Nat
  opcode : Nat
  status : Nat
  orphan : Bool := false
  sq : Nat
  head : Nat := 0
  detail : Nat := 0
  flags : Nat := 0
  r0 : Nat := 0
  r1 : Nat := 0
  deriving DecidableEq, Repr

structure Sq where
  cls : Nat
  log2 : Nat
  base : Nat
  cq : Nat
  since : Nat := 0                    -- number of the first command it can fetch
  head : Nat := 0
  tail : Nat := 0
  barrier : Option Cmd := none        -- a fetched command with BARRIER that waits (R493)
  closing : Option Cmd := none        -- the RING_DESTROY that drains (R495)
  deriving DecidableEq, Repr

structure Cq where
  event : Bool
  cls : Nat
  log2 : Nat
  vec : Nat
  base : Nat
  head : Nat := 0
  tail : Nat := 0
  phase : Bool := true
  reserved : Nat := 0
  waiting : List Rec := []            -- events held while the ring is full (R474)
  lost : Nat := 0                     -- events dropped
  seqNo : Nat := 0                    -- event sequence number (R478)
  deriving DecidableEq, Repr

/-- Suspension causes (R491). -/
inductive Cause where
  | seqFault | xlat | listAbort | poison | host | thermal | round | core
  deriving DecidableEq, Repr

def Cause.code : Cause → Nat
  | .seqFault => 1 | .xlat => 2 | .listAbort => 3 | .poison => 4 | .host => 5 | .thermal => 6 | .round => 7 | .core => 8

/-- Context states (R482). -/
inductive CtxState where
  | free | empty | loaded | armed | running | suspended | preempting | preempted | resuming | destroying
  deriving DecidableEq, Repr

def CtxState.code : CtxState → Nat
  | .free => 0 | .empty => 1 | .loaded => 2 | .armed => 3 | .running => 4 | .suspended => 5
  | .preempting => 6 | .preempted => 7 | .resuming => 8 | .destroying => 9

/-- What a loaded hand declares (R200): its period, its PEGPLAN, and the cores it binds: logical core and ENTRY row. -/
structure Hand where
  period : Nat
  plan : List (Nat × Nat)
  binds : List (Nat × Nat)
  deriving DecidableEq, Repr

/-- What a preempted core's image holds (R198), by logical core. -/
structure Image where
  lcore : Nat
  core : Core
  flags : List Word
  deriving DecidableEq, Repr

structure Ctx where
  state : CtxState := .free
  part : Nat := 0
  cores : Nat := 0                    -- bit L: logical core L belongs to the context
  save : List Nat := []               -- SAVE_r
  hand : Option Hand := none
  base : Option Nat := none           -- base Round, once fixed
  gate : Option Nat := none           -- device peg of a launch gate
  gateRnd : Nat := 0                  -- RND of a gated launch
  launch : Option Cmd := none         -- the LAUNCH whose record is outstanding (R485)
  causes : List Cause := []           -- suspension causes, first reported first (R491)
  thermal : List Nat := []            -- regions of a THERMAL cause
  cancel : Option Cmd := none         -- a CANCEL that waits or drains
  preempt : Option Cmd := none
  resume : Option Cmd := none
  destroy : Option Cmd := none
  restored : List Nat := []           -- logical cores whose image is restored and whose window is captured
  goes : Bool := false                -- an accepted RESUME waits for its Round boundary (R490)
  op : Nat := 0                       -- requested operating point (R528)
  lastHalt : Nat := 0                 -- Round of the last HALTED
  flags : Flags := 0                  -- OR of the cores' flag words (R114)
  images : List Image := []
  lost : List Nat := []               -- logical cores whose state is lost (cause CORE)
  drained : Bool := false             -- DESTROYING: unmapped, and its last invalidation asked for (R495)
  deriving DecidableEq, Repr

structure VciSt where
  up : Bool := false                  -- Bittern serves rings and the mailbox (R587)
  sq : Tbl Sq := []
  cq : Tbl Cq := []
  cmds : List Cmd := []               -- started commands that are incomplete
  dbSq : Tbl Nat := []                -- SQ_DB_q: last accepted value
  dbCq : Tbl Nat := []
  dbErr : Word := 0
  mslot : Tbl Word := []              -- MBOX_SLOT_w
  mcpl : Tbl Word := []               -- MBOX_CPL_w
  mbusy : Bool := true
  mdone : Bool := false
  nextCmd : Nat := 0                  -- number of the next command
  rrCls : Nat := 8                    -- class served last (R475), 8 for the admin class
  rrSq : Tbl Nat := []                -- ring served last, by class; unlisted: 255
  token : Option Nat := none          -- attach token (R497)
  orphans : List (Nat × Rec) := []    -- held records with their class (R498)
  detach : Option Cmd := none         -- a DETACH that drains
  dead : List Nat := []               -- Bittern cores out of service (R23, R583)
  deriving DecidableEq, Repr

/-! ### Lists of the copy engines and the fabric transmit paths (chapters 12 and 14) -/

/-- What a list in a list table is doing (R371): `ending` has stopped issuing and leaves once what it issued is done. -/
inductive LState where
  | accepted | running | gated | stopped | ending
  deriving DecidableEq, Repr

/-- A chunk whose writes toward the host are not all acknowledged: the descriptor, the source position, its progress
units and destination bytes, its write-through entries, where a rewrite starts again, and the units issued before it
(R350, R351, R368). -/
structure CPend where
  desc : Nat
  spos : Nat
  units : Nat
  bytes : Nat
  wts : List Nat
  unit : Nat
  off : Nat
  enc : Nat
  rng : Nat
  before : Nat
  deriving DecidableEq, Repr

/-- A descriptor that has issued all its chunks and is not complete: its number and the device peg of its SIG. -/
structure CFin where
  desc : Nat
  sig : Option Nat
  deriving DecidableEq, Repr

/-- An accepted list (R338): its number in order of acceptance, its units with their poison, its source, and its
restart state: the descriptor, its first unit, the offset in it, the stream offset and the generator. -/
structure CList where
  id : Nat
  ctx : Nat
  units : List (List Byte × Bool)
  lcore : Option Nat
  cmd : Option Cmd
  st : LState := .accepted
  status : Nat := 0
  desc : Nat := 0
  unit : Nat := 0
  off : Nat := 0
  enc : Nat := 0
  rng : Nat := 0
  hdr : Nat := 0                      -- FMT and BIAS of the stream being decoded, FMT lowest
  open_ : Bool := false               -- the descriptor has passed its gate and its checks
  hold : Bool := false                -- a FENCE holds writes until those before it are complete
  flags : Flags := 0
  issued : Nat := 0                   -- progress units issued and committed
  done : Nat := 0
  sigged : List Nat := []             -- descriptors that have completed, so that a rewrite signals none again
  fins : List CFin := []
  pend : List CPend := []
  conn : Nat := 0                     -- the connection of the descriptor that failed (R433)
  deriving DecidableEq, Repr

/-- A record that Heron is to write to the event log (R538). -/
structure LogRec where
  kind : Nat
  sev : Nat
  stamp : Nat
  data : Nat
  deriving DecidableEq, Repr

/-! ### Heron (chapter 18) -/

inductive HeronState where
  | boot | run | restart
  deriving DecidableEq, Repr

def HeronState.code : HeronState → Nat
  | .boot => 0 | .run => 1 | .restart => 2

/-- Slot states (R541). -/
inductive FwState where
  | empty | staging | staged | active | pending | failed
  deriving DecidableEq, Repr

def FwState.code : FwState → Nat
  | .empty => 0 | .staging => 1 | .staged => 2 | .active => 3 | .pending => 4 | .failed => 5

/-- A log record as it is stored (R538). -/
structure LogEnt where
  seq : Nat
  kind : Nat
  sev : Nat
  stamp : Nat
  data : Nat
  deriving DecidableEq, Repr

/-- A region's operating point (R528 to R532): the point applied, the last grant, the target of a change under way with
its PLL, its rail and the Round of its grant, the thermal cap, and why the last grant was capped. -/
structure OpSt where
  applied : Nat := 0
  grant : Nat := 0
  target : Option Nat := none
  pll : Bool := false
  rail : Bool := false
  since : Nat := 0
  capT : Nat := 7
  byRail : Bool := false
  byTherm : Bool := false
  byDesign : Bool := false
  deriving DecidableEq, Repr

/-- A rail (R524, R525): its throttle step, its last window averages, windows in a row above the limit, windows in a row
at step 7 and whether their report is made, and windows since its step was last above 0 (at most 500, 1 ms). -/
structure Rail where
  step : Nat := 0
  amps : Nat := 0
  volts : Nat := 0
  overAmps : Nat := 0
  at7 : Nat := 0
  reported : Bool := false
  quiet : Nat := 500
  deriving DecidableEq, Repr

/-- What a firmware set's manifest says (R626): its SVN, the index of its signing key, and its flags. -/
structure Manifest where
  svn : Nat := 0
  key : Nat := 0
  approved : Bool := true
  raising : Bool := false
  deriving DecidableEq, Repr

/-- A firmware slot (R541). -/
structure FwSlot where
  state : FwState := .empty
  man : Manifest := {}
  deriving DecidableEq, Repr

/-- A firmware update under way (R542): its component, and whether it has been verified. -/
structure Update where
  comp : Nat
  verified : Bool := false
  deriving DecidableEq, Repr

/-- A scheduled activation (R544): the slot, its Round, the command that asked, and whether its deferral is logged. -/
structure Activation where
  slot : Nat
  rnd : Nat
  cmd : Option Cmd
  deferred : Bool := false
  deriving DecidableEq, Repr

/-- An activation whose images run their self-checks (R545, R546). -/
structure Checking where
  slot : Nat
  old : Nat
  rnd : Nat
  cmd : Option Cmd
  revert : Bool := false
  deriving DecidableEq, Repr

/-- Option bytes that hold the default of every field (R540), with their CRC: what the block holds before any option
component has been delivered (DESIGN CHOICE). -/
def optDefault : List Byte :=
  List.replicate 10 0#8 ++ [0x20#8, 0x03#8, 0x20#8, 0x03#8, 0x02#8, 0x5F#8] ++ List.replicate 16 0#8
    ++ (List.replicate 4 [0xFC#8, 0x08#8]).flatten ++ [0xC4#8, 0x09#8, 0xD0#8, 0x07#8, 0x58#8, 0x02#8, 0x20#8, 0x03#8, 0x32#8, 0x00#8]
    ++ List.replicate 202 0#8 ++ [0x7E#8, 0xF1#8, 0x32#8, 0xAA#8]

structure HeronSt where
  state : HeronState := .boot
  opts : List Byte := optDefault       -- option bytes (R540), non-volatile
  main : List LogEnt := []            -- event log, oldest first, non-volatile (R537)
  repair : List LogEnt := []
  seq : Nat := 0                      -- SEQ of the last record
  full : Bool := false                -- REPAIR_FULL
  cool : Bool := false                -- the option values in force
  serial : Nat := 0
  dpMax : Nat := 0
  opDef : Nat := 0
  tctl : Nat := 0
  txset : Nat := 0
  markTx : Nat := 0
  static : Nat := 0
  ilim : List Nat := List.replicate 9 0
  dp : Nat := 0                       -- design power in force, and one to take effect
  dpNext : Option Nat := none
  slots : List FwSlot := [⟨.active, {}⟩, {}] -- slots A and B, non-volatile
  act : Option Activation := none
  check : Option Checking := none
  revert : Option Checking := none    -- the previous slot is to come back at the next Round boundary (R546)
  update : Option Update := none
  staged : List Byte := []            -- option component received and verified
  ops : Tbl OpSt := []
  diodes : Tbl Nat := []              -- last readings; unlisted: 0xFF
  hot : List Nat := []                -- diodes whose last comparator sample read 115 °C or more
  tripped : List Nat := []            -- diodes whose comparator has driven its fatal line
  alarm : Bool := false               -- TJ_MAX stands at T_CTL + 10 °C or more
  rails : Tbl Rail := []
  watts : Nat := 0
  addr : Option Nat := none           -- dynamic I3C address
  seen : Tbl Nat := []                -- threshold state last reported, by sensor (R549)
  hush : Tbl Nat := []                -- sensor updates until a sensor may send its next event (R550)
  ms : Nat := 0                       -- sensor updates, one each ms
  deriving DecidableEq, Repr

/-! ### Reset (chapter 20) -/

structure RstSt where
  ready : Bool := false
  step : Nat := 0                     -- start-up step a reset waits at: 0 after a cold, 3 after a block reset
  scope : Nat := 0                    -- STS.SCOPE, LAST_SRC and CAUSE
  lastSrc : Nat := 0
  cause : Nat := 0
  pulse : Bool := false               -- a non-volatile write pulse runs (R585)
  late : Bool := false                -- a cold reset waits for it before it enters the always-on domain
  badClk : List Nat := []             -- monitors that find their clock bad: bit n of CLK_STS0, 32 + n of CLK_STS1 (R584)
  fuse : Bool := false                -- the factory fuse is intact (R595)
  sram : Tbl Word := []               -- retained SRAM, by word; unlisted: zero (R591)
  deriving DecidableEq, Repr

/-! ### Security functions (chapter 22) -/

inductive SedgeState where
  | selftest | approved | nonapproved | error | decommissioned
  deriving DecidableEq, Repr

def SedgeState.code : SedgeState → Nat
  | .selftest => 0 | .approved => 1 | .nonapproved => 2 | .error => 3 | .decommissioned => 4

/-- How far a secured session is: the KEM exchange, the PSK exchange, or established (R622). -/
inductive SessPhase where
  | kem | psk | up
  deriving DecidableEq, Repr

/-- A secured session or the exchange that opens one: its transport and number, and whether its requester is
authenticated (R614). -/
structure Session where
  doe : Bool
  id : Nat
  phase : SessPhase := .kem
  auth : Bool := false
  deriving DecidableEq, Repr

/-- An IDE stream (R627): whether a key is programmed, and whether its key set is in use. -/
structure IdeStream where
  keyed : Bool := false
  used : Bool := false
  deriving DecidableEq, Repr

inductive TdiState where
  | unlocked | locked | run | error
  deriving DecidableEq, Repr

def TdiState.code : TdiState → Nat
  | .unlocked => 0 | .locked => 1 | .run => 2 | .error => 3

/-- A partition's interface (R628) with its bound selective stream, 0 for none; `stopping`: STOP_INTERFACE has been
asked for and its contexts are not yet gone. -/
structure Tdi where
  state : TdiState := .unlocked
  stream : Nat := 0
  stopping : Bool := false
  deriving DecidableEq, Repr

/-- Sedge. Keys are names, counted from 1; 0 is no key. The owner anchor, DevID and the fabric key with its chain are
non-volatile (R619). -/
structure SedgeSt where
  state : SedgeState := .selftest
  exitDrill : Bool := false           -- exit conditions (R617)
  exitDebug : Bool := false
  exitSet : Bool := false
  err : Nat := 0
  sess : List Session := []
  devid : Bool := true                -- DevID and slot 0 are held (R619)
  alias_ : Nat := 0                   -- alias key
  fabKey : Nat := 0                   -- fabric key
  chain1 : Option (Nat × Bool) := none -- slot 1: identifier and role bit of its fabric certificate (R623)
  chainKey : Nat := 0                 -- the fabric key that this certificate is of
  owner : Bool := false
  destroyed : Bool := false           -- the destroy fuse of the wrapping key is blown (R629)
  minSvn : Nat := 0
  revoked : Nat := 0
  streams : Tbl IdeStream := []
  tdi : Tbl Tdi := []
  nextKey : Nat := 1
  armed : Bool := false               -- debug port (R641)
  unlocked : Bool := false
  refusals : Nat := 0
  deriving DecidableEq, Repr

/-- The test access port (R640): its instruction, the bypass bit and the boundary-scan bits loaded. -/
structure TapSt where
  ir : Nat := 1
  bypass : Bool := false
  scan : List Bool := []
  deriving DecidableEq, Repr

/-! ### Device memory and the shared cache (chapter 8) -/

/-- Controller states of R230. -/
inductive HbmState where
  | off | train | run | repair | selfRefresh | lost
  deriving DecidableEq, Repr

def HbmState.code : HbmState → Nat
  | .off => 0 | .train => 1 | .run => 2 | .repair => 3 | .selfRefresh => 4 | .lost => 5

/-- One HBM controller. -/
structure Hbm where
  state : HbmState := .off
  ch : Nat := 0                       -- channel in lane repair
  lane : Nat := 0                     -- its failing lane, and the repair lane it moves onto
  onto : Nat := 0
  rowCe : Tbl Nat := []               -- corrected errors by row since TRAIN (R238)
  cand : List Nat := []               -- repair candidates, oldest first
  sppr : Option Nat := none           -- row under soft repair
  scrub : Nat := 0                    -- next line of the scrub, as a line of the stack
  passed : List Nat := []             -- lines the scrub passed over during a repair (R239)
  valid : Bool := false
  temp : Nat := 0
  level : Nat := 0                    -- throttle level (R253)
  sent : Option (List Byte × Bool) := none -- what the last read returned: bytes and poison (R226)
  deriving DecidableEq, Repr

/-- A line of a slice with its home record (R240, R315). Its PRES, OWN and BLK are read from the core caches and the
open transactions. -/
structure SLine where
  line : Nat
  data : List Byte
  dirty : Bool := false
  keep : Bool := false
  cls : Nat := 0
  use : Nat := 0                      -- recency: the greater, the later
  poison : Nat := 0                   -- bit h: half h holds poison
  pred : Nat := 1                     -- R326
  deriving DecidableEq, Repr

/-! ### Coherence (chapter 11) -/

/-- The requests a home serves (R317). -/
inductive CohKind where
  | rdS | rdO | ownND | upg | ncRd | ncWr | ncAt
  deriving DecidableEq, Repr

/-- A transaction at a home (R318): its line; the requester: a core cache, or a non-caching agent with its context;
what it asks; the write it carries; the core caches whose snoop answer it waits for; and whether it has granted. -/
structure Txn where
  line : Nat
  kind : CohKind
  core : Option Nat
  agent : Option Agent := none
  ctx : Option Nat := none
  hint : Nat := 0
  cls : Nat := 0
  off : Nat := 0
  data : List Byte := []
  op : AtomOp := .add
  size : Nat := 8
  cmp : Nat := 0
  near : Option Nat := none
  waits : List Nat := []
  got : Option (List Byte × Nat) := none
  granted : Bool := false
  deriving DecidableEq, Repr

inductive SnpKind where
  | inv | shr | cur
  deriving DecidableEq, Repr

/-- A snoop on its way to a core cache, or deferred there under a hold (R320). -/
structure Snoop where
  core : Nat
  line : Nat
  kind : SnpKind
  deferred : Bool := false
  deriving DecidableEq, Repr

/-- A Grant on its way: the new state, the line's bytes and poison, and the write that asked for it. -/
structure Grant where
  core : Nat
  line : Nat
  st : Mesi
  data : List Byte
  poison : Nat
  off : Nat := 0
  wdata : List Byte := []
  deriving DecidableEq, Repr

/-- A running reclamation walk (R327): its core, the lines it poisoned and the context that was bound. -/
structure Reclaim where
  core : Nat
  poisoned : Nat
  ctx : Option Nat
  deriving DecidableEq, Repr

structure CohSt where
  open_ : List Txn := []
  waiting : List Txn := []            -- requests that wait on a line with BLK set, in order
  snoops : List Snoop := []
  grants : List Grant := []
  acks : List (Nat × Nat) := []       -- core and line of an Ack on its way
  holds : List (Nat × Nat) := []      -- core and line under the hold of R320
  walk : Tbl Reclaim := []            -- by region
  deriving DecidableEq, Repr

/-! ### Translation (chapter 9) -/

/-- A TLB entry (R270, R271): context, segment, level, first page of its run, the run's page count, and the table
entry of that first page. -/
structure TlbEnt where
  ctx : Nat
  seg : Nat
  lvl : Nat
  page : Nat
  run : Nat
  pte : Nat
  pin : Bool := false
  deriving DecidableEq, Repr

/-- A walk cache entry: the table of level `lvl` that serves a range of offsets, named by its upper bits. -/
structure WalkEnt where
  ctx : Nat
  seg : Nat
  lvl : Nat
  hi : Nat
  table : Nat
  deriving DecidableEq, Repr

/-- A translation fault on its way to Bittern's record (R277, R280). -/
structure XFault where
  ctx : Nat
  kind : Nat
  acc : Nat
  lvl : Nat
  seg : Nat
  req : Nat
  unit : Nat
  dva : Nat
  pos : Nat
  pte : Nat
  deriving DecidableEq, Repr

/-- An invalidation (R282): its command if one waits, the context, the DVAs it covers, and, once marked, the
write-through entries that were accepted before the mark. -/
structure Inval where
  cmd : Option Cmd
  ctx : Nat
  lo : Nat
  hi : Nat
  marked : Bool := false
  wts : List Nat := []
  deriving DecidableEq, Repr

structure XlatSt where
  utlb : Tbl (List TlbEnt) := []      -- micro-TLBs: 0 to 103 cores, 104 to 119 copy engines, 120 to 123 regions, 124 Bittern
  rtlb : Tbl (List TlbEnt) := []      -- region TLB sets: 512 × region + set, most recent first
  walkc : Tbl (List WalkEnt) := []    -- walk caches, by region
  faults : List XFault := []
  invs : List Inval := []
  deriving DecidableEq, Repr

/-! ### The device cache (chapter 10) -/

inductive DcState where
  | off | init | run | maint
  deriving DecidableEq, Repr

def DcState.code : DcState → Nat
  | .off => 0 | .init => 1 | .run => 2 | .maint => 3

/-- A line: its address (HPA / 64), class, presence vector, bytes, and whether a prefetch brought it and no read has
hit it yet. -/
structure DLine where
  line : Nat
  cls : Nat
  pres : Nat := 0
  data : List Byte
  pf : Bool := false
  deriving DecidableEq, Repr

/-- A fill entry: where it installs (none: served without allocation), for whom, and the chunks that have come. -/
structure Fill where
  line : Nat
  key : Option Nat
  cls : Nat
  pres : Nat := 0
  pf : Bool := false
  lo : Option (List Byte) := none
  hi : Option (List Byte) := none
  agent : Option Agent := none        -- a requester that waits for the bytes
  deriving DecidableEq, Repr

/-- Who handed over a write toward the host. -/
inductive WtOwner where
  | stream (core : Nat)
  | copy (engine : Nat) (list : Nat)
  | bittern
  deriving DecidableEq, Repr

/-- A write-through entry: number, line, offset and bytes, owner, context, and the place a zero-line installs at. -/
structure Wt where
  id : Nat
  line : Nat
  off : Nat
  data : List Byte
  owner : WtOwner
  ctx : Option Nat
  cls : Nat
  zero : Option Nat := none
  gen : Nat := 0                      -- attach generation (R469)
  deriving DecidableEq, Repr

/-- A running maintenance operation of R306: its code, scope, line or sets and ways, the write-through entries it
waits for, and its command. -/
structure DcOp where
  op : Nat
  bySet : Bool
  line : Nat
  first : Nat
  count : Nat
  ways : Nat
  wts : List Nat
  cmd : Option Cmd
  deriving DecidableEq, Repr

structure DcSt where
  state : DcState := .off
  lines : Tbl DLine := []             -- by 16 × set + way
  fills : List Fill := []
  wt : List Wt := []
  evb : List Nat := []                -- lines in the eviction buffer
  nextId : Nat := 0
  set : Nat := 0
  op : Option DcOp := none
  deriving DecidableEq, Repr

/-! ### Lodes (chapter 13) -/

inductive LodeState where
  | off | dark | probe | train | auth | active | quarantine
  deriving DecidableEq, Repr

def LodeState.code : LodeState → Nat
  | .off => 0 | .dark => 1 | .probe => 2 | .train => 3 | .auth => 4 | .active => 5 | .quarantine => 6

/-- A data block in the replay buffer (R391): its number, the header and the 624 slot bytes it was first sent with, and
the key. -/
structure Blk where
  n : Nat
  header : Nat
  slots : List Byte
  key : Nat
  deriving DecidableEq, Repr

/-- A key switch under way (R403): the new key, its first data block number and its first CCTR. -/
structure KeySw where
  key : Nat
  n : Nat
  c : Nat
  deriving DecidableEq, Repr

structure LodeSt where
  state : LodeState := .off
  fresh : Bool := true                -- in TRAIN: for a new session
  backoff : Nat := 0                  -- interval before the next probe burst, in ms
  txw : Nat := 0                      -- widths as codes, and groups (R387, R395)
  txg : Nat := 0
  rxw : Nat := 0
  rxg : Nat := 0
  lock : Nat := 0                     -- by receive lane
  degraded : Nat := 0
  infoTx : Bool := false              -- TRAIN_INFO sent, received
  infoRx : Bool := false
  authIn : List Byte := []            -- bytes of the AUTH message being assembled
  authFrag : Nat := 0                 -- next fragment number
  authDone : Bool := false            -- the exchange is complete and its keys can be installed
  authStep : Nat := 0                 -- messages of the exchange that have come from the partner
  peer : Option (Bool × Nat) := none  -- role bit and identifier of the certificate accepted in the exchange
  txKey : Nat := 0                    -- names of the keys in force; 0 none
  rxKey : Nat := 0
  txNext : Option KeySw := none
  rxNext : Option KeySw := none
  n : Nat := 0                        -- number of the next data block
  replay : List Blk := []
  resend : List Nat := []             -- numbers of held blocks to send again
  e : Nat := 0                        -- data block number expected
  nak : Bool := false
  nakAgain : Bool := false
  nakSeen : Bool := false             -- a NAK has been acted on
  timeouts : Nat := 0
  cctrTx : Nat := 0
  cctrRx : Option Nat := none         -- last CCTR accepted
  msgs : List (Nat × Nat) := []       -- messages to send: type and body
  inbox : List (Nat × Nat) := []      -- messages received in accepted blocks and not yet processed
  trying : Nat := 0                   -- receive lanes under retraining (R397)
  mark : Option Nat := none           -- a Round mark to send
  setDue : Bool := false              -- a marker set to send before the next block
  want : Option (Nat × Nat) := none   -- width and group asked for
  asks : Nat := 0
  ue : Nat := 0                       -- counts of the window of R405
  tag : Nat := 0
  bad : Nat := 0
  retrains : Nat := 0
  authFails : Nat := 0
  qcnt : Nat := 0
  latched : Bool := false
  partner : Option (Bool × Nat) := none
  session : Bool := false             -- keys of a session are installed
  since : Nat := 0                    -- Round, N and CCTR at which the transmit key came into use (R625)
  keyN : Nat := 0
  keyC : Nat := 0
  disable : Option Cmd := none        -- the LODE_CTL disable that drains (R495)
  deriving DecidableEq, Repr

/-! ### The fabric (chapter 14) -/

/-- A packet (R416 to R418): the fields of its routing header, bits [127:32] of its operation header, its payload; for
an arrival, the bits [16:0] that shall be zero and the CRC it carried. -/
structure Pkt where
  ty : Nat
  len : Nat
  dstId : Nat
  dstEp : Nat
  dstConn : Nat
  srcId : Nat
  srcEp : Nat
  psn : Nat := 0
  rsig : Bool := false
  cgen : Nat
  rsv : Nat := 0
  op : Nat
  payload : List Byte
  crc : Nat := 0
  deriving DecidableEq, Repr

/-- A packet that waits to be sent or acknowledged: the list and descriptor it belongs to with its source position, or
the context and device of a peg message (R435). -/
structure HeldPkt where
  pkt : Pkt
  list : Option Nat := none
  desc : Nat := 0
  spos : Nat := 0
  msg : Option (Nat × Nat) := none
  deriving DecidableEq, Repr

/-- An ACK to send (R418). -/
structure AckOut where
  psn : Nat
  status : Nat := 0
  spsn : Nat := 0
  flags : Nat := 0
  credit : Nat := 0
  svalid : Bool := false
  deriving DecidableEq, Repr

inductive ConnState where
  | closed | opened | broken
  deriving DecidableEq, Repr

def ConnState.code : ConnState → Nat
  | .closed => 0 | .opened => 1 | .broken => 2

/-- A connection (R412, R419); its other fields are those of `FAB.CONN_i`. -/
structure Conn where
  state : ConnState := .closed
  tx : Nat := 0
  unack : Nat := 0
  rx : Nat := 0
  credit : Nat := 0
  act : Option Nat := none
  drops : Nat := 0
  timeouts : Nat := 0
  ready : List HeldPkt := []             -- formed and not yet sent
  held : List HeldPkt := []              -- sent and not acknowledged, oldest first
  again : List Nat := []              -- PSNs of held packets to send again
  acks : List AckOut := []
  spent : Nat := 0                    -- credits the peer has used and not got back
  close : Option Cmd := none
  deriving DecidableEq, Repr

/-- A handle (R425), held by its INDEX. -/
structure Handle where
  key : Nat
  part : Nat
  ctx : Nat
  base : Nat
  length : Nat
  wr : Bool
  rd : Bool
  red : Bool
  exp : Nat
  h : Nat
  deriving DecidableEq, Repr

/-- An outstanding READ_REQ tag (R428): its list and descriptor, the DPA its bytes go to, how many, and the OFFSET
expected. -/
structure RdTag where
  list : Nat
  desc : Nat
  spos : Nat
  ctx : Nat
  conn : Nat
  dpa : Nat
  size : Nat
  got : Nat := 0
  deriving DecidableEq, Repr

structure FabSt where
  conns : Tbl Conn := []
  handles : Tbl Handle := []
  hcache : Tbl (List Nat) := []       -- INDEXes in the handle caches, by region
  tags : Tbl RdTag := []              -- by 1,024 × region + tag
  txtok : Tbl Nat := []               -- slots left in the buckets of R415, by 8 × region + partition
  rx : Tbl (List (Option Nat × Pkt)) := [] -- packets that have arrived, by region, with the lode
  rr : Tbl Nat := []                  -- connection served last, by lode
  deriving DecidableEq, Repr

/-! ### The host link (chapter 15) -/

/-- Attach states (R463). -/
inductive Attach where
  | detached | attached | hold
  deriving DecidableEq, Repr

def Attach.code : Attach → Nat
  | .detached => 0 | .attached => 1 | .hold => 2

/-- What HOLD keeps from the host (R463): a CXL.io write of Bittern, the message of a vector, or a CXL.cache request. -/
inductive HostWr where
  | write (hpa : Nat) (bytes : List Byte)
  | msi (vector : Nat)
  | req (opcode line off : Nat) (bytes : List Byte)
  | read (tag hpa bytes : Nat)
  deriving DecidableEq, Repr

/-- An entry of the lost-write log (R466): requester, unit, context, generation, first line (HPA / 64), lines. -/
structure LwlEnt where
  req : Nat
  part : Bool
  ctx : Option Nat
  unit : Nat
  gen : Nat
  first : Nat
  lines : Nat
  deriving DecidableEq, Repr

/-- An HDM decoder (R448): its base, size and skip in bytes, its interleave ways, COMMITTED, the error and the lock. -/
structure Decoder where
  base : Nat := 0
  size : Nat := 0
  skip : Nat := 0
  ways : Nat := 0
  committed : Bool := false
  error : Bool := false
  lockOn : Bool := false
  deriving DecidableEq, Repr

/-- An outstanding CXL.io read of Bittern (R454): its tag, and the slot of a submission ring it fetches. -/
structure HostRd where
  tag : Nat
  sq : Nat
  slot : Nat
  deriving DecidableEq, Repr

/-- A change of bias in progress (R452): first granule, count, to HOST. -/
structure BiasRun where
  first : Nat
  count : Nat
  host : Bool
  cmd : Cmd
  deriving DecidableEq, Repr

structure HlSt where
  attach : Attach := .detached
  hr : Bool := false
  viralTx : Bool := false
  viralRx : Bool := false
  up : Bool := false                  -- the link is in L0
  mods : Nat := 0                     -- modules in use, bit m for module m
  conf : Tbl Word := []               -- configuration space, by double word; unlisted: its reset value (R446)
  msix : Tbl Word := []               -- MSI-X table, by word of BAR4 from 0x1_0000
  pendIrq : List Nat := []            -- vectors with an event that no message has carried (R459)
  dec : Tbl Decoder := []             -- HDM decoders, by number
  held : List HostWr := []
  reads : List HostRd := []
  l1 : Bool := false
  bias : Option BiasRun := none
  lwl : Tbl LwlEnt := []              -- lost-write log, by entry, and its newest entry
  newest : Option Nat := none
  deriving DecidableEq, Repr

/-! ### Partitions (chapter 17) -/

inductive PartState where
  | free | active | destroying
  deriving DecidableEq, Repr

structure Part where
  state : PartState := .free
  record : List Byte := []            -- the record in force (R505)
  destroy : Option Cmd := none
  deriving DecidableEq, Repr

/-! ### Trace (chapter 23) -/

/-- A region's trace unit: its buffer, write index, and the records dropped since the last LOST record. -/
structure TrcSt where
  buf : Tbl QWord := []               -- 16,384 entries (R636)
  wr : Nat := 0
  wrapped : Bool := false
  lost : Nat := 0
  lostAt : Nat := 0
  deriving DecidableEq, Repr

/-! ### The block -/

/-- What a PlatformEventMessage tells (R550): a sensor's new threshold state, a fatal fault, a FIRMWARE record (its event
and slot), or that the repair area is full. -/
inductive PEvent where
  | sensor (id state : Nat)
  | fatal (msg : Nat)
  | firmware (event slot : Nat)
  | repairFull
  deriving DecidableEq, Repr

/-- A PLDM response. -/
inductive PldmRsp where
  | ok | invalidData | alreadyInUpdate | notInUpdate | verifyFailed | refused
  deriving DecidableEq, Repr

/-- An SPDM response (R621, R622): the answer of each request, an ERROR Busy, or an ERROR for a request that is refused.
`signed` tells whether a signature of the alias key goes with it. -/
inductive SpdmRsp where
  | version | capabilities
  | algorithms (p384 sha384 : Bool)
  | digests (slots : List Nat)
  | certificate (slot : Nat)
  | challengeAuth (slot : Nat)
  | measurements (raw5 : List Nat) (raw6 : Word) (signed : Bool)
  | kemRsp (session : Nat)
  | pskRsp (session : Nat)
  | csr (key : Nat)
  | report (part : Nat) (pages : List Nat) (regs : List Word)
  | ide (streams : List Bool)
  | ok
  | busy
  | refused
  deriving DecidableEq, Repr

/-- A message or signal the block sends outward, in the order sent. -/
inductive Out where
  | delayReq (lode : Nat) (t1 : Nat)
  | mark (lode : Nat) (mark : QWord)
  | msi (vector : Nat) (addr : Nat) (data : Nat)
  | hostWrite (hpa : Nat) (bytes : List Byte)
  | readData (path : Path) (addr : Nat) (value : Word)
  | memData (agent : Agent) (line : Nat) (bytes : List Byte) (poison : Bool)
  /-- A CXL.cache request: 0 RdCurr, 1 RdShared, 2 ItoMWr, 3 WOWrInv, 4 CleanEvictNoData, 5 CLFlush. -/
  | cacheReq (opcode : Nat) (line : Nat) (off : Nat) (bytes : List Byte)
  /-- A snoop's answer: 0 RspIHitI, 1 RspIHitSE, 2 RspSHitSE. -/
  | snpRsp (line : Nat) (rsp : Nat)
  /-- CLFlush for both halves of `count` 128-byte lines from a DPA line on (R452). -/
  | flush (line count : Nat)
  /-- An answer on CXL.mem: the line (HPA / 64), its bytes (none: a completion), data poison, and the MetaValue. -/
  | memRsp (line : Nat) (bytes : List Byte) (poison : Bool) (meta_ : Nat)
  | confData (dw : Nat) (value : Word)
  | hostRead (tag hpa bytes : Nat)
  /-- A block leaves a lode: its width code and group, its 40-bit header, its body, the name of its key and its counter. With
  key 0 its information bytes are those of `blockBytes` with a tag of zeros, and its lanes carry `blockSymbols`; under a key,
  AES-GCM makes the body and the tag from these (R400). -/
  | block (lode width group header : Nat) (body : List Byte) (key counter : Nat)
  /-- A lode sends a marker set, or a probe burst. -/
  | markers (lode width group : Nat)
  | burst (lode : Nat)
  | platform (e : PEvent)
  | pldm (r : PldmRsp)
  | logRead (recs : List LogEnt)
  | spdm (doe : Bool) (r : SpdmRsp)
  /-- An AUTH message of a lode's exchange (R624): 0 CERT, 1 KEM_INIT, 2 KEM_RESP, 3 KEM_FIN. -/
  | auth (lode kind : Nat)
  /-- The data register a TAP instruction selects shows this value. -/
  | tap (width value : Nat)
  deriving DecidableEq, Repr

/-- Open-drain outputs (R589, R594), at their levels after the start of a cold reset: FAULT_N low, the alerts inactive. -/
structure PinSt where
  faultN : Bool := false
  thermN : Bool := true               -- THERM_ALERT_N
  pwrN : Bool := true                 -- PWR_ALERT_N
  deriving DecidableEq, Repr

structure State where
  pending : List Instr := []          -- commands that wait, first in, first out
  free : Nat := 0                     -- draws made of the free values (the model's own field)
  out : List Out := []                -- what the block has sent outward
  round : RoundSt := {}
  sump : SumpSt := {}
  reg : RegSt := {}
  pegs : Tbl Peg := []
  waits : List (Nat × Waiter) := []   -- registered waiters, by peg (R217)
  pegOps : List (Nat × PegOp) := []   -- operations on their way to a peg unit (R218)
  wakes : List (Nat × Waiter) := []   -- readiness on its way to a waiter (R218)
  cores : Tbl Core := []              -- by physical core; unlisted: a core in OFF
  ctx : Tbl Ctx := []                 -- by context; unlisted: FREE
  vci : VciSt := {}
  hl : HlSt := {}
  parts : Tbl Part := []              -- by partition; unlisted: FREE
  trc : Tbl TrcSt := []               -- by region
  hbm : Tbl Byte := []                -- HBM, by DPA; unlisted bytes are zero
  hbmBad : Tbl Bool := []             -- poisoned 64-byte halves, by DPA / 64 (R233)
  hctl : Tbl Hbm := []                -- HBM controllers, by stack
  slice : Tbl SLine := []             -- slices, by 524,288 × region + 16 × set + way
  useNo : Nat := 0                    -- recency count of the slices
  tokens : Tbl Nat := []              -- buckets of R250: 18 × region + 2 × class, + 1 for the HBM bucket
  short : List Nat := []              -- 9 × region + class of requests that wait for a token
  thr : Tbl Nat := []                 -- throttle level in force, by region (R254)
  coh : CohSt := {}
  xl : XlatSt := {}
  dc : DcSt := {}
  lists : Tbl CList := []             -- list tables, by 64 × engine + entry: 0 to 15 copy engines, 16 to 19 transmit paths
  nextList : Nat := 0
  lbytes : Tbl Nat := []              -- bytes below 64 KiB of WR, SILT_IN and SILT_OUT counts, by 4 × engine
  lodes : Tbl LodeSt := []
  fab : FabSt := {}
  due : List LogRec := []             -- records Heron is to write (R537)
  heron : HeronSt := {}
  rst : RstSt := {}
  sedge : SedgeSt := {}
  tap : TapSt := {}
  pins : PinSt := {}
  deriving DecidableEq, Repr

/-- The block right after reset. -/
def State.reset : State := {}

end Sys2Proof.Machine
end

