-- ==== Sys2Proof/Machine/Ops.lean ====
section
/-!
DEFINITION. The named operations every meaning is built from: registers and counters, free values, Round stamps,
outward messages, log records, trace records and fault messages.
-/
namespace Sys2Proof.Machine

/-- The outcome of a command that completes. -/
abbrev Res := Host.Outcome State Fault Refusal

def done (s : State) : Res := .next s

/-- A command takes effect only where its event can happen; elsewhere it is no event and nothing changes
(DESIGN CHOICE). -/
def when (c : Bool) (f : State → State) (s : State) : Res := .next (if c then f s else s)

/-! ### Registers and counters (R599, R603) -/

namespace State

/-- The stored value of the register at a BAR2 offset. -/
def cfg (s : State) (a : Nat) : Word := tget regReset s.reg.cfg a

/-- Bits [hi:lo] of a stored register. -/
def fld (s : State) (a hi lo : Nat) : Nat := bitsOf (s.cfg a).toNat hi lo

def bit (s : State) (a i : Nat) : Bool := bitOf (s.cfg a).toNat i

def setCfg (s : State) (a : Nat) (w : Word) : State :=
  { s with reg := { s.reg with cfg := tset regReset s.reg.cfg a w } }

end State

/-- A word with bits [hi:lo] replaced. -/
def putBits (w : Word) (hi lo v : Nat) : Word :=
  BitVec.ofNat 32 (w.toNat - bitsOf w.toNat hi lo * 2 ^ lo + v % 2 ^ (hi + 1 - lo) * 2 ^ lo)

namespace State

def setFld (s : State) (a hi lo v : Nat) : State := s.setCfg a (putBits (s.cfg a) hi lo v)

def setBit (s : State) (a i : Nat) (b : Bool) : State := s.setFld a i i (b2n b)

/-- A live counter, and its saturating increase (R603). -/
def ctr (s : State) (a : Nat) : Nat := (tget (fun _ => 0#32) s.reg.ctr a).toNat

def bumpBy (s : State) (a n : Nat) : State :=
  let v := BitVec.ofNat 32 (min (s.ctr a + n) 0xFFFFFFFF)
  { s with reg := { s.reg with ctr := tset (fun _ => 0#32) s.reg.ctr a v } }

def bump (s : State) (a : Nat) : State := s.bumpBy a 1

def bumpIf (s : State) (c : Bool) (a : Nat) : State := if c then s.bump a else s

/-! ### Free values and outward messages -/

/-- A free value below `n`: nothing constrains which. -/
def draw (s : State) (n : Nat) : Nat := Config.fresh s.free % n

def drawn (s : State) : State := { s with free := s.free + 1 }

/-- A message to the host, which wakes a link in L1 (R460). -/
def toHost : Out → Bool
  | .msi _ _ _ | .hostWrite _ _ | .cacheReq _ _ _ _ | .snpRsp _ _ | .flush _ _ | .memRsp _ _ _ _ | .confData _ _ | .hostRead _ _ _ => true
  | .readData p _ _ => p == .host
  | _ => false

def send (s : State) (o : Out) : State :=
  { s with out := s.out ++ [o], hl := if toHost o then { s.hl with l1 := false } else s.hl }

/-! ### Round stamps (R57, R54) -/

/-- Whether the Round counter runs: every state but OFF, and ACQUIRE before the first accepted mark. -/
def counting (s : State) : Bool := s.round.state != .off && s.round.run

/-- The Round now. -/
def rnd (s : State) : Nat := s.round.cnt.toNat

/-- An event at a later instant of the Round: the phase moves on by a free amount and never past the Round. -/
def tick (s : State) : State :=
  if s.counting then
    { s.drawn with round := { s.round with phase := s.round.phase + s.draw (1024 - s.round.phase) } }
  else s

/-- The stamp of the present instant: all zero while no Round runs. -/
def stamp (s : State) : Nat := if s.counting then s.rnd % 2 ^ 54 * 1024 + s.round.phase else 0

end State

/-! ### Log records (R537, R538) -/

/-- Queue a record for Heron to write, stamped now. -/
def State.logDue (s : State) (kind sev data : Nat) : State :=
  let s := s.tick
  { s with due := s.due ++ [⟨kind, sev, s.stamp, data % 2 ^ 128⟩] }

/-! ### Sources and fault messages (R554 to R560) -/

def srcEngine (core unit : Nat) : Nat := core / 26 * 2048 + core % 26 * 64 + unit
def srcCore (core unit : Nat) : Nat := 2 ^ 14 + core / 26 * 2048 + core % 26 * 64 + unit
def srcRegion (r unit : Nat) : Nat := 2 ^ 15 + r * 2048 + unit
def srcDevice (unit : Nat) : Nat := 3 * 2 ^ 14 + 7 * 2048 + unit

/-- The raised class of a kind (R558); 0 for a kind that is never reported. -/
def kindClass (k : Nat) : Nat :=
  if k ∈ [0x104, 0x301, 0x506, 0x603, 0x703, 0x704] then 3
  else if k ∈ [0x010, 0x013, 0x100, 0x103, 0x110, 0x120, 0x122, 0x202, 0x204, 0x300, 0x304, 0x401, 0x402, 0x500,
      0x502, 0x503, 0x504, 0x505, 0x600, 0x602, 0x604, 0x7F2, 0x7F4, 0x7F5] then 1
  else if k ∈ [0x001, 0x002, 0x011, 0x012, 0x014, 0x015, 0x016, 0x017, 0x101, 0x102, 0x105, 0x111, 0x112, 0x113,
      0x121, 0x200, 0x201, 0x203, 0x302, 0x303, 0x400, 0x403, 0x501, 0x601, 0x700, 0x701, 0x702, 0x7F0, 0x7F1,
      0x7F3, 0x7F6] then 2
  else 0

/-- The four words of a fault message, as one 128-bit number (R556). -/
def FaultMsg.bits (m : FaultMsg) : Nat :=
  m.src * 2 ^ 112 + m.kind * 2 ^ 100 + m.cls * 2 ^ 98 + m.raised * 2 ^ 96 + b2n m.forced * 2 ^ 95
    + (match m.ctx with | some c => 2 ^ 94 + c * 2 ^ 88 | none => 0)
    + m.atype * 2 ^ 85 + b2n m.mult * 2 ^ 84 + m.addr % 2 ^ 52 * 2 ^ 32 + m.syn % 2 ^ 32

/-- Whether a source belongs to a core that is isolated: it reports nothing further (R571). -/
def State.mutedSrc (s : State) (src : Nat) : Bool :=
  decide (src / 2 ^ 14 < 2) &&
    (tget (fun _ => ({} : Core)) s.cores (26 * (src / 2048 % 8) + src / 64 % 32)).isolated

/-- A source raises a fault (R553): the message sets out, and a kind of class 11 also drives its fatal line. In the
fatal state the line changes nothing more (R566). -/
def State.report (s : State) (m : FaultMsg) : State :=
  if s.mutedSrc m.src then s
  else if m.raised = 3 then
    { s with sump := { s.sump with flight := s.sump.flight ++ [m], lines := s.sump.lines ++ [m] } }
  else { s with sump := { s.sump with flight := s.sump.flight ++ [m] } }

/-- Raise a kind at its class with its context, address and detector data. -/
def State.raise (s : State) (src kind : Nat) (ctx : Option Nat := none) (atype addr syn : Nat := 0) : State :=
  s.report ⟨src, kind, kindClass kind, kindClass kind, false, ctx, atype, false, addr, syn⟩

/-- Raise a kind of an array with check bits (R557): its check-bit syndrome is free; `lane` is its bank, channel, way or
lane. -/
def State.raiseEcc (s : State) (src kind : Nat) (ctx : Option Nat) (atype addr lane : Nat) : State :=
  s.drawn.raise src kind ctx atype addr (s.draw 256 + 256 * (lane % 256))

/-! ### Trace records (R633 to R637) -/

def TrcSt.fill (t : TrcSt) (rd : Nat) : Nat := (t.wr + 16384 - rd) % 16384

/-- Store one record where there is room; in WRAP mode a full buffer gives up its oldest entry. -/
def State.trcPut (s : State) (r : Nat) (w : QWord) : State :=
  let t := tget (fun _ => {}) s.trc r
  let rd := s.fld (Reg.TRC_RD r) 13 0
  let full := decide (t.fill rd = 16383)
  let s := if full then s.setFld (Reg.TRC_RD r) 13 0 ((rd + 1) % 16384) else s
  let t := { t with buf := tput t.wr w t.buf, wr := (t.wr + 1) % 16384, wrapped := t.wrapped || full }
  { (s.bump (Reg.TRC_REC_CNT r)) with trc := tput r t s.trc }

/-- The record of R633 as 128 bits. -/
def trcRec (stamp ty core eng data : Nat) : QWord :=
  BitVec.ofNat 128 (stamp * 2 ^ 64 + ty * 2 ^ 56 + core * 2 ^ 51 + eng * 2 ^ 48 + data % 2 ^ 48)

/-- A record meets the buffer (R637): in STOP mode a record that does not fit is dropped and counted; the record
stored after drops follows one LOST record. -/
def State.trcStore (s : State) (r ty core eng data : Nat) : State :=
  let s := s.tick
  let t := tget (fun _ => {}) s.trc r
  let room := 16383 - t.fill (s.fld (Reg.TRC_RD r) 13 0)
  let need := if t.lost = 0 then 1 else 2
  if s.bit (Reg.TRC_CTL r) 30 && decide (room < need) then
    let t := { t with lost := t.lost + 1, lostAt := if t.lost = 0 then s.stamp % 65536 else t.lostAt }
    { (s.bump (Reg.TRC_LOST_CNT r)) with trc := tput r t s.trc }
  else
    let s := if t.lost = 0 then s
      else
        let s := s.trcPut r (trcRec s.stamp 9 31 0 (min t.lost 0xFFFFFFFF + t.lostAt * 2 ^ 32))
        { s with trc := tput r { (tget (fun _ => {}) s.trc r) with lost := 0, lostAt := 0 } s.trc }
    s.trcPut r (trcRec s.stamp ty core eng data)

/-- A core's trace port emits while ENABLE and its CORE_EN bit are 1 (R634). -/
def State.trcCore (s : State) (core ty eng data : Nat) : State :=
  if s.bit (Reg.TRC_CTL (core / 26)) 31 && s.bit (Reg.TRC_CTL (core / 26)) (core % 26) then
    s.trcStore (core / 26) ty (core % 26) eng data
  else s

/-- A sleep or wake marker, while ENABLE is 1 (R635). -/
def State.trcMark (s : State) (core : Nat) (sleep : Bool) (p : Pwr) : State :=
  if s.bit (Reg.TRC_CTL (core / 26)) 31 then
    (s.trcStore (core / 26) (if sleep then 5 else 6) (core % 26) 0 p.code).bump
      (if sleep then Reg.TRC_SLEEP_CNT (core / 26) else Reg.TRC_WAKE_CNT (core / 26))
  else s

/-! ### Cores, contexts and pegs as table entries -/

def State.core (s : State) (c : Nat) : Core := tget (fun _ => {}) s.cores c

def State.setCore (s : State) (c : Nat) (k : Core) : State := { s with cores := tset (fun _ => {}) s.cores c k }

def State.modCore (s : State) (c : Nat) (f : Core → Core) : State := s.setCore c (f (s.core c))

def State.context (s : State) (c : Nat) : Ctx := tget (fun _ => {}) s.ctx c

def State.setCtx (s : State) (c : Nat) (x : Ctx) : State := { s with ctx := tset (fun _ => {}) s.ctx c x }

def State.modCtx (s : State) (c : Nat) (f : Ctx → Ctx) : State := s.setCtx c (f (s.context c))

def State.peg (s : State) (p : Nat) : Peg := tget (fun _ => {}) s.pegs p

def State.setPeg (s : State) (p : Nat) (v : Peg) : State := { s with pegs := tset (fun _ => {}) s.pegs p v }

/-- The physical core a logical core is bound to (R17). -/
def State.coreOf (s : State) (l : Nat) : Option Nat := (List.range 104).find? (fun c => (s.core c).lcore = some l)

/-- The physical cores that run a context's hand, in logical-core order. -/
def State.coresOf (s : State) (x : Nat) : List Nat :=
  (List.range 96).filterMap (fun l => match s.coreOf l with
    | some c => if (s.core c).ctx = some x then some c else none
    | none => none)

/-- A logical core is withdrawn when no physical core is bound to it (R18). -/
def State.withdrawn (s : State) (l : Nat) : Bool := (s.coreOf l).isNone

/-- Remove a waiter wherever it stands: registered, on its way to register, or with readiness on its way to it. -/
def State.unwait (s : State) (w : Waiter) : State :=
  { s with
    waits := s.waits.filter (fun e => decide (e.2 ≠ w))
    wakes := s.wakes.filter (fun e => decide (e.2 ≠ w))
    pegOps := s.pegOps.filter (fun e => decide (e.2 ≠ .wait w)) }

/-- An operation sets out for a peg's unit (R218). -/
def State.pegDo (s : State) (p : Nat) (op : PegOp) : State := { s with pegOps := s.pegOps ++ [(p, op)] }

/-! ### List tables -/

/-- The waiter of a list table's engine: a copy engine, or a region's transmit path. -/
def engWaiter (e : Nat) : Waiter := if e < 16 then .ce e else .fab (e - 16)

def State.list (s : State) (k : Nat) : Option CList := tfind s.lists k

def State.setList (s : State) (k : Nat) (l : CList) : State := { s with lists := tput k l s.lists }

/-- The lists of a context stop at their positions; a gated one gives up its registration (R366, R369). -/
def State.stopLists (s : State) (x : Nat) : State :=
  (s.lists.filter fun e => decide (e.2.ctx = x)).foldl (fun s e =>
    match e.2.st with
    | .running => s.setList e.1 { e.2 with st := .stopped }
    | .gated => (s.unwait (engWaiter (e.1 / 64))).setList e.1 { e.2 with st := .stopped }
    | _ => s) s

end Sys2Proof.Machine
end

