-- ==== Sys2Proof/Machine/HostMem.lean ====
section
/-!
DEFINITION. Traffic of Bittern toward the host: held writes and interrupt messages (R453, R459, R463).
-/
namespace Sys2Proof.Machine

namespace State

/-- A double word of the configuration space after a reset of it: the values R446 fixes, each at the place its
standard gives it in its capability (PRESUMED, the standards' layout). -/
def confReset (i : Nat) : Word :=
  match i with
  | 0x00 => 0x0A041F6B#32 | 0x01 => 0x00100000#32 | 0x02 => 0x12000000#32
  | 0x04 => 0x4#32 | 0x06 => 0x4#32 | 0x08 => 0x4#32 | 0x0D => 0x40#32
  | 0x10 => 0x00035001#32 | 0x11 => 0x8#32
  | 0x14 => 0x018A7005#32
  | 0x1C => 0x0002B010#32 | 0x1D => 0x00008002#32 | 0x1E => 0x00002810#32 | 0x1F => 0x00000800#32
  | 0x25 => 0x00030003#32
  | 0x2C => 0x07FF0011#32 | 0x2D => 0x00010004#32 | 0x2E => 0x00018004#32
  | 0x40 => 0x14010001#32
  | 0x43 => 0x00462030#32 | 0x45 => 0x0000E000#32
  | 0x50 => 0x18010023#32 | 0x51 => 0x03C01E98#32 | 0x52 => 0x40170000#32 | 0x53 => 0x2#32
  | 0x56 => 0x60#32 | 0x57 => 0x3#32
  | 0x60 => 0x1C010023#32 | 0x70 => 0x20010023#32 | 0x80 => 0x2401002E#32 | 0x90 => 0x2E010030#32
  | 0xB8 => 0x00010003#32
  | _ => 0#32

def confWord (s : State) (i : Nat) : Word := tget confReset s.hl.conf i

/-! The controls of the configuration space that the block acts on. -/

def busMaster (s : State) : Bool := bitOf (s.confWord 0x01).toNat 2
def cacheEnable (s : State) : Bool := bitOf (s.confWord 0x53).toNat 0
def viralEnable (s : State) : Bool := bitOf (s.confWord 0x53).toNat 14
def aspmL1 (s : State) : Bool := bitOf (s.confWord 0x20).toNat 1
def inD3 (s : State) : Bool := decide (bitsOf (s.confWord 0x11).toNat 1 0 = 3)
def msixEnable (s : State) : Bool := bitOf (s.confWord 0x2C).toNat 31
def msixMaskAll (s : State) : Bool := bitOf (s.confWord 0x2C).toNat 30
def msiEnable (s : State) : Bool := bitOf (s.confWord 0x14).toNat 16
def msiGranted (s : State) : Nat := 2 ^ min 5 (bitsOf (s.confWord 0x14).toNat 22 20)

/-- Reset values of the MSI-X table: every vector is masked. -/
def msixReset (i : Nat) : Word := if i % 4 = 3 then 1#32 else 0#32

/-- MSI-X table words of vector v: address, data, mask bit (1 at reset). -/
def msixAddr (s : State) (v : Nat) : Nat :=
  (tget msixReset s.hl.msix (4 * v)).toNat + (tget msixReset s.hl.msix (4 * v + 1)).toNat * 2 ^ 32
def msixData (s : State) (v : Nat) : Nat := (tget msixReset s.hl.msix (4 * v + 2)).toNat
def msixMasked (s : State) (v : Nat) : Bool := bitOf (tget msixReset s.hl.msix (4 * v + 3)).toNat 0

def msiMasked (s : State) (v : Nat) : Bool := bitOf (s.confWord 0x18).toNat (v % s.msiGranted)

/-- Whether a message may be sent for a vector, and whether its mask holds it (R459). -/
def irqEnabled (s : State) : Bool := s.msixEnable || s.msiEnable
def irqMasked (s : State) (v : Nat) : Bool :=
  if s.msixEnable then s.msixMasked v || s.msixMaskAll else s.msiMasked v

/-- The message of a vector leaves: MSI-X entry v, or MSI message v mod 2^k (R459). -/
def sendMsi (s : State) (v : Nat) : State :=
  let o := if s.msixEnable then Out.msi v (s.msixAddr v) (s.msixData v)
    else Out.msi v ((s.confWord 0x15).toNat + (s.confWord 0x16).toNat * 2 ^ 32)
      ((s.confWord 0x17).toNat / s.msiGranted * s.msiGranted + v % s.msiGranted)
  (s.send o).bump Reg.HL_MSG_CNT

/-- Traffic toward the host as it leaves. -/
def deliver (s : State) : HostWr → State
  | .write a bs => s.send (.hostWrite a bs)
  | .msi v => s.sendMsi v
  | .req op line off bs => s.send (.cacheReq op line off bs)
  | .read t a n => s.send (.hostRead t a n)

/-- Traffic toward the host: delivered while ATTACHED, held in HOLD, and not made in DETACHED (R463). -/
def hostWrite (s : State) (w : HostWr) : State :=
  match s.hl.attach with
  | .attached => s.deliver w
  | .hold => { s with hl := { s.hl with held := s.hl.held ++ [w] } }
  | .detached => s

/-- A CXL.cache request. -/
def cacheReq (s : State) (op line off : Nat) (bs : List Byte) : State := s.hostWrite (.req op line off bs)

/-- Raise vector v (R459): its message, or its pending bit while it is masked or no message is enabled. -/
def irq (s : State) (v : Nat) : State :=
  if !s.irqEnabled || s.irqMasked v then
    (if v ∈ s.hl.pendIrq then s else { s with hl := { s.hl with pendIrq := s.hl.pendIrq ++ [v] } })
  else s.hostWrite (.msi v)

/-! ### HDM windows and bias (R286, R448, R450, R451) -/

/-- The committed windows in order: device-physical base, size, host base. -/
def windowsFrom (s : State) : Nat → Nat → Nat → List (Nat × Nat × Nat)
  | 0, _, _ => []
  | k + 1, n, db =>
    let d := tget (fun _ => ({} : Decoder)) s.hl.dec n
    if d.committed then (db + d.skip, d.size, d.base) :: windowsFrom s k (n + 1) (db + d.skip + d.size) else []

def windows (s : State) : List (Nat × Nat × Nat) := s.windowsFrom 8 0 0

/-- The HPA of a DPA, and the DPA of an HPA (R286). -/
def hpaOf (s : State) (dpa : Nat) : Option Nat :=
  (s.windows.find? fun w => decide (w.1 ≤ dpa) && decide (dpa < w.1 + w.2.1)).map fun w => dpa - w.1 + w.2.2

def dpaOf (s : State) (hpa : Nat) : Option Nat :=
  (s.windows.find? fun w => decide (w.2.2 ≤ hpa) && decide (hpa < w.2.2 + w.2.1)).map fun w => hpa - w.2.2 + w.1

end State

/-- The granule of a 128-byte HBM line (R450). -/
def granuleOf (line : Nat) : Nat := 24576 * (line / 2 ^ 29) + line % 2 ^ 29 / 16384

/-- The first line of a granule. -/
def granuleLine (g : Nat) : Nat := g / 24576 * 2 ^ 29 + g % 24576 * 16384

namespace State

def granuleHost (s : State) (g : Nat) : Bool := s.bit (Reg.HL_BIAS (g / 32)) (g % 32)

/-- Whether a line's granule is in HOST bias. -/
def hostBias (s : State) (line : Nat) : Bool := s.granuleHost (granuleOf line)

/-- Whether the home holds the block's requests to a line: its bias is changing, or it needs the host and the link is
held or away (R452, R463). -/
def biasStuck (s : State) (line : Nat) : Bool :=
  (match s.hl.bias with
    | some b => decide (b.first ≤ granuleOf line) && decide (granuleOf line < b.first + b.count)
    | none => false)
  || (s.hostBias line && s.hl.attach != .attached)

/-- In HOST bias the home asks the host for both halves of the line before it serves the block: RdCurr for a read,
CLFlush for a write or an atomic (R451). What the host holds modified it writes back by requests of its own. -/
def biasAsk (s : State) (line : Nat) (write : Bool) : State :=
  if !s.hostBias line then s
  else
    match s.hpaOf (128 * line) with
    | none => s
    | some h =>
      let op := if write then 5 else 0
      (s.send (.cacheReq op (h / 64) 0 [])).send (.cacheReq op (h / 64 + 1) 0 [])

end State

end Sys2Proof.Machine
end

