-- ==== Sys2Proof/Machine/Vci.lean ====
section
/-!
DEFINITION. Bittern's commands as records: slots, the checks of R477, completion records, events, and the suspension
of a context (R472 to R499).
-/
namespace Sys2Proof.Machine

/-! ### Slots (R476) -/

/-- `n` bytes of a slot from offset `off`, as a number. -/
def Cmd.at (c : Cmd) (off n : Nat) : Nat := ofLe ((c.bytes.drop off).take n)

/-- A parameter: `n` bytes at `off` of the parameter area. -/
def Cmd.par (c : Cmd) (off n : Nat) : Nat := c.at (0x10 + off) n

def Cmd.opcode (c : Cmd) : Nat := c.at 0 2
def Cmd.barrier (c : Cmd) : Bool := bitOf (c.at 2 1) 0
def Cmd.tag (c : Cmd) : Nat := c.at 4 4
def Cmd.ctx (c : Cmd) : Nat := c.at 8 2
/-- The partition a command acts for: its ring's, or the one an admin command names. -/
def Cmd.part (c : Cmd) : Nat := if c.cls = 15 then c.at 10 2 else c.cls

/-! ### Completion records (R474, R478) -/

/-- The 32 bytes of a record. -/
def Rec.bytes (r : Rec) (phase : Bool) : List Byte :=
  leBytes 4 r.tag ++ leBytes 2 r.opcode ++ leBytes 1 r.status ++ leBytes 1 (b2n phase + 2 * b2n r.orphan)
    ++ leBytes 2 r.sq ++ leBytes 2 r.head ++ leBytes 2 r.detail ++ leBytes 2 r.flags ++ leBytes 8 r.r0 ++ leBytes 8 r.r1

namespace State

def sqAt (s : State) (q : Nat) : Option Sq := tfind s.vci.sq q
def cqAt (s : State) (c : Nat) : Option Cq := tfind s.vci.cq c

def setSq (s : State) (q : Nat) (r : Sq) : State := { s with vci := { s.vci with sq := tput q r s.vci.sq } }
def setCq (s : State) (c : Nat) (r : Cq) : State := { s with vci := { s.vci with cq := tput c r s.vci.cq } }

end State

/-- Entries written and not yet consumed. -/
def Cq.used (c : Cq) : Nat := (c.tail + 2 ^ c.log2 - c.head) % 2 ^ c.log2

/-- Whether the ring has room for one more entry beside its reservations (R474). -/
def Cq.room (c : Cq) : Bool := decide (c.used + c.reserved < 2 ^ c.log2 - 1)

namespace State

/-- Write a record at the tail of a completion ring, and raise its vector. -/
def postRec (s : State) (c : Nat) (r : Rec) : State :=
  match s.cqAt c with
  | none => s
  | some q =>
    let s := s.hostWrite (.write (q.base + 32 * q.tail) (r.bytes q.phase))
    let t := (q.tail + 1) % 2 ^ q.log2
    let s := s.setCq c { q with tail := t, phase := if t = 0 then !q.phase else q.phase }
    if q.vec = 0 then s else s.irq q.vec

/-- The EVENT ring of a class. -/
def eventRing (s : State) (cls : Nat) : Option Nat :=
  (s.vci.cq.find? (fun e => e.2.event && decide (e.2.cls = cls))).map (·.1)

/-- Post a record to an EVENT ring, or hold it there, or drop and count it (R474). -/
def postEventRec (s : State) (c : Nat) (r : Rec) : State :=
  match s.cqAt c with
  | none => s
  | some q =>
    let ev := decide (r.opcode = 0xFFFF)
    let r := if ev then { r with tag := q.seqNo } else r
    let n := (q.seqNo + b2n ev) % 2 ^ 32
    if q.waiting.isEmpty && q.lost == 0 && q.room then (s.setCq c { q with seqNo := n }).postRec c r
    else if q.waiting.length < 256 && q.lost == 0 then
      s.setCq c { q with waiting := q.waiting ++ [r], seqNo := n }
    else s.setCq c { q with lost := q.lost + 1 }

/-- Move held events into a ring that has room; an OVERFLOW event follows them (R474). -/
def flushEvents (c : Nat) : Nat → State → State
  | 0, s => s
  | n + 1, s =>
    match s.cqAt c with
    | none => s
    | some q =>
      if !q.room then s
      else
        match q.waiting with
        | r :: rs => flushEvents c n ((s.setCq c { q with waiting := rs }).postRec c r)
        | [] =>
          if q.lost = 0 then s
          else (s.setCq c { q with lost := 0, seqNo := q.seqNo + 1 }).postRec c
            { tag := q.seqNo, opcode := 0xFFFF, status := 9, sq := 0xFFFF, r0 := q.lost }

/-- Post an event to the EVENT ring of a class (R496); without a ring the event has nowhere to go. -/
def event (s : State) (cls kind : Nat) (detail r0 r1 : Nat := 0) : State :=
  match s.eventRing cls with
  | none => s
  | some c => s.postEventRec c { tag := 0, opcode := 0xFFFF, status := kind, sq := 0xFFFF, detail := detail, r0 := r0, r1 := r1 }

/-- Write the record of a command: to the mailbox, to its ring's completion ring, or hold it while the ring does not
exist (R471, R498). The mailbox has no passes, and PHASE is a free value there. -/
def writeRec (s : State) (c : Cmd) (r : Rec) : State :=
  if c.src.sq = 0xFFFF then
    let m := tsets (fun _ => 0#32) s.vci.mcpl 0
      ((List.range 8).map fun w => BitVec.ofNat 32 (ofLe (((r.bytes (decide (s.draw 2 = 1))).drop (4 * w)).take 4)))
    { s with vci := { s.vci with mcpl := m, mdone := true, mbusy := false } }.drawn
  else
    match (s.sqAt c.src.sq).filter fun q => decide (q.since ≤ c.id) with
    | none =>
      let r := { r with orphan := true }
      match s.eventRing c.cls with
      | some e => s.postEventRec e r
      | none => { s with vci := { s.vci with orphans := s.vci.orphans ++ [(c.cls, r)] } }
    | some q =>
      match s.cqAt q.cq with
      | none => s
      | some k => (s.setCq q.cq { k with reserved := k.reserved - 1 }).postRec q.cq r

end State

/-- The record of a command with a status and its results. -/
def Cmd.record (c : Cmd) (status detail flags r0 r1 : Nat) : Rec :=
  { tag := c.tag, opcode := c.opcode, status := status, sq := c.src.sq, head := c.head, detail := detail,
    flags := flags, r0 := r0, r1 := r1 }

namespace State

def dropCmd (s : State) (c : Cmd) : State :=
  { s with vci := { s.vci with cmds := s.vci.cmds.filter (fun d => decide (d.id ≠ c.id)) } }

/-- Whether a ring still has a started command that is incomplete. -/
def ringBusy (s : State) (q : Nat) : Bool :=
  match tfind s.vci.sq q with
  | some r => s.vci.cmds.any fun d => decide (d.src.sq = q) && decide (r.since ≤ d.id) && decide (r.closing.map (·.id) ≠ some d.id)
  | none => false

end State

/-! ### The checks of R477 -/

/-- What a command code allows: rings A, P and the mailbox; whether it names a context, and a partition on an admin
ring; `live`: the context named must be neither FREE nor DESTROYING. -/
structure OpInfo where
  part : Bool
  mbox : Bool
  ctx : Bool
  pfield : Bool
  live : Bool := true
  deriving DecidableEq, Repr

/-- The catalogue of R480. CTX_CREATE on an admin ring names its partition in PART (DEDUCED). -/
def opInfo : Nat → Option OpInfo
  | 0x0000 => some ⟨true, true, false, false, true⟩
  | 0x0001 => some ⟨true, true, false, false, true⟩
  | 0x0002 | 0x0003 | 0x0004 | 0x0005 | 0x0006 => some ⟨false, true, false, false, true⟩
  | 0x0007 | 0x0008 | 0x0009 | 0x000A | 0x000B => some ⟨false, false, false, false, true⟩
  | 0x0100 | 0x0101 | 0x0102 => some ⟨false, false, false, false, true⟩
  | 0x0200 => some ⟨true, false, true, true, false⟩
  | 0x0201 | 0x0202 | 0x0203 | 0x0204 | 0x0205 | 0x0206 | 0x0207 | 0x0208 | 0x0209 | 0x020A | 0x020B =>
    some ⟨true, false, true, false, true⟩
  | 0x020C => some ⟨true, false, true, false, true⟩
  | 0x0300 | 0x0301 | 0x0304 | 0x0502 => some ⟨true, false, true, true, true⟩
  | 0x0302 | 0x0400 | 0x0401 | 0x0402 | 0x0403 | 0x0500 | 0x0501 | 0x0503 | 0x0504 | 0x0505 =>
    some ⟨true, false, false, true, true⟩
  | 0x0303 => some ⟨true, false, false, true, true⟩
  | _ => none

/-- What a command allows: a QUERY of a list names no context (R492). -/
def Cmd.info (c : Cmd) : Option OpInfo :=
  if c.opcode = 0x020C ∧ c.par 0 1 = 1 then some ⟨true, false, false, false, true⟩ else opInfo c.opcode

/-- The slot bytes a command uses beyond the header: (offset, size, mask of the bits used in each byte), with the
highest value a byte-wide code may take (0xFF: any). -/
structure Used where
  off : Nat
  size : Nat
  mask : Nat := 0xFF
  top : Nat := 0xFF
  deriving DecidableEq, Repr

/-- The partition record's fields (R505, R506), or those that apply to class 8 (R507). -/
def recordUsed (host : Bool) : List Used :=
  let f (o n : Nat) : Used := { off := 0x40 + o, size := n }
  let b (o m : Nat) : Used := { off := 0x40 + o, size := 1, mask := m }
  (if host then [f 0x14 2, b 0x16 1] else [f 0 15, b 0x0F 1, f 0x10 6, b 0x16 1, f 0x18 24])
    ++ (List.range 4).flatMap fun r =>
      let o := 0x40 + 32 * r
      [f o 3, b (o + 3) 3] ++ (if host then [f (o + 4) 8] else [f (o + 4) 15, f (o + 0x14) 2])

/-- Parameters as R480 lists them; a parameter that a code of the command leaves without meaning is not used. -/
def usedBytes (c : Cmd) : List Used :=
  let p (o n : Nat) : Used := { off := 0x10 + o, size := n }
  match c.opcode with
  | 0x0001 => [p 0 8]
  | 0x0002 => [p 0 8, { off := 0x18, size := 1, mask := 3 }]
  | 0x0004 => [p 0 2, { off := 0x12, size := 1, top := 2 }, p 3 1, p 4 1, p 6 2, p 8 8]
  | 0x0005 => [p 0 2, { off := 0x12, size := 1, top := 2 }]
  | 0x0006 => [p 0 2, p 2 2, { off := 0x14, size := 1, mask := 1 }]
  | 0x0007 => [p 0 4, p 4 1]
  | 0x0008 =>
    [{ off := 0x10, size := 1, top := if c.par 1 1 < 2 then 3 else 0 }, { off := 0x11, size := 1, top := 3 }]
      ++ (if c.par 1 1 = 1 then [p 2 2, p 4 2, p 6 2] else [])
      ++ (if c.par 1 1 = 0 then [p 8 8] else [])
  | 0x0009 => [p 0 4, p 4 4, { off := 0x18, size := 1, mask := 1 }]
  | 0x000A =>
    [p 0 1, { off := 0x11, size := 1, top := 3 }]
      ++ (if c.par 1 1 = 3 then [{ off := 0x12, size := 1, mask := 0x36 }] else [])
  | 0x000B => [p 0 8, { off := 0x18, size := 1, top := 1 }]
  | 0x0100 | 0x0101 => p 0 1 :: recordUsed (decide (c.opcode = 0x0101 ∧ c.par 0 1 = 8))
  | 0x0102 => [p 0 1]
  | 0x0200 => [p 0 48]
  | 0x0202 => [p 0 1, p 0x10 16]
  | 0x0203 => [p 0 1]
  | 0x0204 =>
    [{ off := 0x10, size := 1, top := 2 }] ++ (if c.par 0 1 = 1 then [p 1 1] else [])
      ++ (if c.par 0 1 = 2 then [p 8 8, p 0x10 8] else [])
  | 0x0205 => [{ off := 0x10, size := 1, mask := 0xF }, p 8 8, p 0x10 8]
  | 0x0206 => [p 0 1, { off := 0x11, size := 1, top := 2 }, { off := 0x12, size := 1, mask := 1 }]
  | 0x0207 => [p 0 8, p 8 8, { off := 0x40, size := 4, mask := 0x83 }]
  | 0x0208 =>
    [p 0 8, { off := 0x18, size := 1, mask := if bitOf (c.par 8 1) 1 && !bitOf (c.par 8 1) 0 then 1 else 3 }]
      ++ (if bitOf (c.par 8 1) 1 then [p 0xA 2] else [])
  | 0x020C => [{ off := 0x10, size := 1, top := 1 }] ++ (if c.par 0 1 = 1 then [p 2 2, p 4 2] else [])
  | 0x0300 | 0x0304 =>
    [{ off := 0x10, size := 1, mask := if c.opcode = 0x0300 then 0x0F else 0xFF }, { off := 0x11, size := 1, top := 1 }, p 2 2]
      ++ (if c.par 1 1 = 0 then [p 8 8] else [{ off := 0x40, size := min 192 (32 * (c.par 2 2 + 1)) }])
  | 0x0301 =>
    [{ off := 0x10, size := 1, mask := 0x0F }, p 1 1, { off := 0x14, size := 1, mask := 1 }, p 8 8,
      { off := 0x40, size := min 192 (c.par 1 1 + 1) }] ++ (if bitOf (c.par 4 1) 0 then [p 2 2] else [])
  | 0x0302 => [p 0 2, p 2 2]
  | 0x0400 => [p 0 2, p 2 2]
  | 0x0401 => [p 0 2, p 4 4]
  | 0x0402 | 0x0403 | 0x0501 => [p 0 2]
  | 0x0500 => [p 0 2, p 2 2, p 4 4, p 8 1, p 9 1, p 0xA 2, p 0xC 2]
  | 0x0502 => [{ off := 0x10, size := 1, mask := 7 }, p 1 1, p 2 1, { off := 0x13, size := 1, mask := 3 }, p 8 8, p 0x10 8]
  | 0x0503 => [p 0 4]
  | 0x0504 => [p 0 1, p 2 2, p 4 2, p 8 8, p 0x10 4]
  | 0x0505 => [p 0 1]
  | _ => []

/-- The bits of slot byte `i` that carry meaning. -/
def byteMask (c : Cmd) (o : OpInfo) (i : Nat) : Nat × Nat :=
  if i < 2 then (0xFF, 0xFF)
  else if i = 2 then (1, 0xFF)
  else if 4 ≤ i ∧ i < 8 then (0xFF, 0xFF)
  else if (i = 8 ∨ i = 9) ∧ o.ctx then (0xFF, 0xFF)
  else if (i = 10 ∨ i = 11) ∧ o.pfield ∧ c.cls = 15 then (0xFF, 0xFF)
  else
    match (usedBytes c).find? (fun u => decide (u.off ≤ i) && decide (i < u.off + u.size)) with
    | some u => (u.mask, u.top)
    | none => (0, 0)

/-- The first slot byte that holds a reserved bit or value, if any (R477 check 3). -/
def firstReserved (c : Cmd) (o : OpInfo) : Option Nat :=
  (List.range 256).find? fun i =>
    let b := c.at i 1
    let m := byteMask c o i
    decide (b &&& (0xFF - m.1) ≠ 0) || decide (m.2 < b) || decide (i = 0x10 ∧ b = 0 ∧ c.opcode = 8 ∧ c.par 1 1 < 2)

namespace State

def partActive (s : State) (p : Nat) : Bool :=
  decide (p < 8) && decide ((tget (fun _ => ({} : Part)) s.parts p).state = .active)

/-- The placement privilege of a partition (R505). -/
def mayPlace (s : State) (p : Nat) : Bool := s.bit (Reg.PART_STS p) 29

/-- Checks 1 to 4 of R477: the status and detail of the first that fails. The context of a partition's command must
be of that partition; of an admin command that names a partition, of that one. -/
def precheck (s : State) (c : Cmd) : Option (Nat × Nat) :=
  match c.info with
  | none => some (1, 0)
  | some o =>
    if (c.src.sq = 0xFFFF ∧ !o.mbox) ∨ (c.src.sq ≠ 0xFFFF ∧ c.cls ≠ 15 ∧ !o.part) then some (3, 0)
    else if c.opcode = 0x0504 ∧ s.partActive c.part ∧ !s.mayPlace c.part then some (3, 0)
    else
      match firstReserved c o with
      | some i => some (2, i)
      | none =>
        if o.pfield ∧ !s.partActive c.part then some (4, 0)
        else if o.ctx ∧ (o.live ∨ c.ctx ≥ 64) then
          let x := s.context c.ctx
          if c.ctx ≥ 64 ∨ x.state = .free ∨ x.state = .destroying ∨ x.destroy.isSome then some (5, 0)
          else if (c.cls ≠ 15 ∨ o.pfield) ∧ x.part ≠ c.part then some (5, 0)
          else none
        else none

/-- Write the record of a command that is not, or no longer, among the started ones. -/
def finish (s : State) (c : Cmd) (status : Nat) (detail flags r0 r1 : Nat := 0) : State :=
  s.writeRec c (c.record status detail flags r0 r1)

/-- Start a fetched command: a failed check ends it at once, otherwise it joins the started commands. -/
def startCmd (s : State) (c : Cmd) : State :=
  match s.precheck c with
  | some (st, d) => s.finish c st d
  | none => { s with vci := { s.vci with cmds := s.vci.cmds ++ [c] } }

/-- After a completion: a BARRIER that waits may start, and a ring that drains may go (R493, R495). -/
def ringIdle (s : State) (q : Nat) : State :=
  match s.sqAt q with
  | none => s
  | some r =>
    if s.ringBusy q then s
    else
      match r.barrier, r.closing with
      | some b, _ => (s.setSq q { r with barrier := none }).startCmd b
      | none, some d =>
        if s.hl.reads.any fun e => decide (e.sq = q) then s
        else
          let s := match s.cqAt r.cq with
            | some k => if d.src.sq = q then s.setCq r.cq { k with reserved := k.reserved - 1 } else s
            | none => s
          (({ s with vci := { s.vci with sq := tdel q s.vci.sq } }).dropCmd d).finish d 0
      | none, none => s

/-- Complete a started command (R480): its record is written and it is forgotten. -/
def complete (s : State) (c : Cmd) (status : Nat) (detail flags r0 r1 : Nat := 0) : State :=
  ((s.dropCmd c).finish c status detail flags r0 r1).ringIdle c.src.sq

/-- Mark a started command as running in the background. -/
def running (s : State) (c : Cmd) : State :=
  let f (d : Cmd) : Cmd := if d.id = c.id then { d with ran := true } else d
  { s with vci := { s.vci with cmds := s.vci.cmds.map f } }

/-- Bittern serves commands: it is up and one of its four cores runs (R23). -/
def bitternUp (s : State) : Bool := s.vci.up && decide (s.vci.dead.length < 4)

/-- Run a started command that has not run yet and carries one of the named codes; otherwise no event. -/
def withCmd (s : State) (src : CmdSrc) (op : Nat) (f : Cmd → State → State) : State :=
  match s.vci.cmds.find? (fun c => decide (c.src = src) && decide (c.opcode = op) && !c.ran) with
  | some c => if s.bitternUp && !s.sump.fatal then f c s else s
  | none => s

/-! ### Peg names (R213) -/

/-- The device peg of a partition-relative index. -/
def pegOfPart (s : State) (p j : Nat) : Option Nat :=
  if j < s.fld (Reg.PEG_PART 0 p) 31 16 then some (s.fld (Reg.PEG_PART 0 p) 14 0 + j) else none

/-- The device peg of an index relative to a context's window. -/
def pegOfCtx (s : State) (x i : Nat) : Option Nat :=
  if i < s.fld (Reg.PEG_CTX 0 x) 31 16 then
    some (s.fld (Reg.PEG_PART 0 (s.context x).part) 14 0 + s.fld (Reg.PEG_CTX 0 x) 14 0 + i)
  else none

/-! ### Suspension (R491) -/

/-- Ask a sequencer to stop at its next boundary. -/
def stopCore (s : State) (why : Stop) (c : Nat) : State :=
  s.modCore c fun k =>
    if k.seq = .run ∨ k.seq = .wait ∨ k.seq = .fault then
      { k with stop := some why, seq := if k.seq = .fault then .suspended else .draining }
    else k

/-- Suspend a context in place: its sequencers and its lists stop, the cause is kept, and the first cause is reported. In a
context without a started hand the lists stop and the cause is reported, and no cause is kept (DEDUCED). -/
def suspend (s : State) (x : Nat) (c : Cause) (r0 r1 : Nat := 0) : State :=
  let k := s.context x
  if k.state = .running then
    let s := s.setCtx x { k with state := .suspended, causes := [c] }
    let s := ((s.coresOf x).foldl (fun s i => s.stopCore .suspend i) s).stopLists x
    s.event k.part 1 c.code (x + r0) r1
  else if k.state = .suspended ∨ k.state = .preempting ∨ k.state = .preempted ∨ k.state = .resuming then
    let s := (s.setCtx x { k with causes := if c ∈ k.causes then k.causes else k.causes ++ [c] }).stopLists x
    if k.state ≠ .suspended ∧ k.causes.isEmpty then s.event k.part 1 c.code (x + r0) r1 else s
  else if k.state = .empty ∨ k.state = .loaded ∨ k.state = .armed then (s.stopLists x).event k.part 1 c.code (x + r0) r1
  else s

/-- Suspend every context of a list. -/
def suspendAll (s : State) (c : Cause) (xs : List Nat) : State := xs.foldl (fun s x => s.suspend x c) s

end State

end Sys2Proof.Machine
end

