-- ==== Sys2Proof/Machine/Pegs.lean ====
section
/-!
DEFINITION. Pegs: R208 to R223. Operations travel to the peg's unit, one fabric cycle applies those that reach it
together, and readiness travels back to the waiters.
-/
namespace Sys2Proof.Machine

/-- Readiness of a peg (R209). -/
def Peg.ready (p : Peg) : Bool := p.armed && !p.poison && decide (p.target ≤ p.count)

/-- The region a device peg lives in. -/
def pegRegion (p : Nat) : Nat := p / 8192

/-- Take the first `n` operations on their way to peg `p`: those of one fabric cycle, and what remains. -/
def pegTake (p : Nat) : Nat → List (Nat × PegOp) → List PegOp × List (Nat × PegOp)
  | 0, l => ([], l)
  | _, [] => ([], [])
  | n + 1, e :: l =>
    if e.1 = p then let r := pegTake p n l; (e.2 :: r.1, r.2) else let r := pegTake p (n + 1) l; (r.1, e :: r.2)

/-- The sum and the number of the signals of a cycle. -/
def pegSum : List PegOp → Nat × Nat
  | [] => (0, 0)
  | .signal a :: l => ((pegSum l).1 + a, (pegSum l).2 + 1)
  | _ :: l => pegSum l

/-- The arm that counts: the first of the source that comes first in the order of R212. -/
def pegArm : List PegOp → Option (Nat × Nat)
  | [] => none
  | .arm x o :: l =>
    match pegArm l with
    | some (y, p) => if p < o then some (y, p) else some (x, o)
    | none => some (x, o)
  | _ :: l => pegArm l

/-- The peg after the operations of one fabric cycle, in the order of R211: RESET, the signals as one sum, ARM. A
poisoned peg takes no signal (R222). -/
def Peg.after (p : Peg) (ops : List PegOp) : Peg :=
  let p := if PegOp.reset ∈ ops then {} else p
  let sum := pegSum ops
  let p := if p.poison ∨ sum.2 = 0 then p
    else { p with count := min (p.count + sum.1) 0xFFFFFFFF, sat := p.sat || decide (0xFFFFFFFF < p.count + sum.1) }
  match pegArm ops with
  | some (x, _) => { p with target := x, armed := true }
  | none => p

namespace State

/-- Register or remove the waiters of a cycle. -/
def pegWaits (p : Nat) : List PegOp → List (Nat × Waiter) → List (Nat × Waiter)
  | [], w => w
  | .wait x :: l, w => pegWaits p l (if (p, x) ∈ w then w else w ++ [(p, x)])
  | .unwait x :: l, w => pegWaits p l (w.filter (fun e => decide (e ≠ (p, x))))
  | _ :: l, w => pegWaits p l w

/-- An entry found in error (R222): a single-bit error is corrected and counted; an uncorrectable one poisons the
peg, and every context whose window holds it is suspended. -/
def pegError (s : State) (p : Nat) (double : Bool) : State :=
  let r := pegRegion p
  if !double then (s.bump (Reg.PEG_CE_CNT r)).raiseEcc (srcRegion r 12) 0x120 none 6 (p % 8192) 0
  else
    let s := s.setPeg p { (s.peg p) with poison := true }
    let s := (s.bump (Reg.PEG_UE_CNT r)).setCfg (Reg.PEG_ECC r) (BitVec.ofNat 32 (2 ^ 31 + p % 8192))
    let s := s.raiseEcc (srcRegion r 12) 0x121 none 6 (p % 8192) 0
    let holds (x : Nat) : Bool :=
      let b := s.fld (Reg.PEG_PART 0 (s.context x).part) 14 0 + s.fld (Reg.PEG_CTX 0 x) 14 0
      decide ((s.context x).state ≠ .free) && decide (b ≤ p) && decide (p < b + s.fld (Reg.PEG_CTX 0 x) 31 16)
    s.suspendAll .poison ((List.range 64).filter holds)

/-- One fabric cycle at a peg (R211): its operations in order, then readiness, which sets out for every waiter. -/
def pegCycle (s : State) (p : Nat) (ops : List PegOp) : State :=
  let r := pegRegion p
  let old := s.peg p
  let base : Peg := if PegOp.reset ∈ ops then {} else old
  let sum := pegSum ops
  let new := old.after ops
  let s := s.setPeg p new
  let s := if base.poison then s.bumpBy (Reg.PEG_POISON_SIG_CNT r) sum.2
    else
      let s := s.bumpBy (Reg.PEG_SIG_CNT r) sum.2
      if 0xFFFFFFFF < base.count + sum.1 then s.bumpBy (Reg.PEG_SAT_CNT r) sum.2 else s
  let w := pegWaits p ops s.waits
  if new.ready then
    let out := w.filter (fun e => decide (e.1 = p))
    let s := s.bumpBy (Reg.PEG_WAKE_CNT r) out.length
    { s with waits := w.filter (fun e => decide (e.1 ≠ p)), wakes := s.wakes ++ out }
  else { s with waits := w }

/-- Registered waiters of a peg, saturating at 255 (R208). -/
def waiters (s : State) (p : Nat) : Nat := min 255 (s.waits.filter (fun e => decide (e.1 = p))).length

end State

/-- PEG_OPERATIONS: the first `n` operations on their way to the peg reach it in one fabric cycle. An error found in
the entry is met first, on this access (R222). -/
def execPegOperations (peg : Fin 32768) (n : Nat) (err : Option Bool) (s : State) : Res :=
  let t := pegTake peg n s.pegOps
  when (!t.1.isEmpty) (fun s =>
    let s := match err with
      | some d => s.pegError peg d
      | none => s
    { s with pegOps := t.2 }.pegCycle peg t.1) s

end Sys2Proof.Machine
end

