-- ==== Sys2Proof/Machine/CoreStore.lean ====
section
/-!
DEFINITION. Core store: R135 to R150. Bytes, poison, corrected and uncorrected errors, and isolation of a core.
-/
namespace Sys2Proof.Machine

/-- Core store size. -/
def storeSize : Nat := 0x800000

namespace Core

def byte (k : Core) (o : Nat) : Byte := tget (fun _ => 0#8) k.store o

def bytes (k : Core) (o n : Nat) : List Byte := tgets (fun _ => 0#8) k.store o n

def wordPoison (k : Core) (w : Nat) : Bool := tget (fun _ => false) k.poison w

/-- Whether any word of `n` bytes from `o` is poisoned. -/
def poisoned (k : Core) (o n : Nat) : Bool :=
  decide (n ≠ 0) && (k.poison.any fun e => e.2 && decide (o / 8 ≤ e.1) && decide (e.1 ≤ (o + n - 1) / 8))

/-- Bytes as an engine reads them: a poisoned word decodes as no data, so what it delivers is free (R145). -/
def engineBytes (k : Core) (fr o n : Nat) : List Byte :=
  (List.range n).map fun i =>
    if k.wordPoison ((o + i) / 8) then BitVec.ofNat 8 (Config.fresh (fr + i)) else k.byte (o + i)

/-- Write bytes that lie within one 64-bit word: a whole word clears poison; part of a poisoned word stays as it is
(R143, R146). A write granted before a correcting write-back drops it (R144). -/
def putWord (k : Core) (o : Nat) (bs : List Byte) : Core :=
  let w := o / 8
  if bs.length = 8 then
    { k with store := tsets (fun _ => 0#8) k.store o bs, poison := tset (fun _ => false) k.poison w false, wb := k.wb.filter (· ≠ w) }
  else if k.wordPoison w then k
  else { k with store := tsets (fun _ => 0#8) k.store o bs, wb := k.wb.filter (· ≠ w) }

/-- Write bytes word by word; `n` bounds the words touched. -/
def putWords : Nat → Core → Nat → List Byte → Core
  | 0, k, _, _ => k
  | n + 1, k, o, bs =>
    if bs.isEmpty then k
    else putWords n (k.putWord o (bs.take (8 - o % 8))) (o + (8 - o % 8)) (bs.drop (8 - o % 8))

def put (k : Core) (o : Nat) (bs : List Byte) : Core := putWords (bs.length + 1) k o bs

/-- Poison every word of `n` bytes from `o`. -/
def spoil (k : Core) (o n : Nat) : Core :=
  if n = 0 then k
  else { k with poison := tfill (fun _ => false) true k.poison ((List.range ((o + n - 1) / 8 + 1 - o / 8)).map (· + o / 8)) }

/-- Any range entry that holds a write and overlaps [lo, hi] (R142). -/
def writeHolds (k : Core) (lo hi : Nat) : Bool :=
  k.ranges.any fun e => e.write && decide (e.lo ≤ hi) && decide (lo ≤ e.hi)

/-- Any range entry that overlaps [lo, hi]. -/
def anyHolds (k : Core) (lo hi : Nat) : Bool := k.ranges.any fun e => decide (e.lo ≤ hi) && decide (lo ≤ e.hi)

/-- The tricks of an engine's queue, oldest first. -/
def queue (k : Core) (e : Nat) : List Trick := tget (fun _ => []) k.eng e

def setQueue (k : Core) (e : Nat) (q : List Trick) : Core := { k with eng := tset (fun _ => []) k.eng e q }

/-- Whether every compute engine (all but the stream engine) is empty. -/
def computeIdle (k : Core) : Bool := (List.range 7).all fun e => (k.queue e).isEmpty

def enginesIdle (k : Core) : Bool := (List.range 8).all fun e => (k.queue e).isEmpty

/-- The logical row of a word: 1024 × bank + row (R135). -/
def rowOfWord (w : Nat) : Nat := w / 16 % 64 * 1024 + w / 1024

/-- Spare rows of a bank that have been taken, 0 to 16. -/
def spareTaken (k : Core) (bank : Nat) : Nat :=
  k.spare.foldl (fun n e => if e.1 / 1024 = bank then max n e.2 else n) 0

end Core

namespace State

/-- Isolate a core (R571): its sequencer and engines stop, its waiter registration goes, and its fence is due. -/
def isolate (s : State) (c : Nat) : State :=
  if (s.core c).isolated then s
  else
    let s := s.modCore c fun k => { k with isolated := true, enq := none }
    let s := s.unwait (.seq c)
    { s with sump := { s.sump with isolate := s.sump.isolate ++ [c] } }

/-- A fence trigger sets out for the region collector (R570); a core that is isolated already takes no other. -/
def fenceTrigger (s : State) (c : Nat) : State :=
  if (s.core c).isolated ∨ c ∈ s.sump.triggers then s else { s with sump := { s.sump with triggers := s.sump.triggers ++ [c] } }

/-- Ask for a row to be copied to a spare row (R148). -/
def wantRemap (s : State) (c row : Nat) : State :=
  s.modCore c fun k => if row ∈ k.remap then k else { k with remap := k.remap ++ [row] }

/-- One error that a read of core store finds (R144, R145): a poisoned word is not a new error (R146). -/
def storeErr (s : State) (c : Nat) (e : EccErr) : State :=
  let k := s.core c
  let row := Core.rowOfWord e.word
  let syn := e.syn.toNat + e.word / 16 % 64 * 256
  if k.wordPoison e.word ∨ e.word ≥ storeSize / 8 then s
  else if !e.double then
    let n := tget (fun _ => 0) k.rowCe row + 1
    let wb := if e.word ∈ k.wb then k.wb else k.wb ++ [e.word]
    let s := s.setCore c { k with rowCe := tset (fun _ => 0) k.rowCe row n, wb := wb }
    let s := (s.bump (Reg.CSTORE_CE_CNT (c / 26) (c % 26))).raise (srcCore c 0) 0x010 k.ctx 4 (8 * e.word) syn
    if n = 4 then s.wantRemap c row else s
  else
    let seen := s.bit (Reg.CSTORE_STS (c / 26) (c % 26)) 5
    let s := s.setCore c { k with poison := tset (fun _ => false) k.poison e.word true }
    let s := (s.bump (Reg.CSTORE_UE_CNT (c / 26) (c % 26))).setCfg (Reg.CSTORE_UE_ADDR (c / 26) (c % 26))
      (BitVec.ofNat 32 (2 ^ 31 + 8 * e.word))
    let s := s.setBit (Reg.CSTORE_STS (c / 26) (c % 26)) 5 true
    let s := (s.raise (srcCore c 0) 0x011 k.ctx 4 (8 * e.word) syn).wantRemap c row
    if seen then s.fenceTrigger c else s

def storeErrs (s : State) (c : Nat) (es : List EccErr) : State := es.foldl (fun s e => s.storeErr c e) s

/-- Whether the core's store can be reached: a fenced, isolated, unpowered or clearing core refuses (R150, R571). -/
def storeOpen (s : State) (c : Nat) : Bool :=
  !(s.core c).isolated && decide ((s.core c).pwr = .run ∨ (s.core c).pwr = .clockStop)

end State

/-- CORRECTING_WRITE_BACK: the oldest corrected word of the core is written back (R144, R141). -/
def execCorrectingWriteBack (core : Fin 104) (s : State) : Res :=
  when (!(s.core core).wb.isEmpty) (fun s => s.modCore core fun k => { k with wb := k.wb.drop 1 }) s

/-- ROW_REMAP: a row that waits is copied to a free spare row of its bank; without one, nothing is remapped (R148). -/
def execRowRemap (core : Fin 104) (s : State) : Res :=
  match (s.core core).remap with
  | [] => done s
  | row :: rest =>
    let k := s.core core
    let n := k.spareTaken (row / 1024)
    let s := s.setCore core { k with remap := rest, spare := if n < 16 then tput row (n + 1) k.spare else k.spare }
    let used := (s.core core).spare.length
    done (s.setFld (Reg.CSTORE_SPARE (core / 26) (core % 26)) 10 0 (min 1024 used))

/-- CORE_STORE_SCRUB: one row of each bank is read and its errors are handled; the walk covers 1,024 rows and 16 spare
rows, and a completed walk counts (R149). -/
def execCoreStoreScrub (core : Fin 104) (errs : List EccErr) (s : State) : Res :=
  let k := s.core core
  when (s.bit (Reg.CSTORE_SCRUB_CTL (core / 26)) 16 && (k.pwr == .run || k.pwr == .clockStop)) (fun s =>
    let here := errs.filter fun e => decide (k.scrub < 1024 → e.word / 1024 = k.scrub)
    let s := s.storeErrs core here
    let last := decide (k.scrub = 1039)
    let s := s.modCore core fun k => { k with scrub := if last then 0 else k.scrub + 1 }
    s.bumpIf last (Reg.CSTORE_SCRUB_PASS (core / 26) (core % 26))) s

end Sys2Proof.Machine
end

