-- ==== Sys2Proof/Machine/Trick.lean ====
section
/-!
DEFINITION. Reading a row as a trick: R158 to R186. Descriptors, operand modes, gather references, and every rule that
makes a trick malformed (R162, R163). Where a trick breaks several rules, the first in this order gives the reason
(DEDUCED): the row itself, its operands from left to right, geometry and formats, size limits, ranges, pegs.
-/
namespace Sys2Proof.Machine

/-- Why a trick does not issue: it is held, or it is malformed for a reason of R163. -/
inductive Why where
  | hold
  | fault (reason : Nat)
  deriving DecidableEq, Repr

abbrev Dec (α : Type) := Except Why α

def mal (reason : Nat) : Dec α := .error (.fault reason)

/-- A rule that, when broken, gives a reason. -/
def need (c : Bool) (reason : Nat) : Dec Unit := if c then .ok () else mal reason

/-- Bits [hi:lo] of word `w` of a row. -/
def wf (ws : List Nat) (w hi lo : Nat) : Nat := bitsOf (ws.getD w 0) hi lo

/-- Every named field (word, hi, lo) of a row is zero. -/
def zeros (ws : List Nat) (fs : List (Nat × Nat × Nat)) : Bool := fs.all fun f => decide (wf ws f.1 f.2.1 f.2.2 = 0)

/-- Words `n` and above are zero. -/
def zeroFrom (ws : List Nat) (n : Nat) : Bool := (ws.drop n).all (· == 0)

/-- A row's offset in core store (R158). -/
def rowOff (t n : Nat) : Nat := 0x800000 - 0x10000 * t + 32 * n

/-- The eight words of 32 bytes. -/
def wordsOf (bs : List Byte) : List Nat := (List.range 8).map fun w => ofLe ((bs.drop (4 * w)).take 4)

/-- The surroundings a row is read in: the table size, the rows and gather entries of the core store, its write
ranges, the open loops, which pegs the context names, whether its partition owns a copy engine, and whether the row is
only checked at hand load, where no loop, gather entry or write range counts (R162). -/
structure RowEnv where
  core : Core
  loading : Bool
  pegs : Nat
  engines : List (Nat × Nat)

def RowEnv.rows (v : RowEnv) : Nat := 2048 * v.core.tbl

/-! ### Descriptors (R164 to R170) -/

/-- A descriptor as its fields give it: an OPD with bases and pitches in bytes, or a MEMD. -/
structure Desc where
  tile : Tile
  lrows : Bool
  lstride : Nat
  deriving DecidableEq, Repr

def parseOpd (ws : List Nat) : Dec Desc := do
  need (zeros ws [(0, 31, 20), (2, 31, 19), (3, 31, 24), (4, 30, 16), (5, 31, 20)] && zeroFrom ws 6) 2
  match Fmt.ofCode (wf ws 0 11 8) with
  | none => mal 2
  | some f =>
    let bias := wf ws 0 19 12
    let lrows := decide (wf ws 4 31 31 = 1)
    need (f.hasBias || bias == 0) 2
    need (f.isBlock || (wf ws 2 18 0 == 0 && wf ws 3 15 0 == 0)) 2
    need (!lrows || wf ws 4 15 0 == 0) 2
    return ⟨⟨f, bias, 128 * wf ws 1 15 0, 128 * wf ws 1 31 16, 16 * wf ws 2 18 0, 16 * wf ws 3 15 0,
      wf ws 3 23 16 + 1, wf ws 5 19 0 + 1⟩, lrows, 128 * wf ws 4 15 0⟩

/-- A MEMD; its row length is the trick's, so LEN stands as 0. -/
def parseMemd (ws : List Nat) : Dec Desc := do
  need (zeros ws [(0, 31, 20), (5, 31, 16), (7, 30, 24)]) 2
  match Fmt.ofCode (wf ws 0 11 8) with
  | none => mal 2
  | some f =>
    let bias := wf ws 0 19 12
    let lrows := decide (wf ws 7 31 31 = 1)
    let sb := wf ws 4 31 0 + wf ws 5 15 0 * 2 ^ 32
    need (f.hasBias || bias == 0) 2
    need (f.isBlock || (sb == 0 && wf ws 6 31 0 == 0)) 2
    need (!lrows || wf ws 7 23 0 == 0) 2
    let eb := wf ws 1 31 0 + wf ws 2 15 0 * 2 ^ 32
    need (eb % 128 == 0 && wf ws 3 31 0 % 128 == 0 && sb % 16 == 0 && wf ws 6 31 0 % 16 == 0) 4
    return ⟨⟨f, bias, eb, wf ws 3 31 0, sb, wf ws 6 31 0, wf ws 2 31 16 + 1, 0⟩, lrows, 128 * wf ws 7 23 0⟩

/-- Move a descriptor by a loop index (R165). -/
def Desc.move (d : Desc) (i : Nat) : Tile :=
  let t := d.tile
  if d.lrows then { t with ebase := t.ebase + i * t.rows * t.epitch, sbase := t.sbase + i * t.rows * t.spitch }
  else
    let per := if t.fmt = .f4b then 8 else 4
    { t with
      ebase := t.ebase + i * d.lstride
      sbase := if t.fmt.isBlock then t.sbase + i * (d.lstride / 128) * per else t.sbase }

/-- The words of row `n`, once no issued write is outstanding on it (R170). -/
def RowEnv.row (v : RowEnv) (n : Nat) : Dec (List Nat) :=
  if v.rows ≤ n then mal 4
  else
    let o := rowOff v.core.tbl n
    if v.loading then .ok (wordsOf (v.core.bytes o 32))
    else if v.core.writeHolds o (o + 31) then .error .hold
    else if v.core.poisoned o 32 then mal 7
    else .ok (wordsOf (v.core.bytes o 32))

/-- Parse row `n` as the kind of descriptor a field requires: a MEMD (`mem`) or an OPD; another kind gives `bad`. -/
def RowEnv.desc (v : RowEnv) (mem : Bool) (n bad : Nat) : Dec Desc := do
  let ws ← v.row n
  need (wf ws 0 7 0 == (if mem then 0xF1 else 0xF0)) bad
  if mem then parseMemd ws else parseOpd ws

/-- The index of the innermost loop (0) or the one around it (1). -/
def RowEnv.loop (v : RowEnv) (n : Nat) : Dec Nat :=
  match v.core.loops[n]? with
  | some l => .ok l.index
  | none => mal 0xC

/-- The row a gather reference selects (R168, R169). -/
def RowEnv.gather (v : RowEnv) (n : Nat) : Dec Nat := do
  let ws ← v.row n
  need (wf ws 0 7 0 == 0xF2) 3
  need (zeros ws [(0, 31, 10), (1, 31, 21)] && zeroFrom ws 3 && wf ws 0 9 8 != 3) 2
  let i ← if wf ws 0 9 8 = 0 then pure 0 else v.loop (wf ws 0 9 8 - 1)
  let e := wf ws 2 15 0 + i
  let o := 4 * wf ws 1 20 0 + 4 * e
  need (decide (e ≤ wf ws 2 31 16) && decide (o + 3 < storeSize)) 0xD
  if v.core.writeHolds o (o + 3) then .error .hold
  else if v.core.poisoned o 4 then mal 7
  else
    let x := ofLe (v.core.bytes o 4)
    need (decide (x < 2 ^ 14) && decide (x < v.rows)) 0xD
    return x

/-- The descriptor of an operand field; none where the load-time check leaves it to issue (R162, R167). -/
def RowEnv.operand (v : RowEnv) (mem : Bool) (mode n : Nat) : Dec (Option Tile) := do
  match mode with
  | 0 => return some (← v.desc mem n 3).tile
  | 3 =>
    if v.loading then (do need (decide (n < v.rows)) 4; return none)
    else
      let x ← v.gather n
      return some (← v.desc mem x 0xD).tile
  | m =>
    if v.loading then (do need (decide (n < v.rows)) 4; return none)
    else
      let d ← v.desc mem n 3
      let i ← v.loop (m - 1)
      return some (d.move i)

/-! ### Ranges (R137, R142) -/

/-- Last byte of `rows` rows of `b` bytes at pitch `p` from `base`. -/
def rangeHi (base rows p b : Nat) : Nat := base + (rows - 1) * p + b - 1

/-- The element range and, for a block format, the scale range of a core store tile. -/
def Tile.ranges (t : Tile) : List (Nat × Nat) :=
  (t.ebase, rangeHi t.ebase t.rows t.epitch (t.fmt.rowBytes t.len))
    :: (if t.fmt.isBlock then [(t.sbase, rangeHi t.sbase t.rows t.spitch (t.fmt.rowScales t.len))] else [])

/-- Every byte of the tile lies in core store (R137). -/
def Tile.inStore (t : Tile) : Bool := t.ranges.all fun r => decide (r.2 < storeSize)

def optAll (p : Tile → Bool) : Option Tile → Bool
  | none => true
  | some t => p t

/-! ### Tricks (R171 to R186) -/

/-- What a well-formed trick does when it issues. -/
inductive Act where
  | nop | halt | tfence | endloop | ret
  | loop (count : Nat)
  | call (target : Nat)
  | engine (e : Nat) (op : EngOp) (reads writes : List (Nat × Nat))
  | enq (cls unit base len : Nat)
  | pwait (p : Nat)
  | psig (p amount : Nat)
  | psigRemote (dev p amount : Nat)
  | parm (p x : Nat)
  | preset (p : Nat)
  | rwait (k : Nat)
  | deadline (p fb rnd : Nat)
  | phase (op : Nat)
  | tmark (tag value : Nat)
  /-- A row checked at load whose operands are resolved only at issue. -/
  | later
  deriving DecidableEq, Repr

/-- A conversion control and its seed: no reserved control (R78), and a seed only with stochastic rounding (R171).
`seedFree`: the seed is not tied to the control. -/
def ctlOk (conv seed : Nat) (tied : Bool) : Bool := ctlValid conv && (!tied || conv % 4 == 1 || seed == 0)

def sameShape (a b : Tile) : Bool := a.rows == b.rows && a.len == b.len

/-- MM (R171, R172). -/
def decMm (v : RowEnv) (e : Nat) (ws : List Nat) : Dec Act := do
  let write := wf ws 2 31 31 == 1
  let start := wf ws 2 30 30 == 1
  let m := wf ws 2 22 16 + 1
  let n := wf ws 2 29 23 + 1
  let k := wf ws 3 19 0 + 1
  let wbase := wf ws 3 29 20
  let conv := wf ws 4 3 0
  let seed := ws.getD 5 0
  need (zeros ws [(3, 31, 30), (4, 31, 4)] && zeroFrom ws 6) 2
  need (write || (wf ws 2 15 0 == 0 && conv == 0 && seed == 0)) 2
  need (ctlOk conv seed true) 2
  need (start || wbase == 0) 2
  let left ← v.operand false (wf ws 1 15 14) (wf ws 1 13 0)
  let right ← v.operand false (wf ws 1 31 30) (wf ws 1 29 16)
  let out ← if write then v.operand false (wf ws 2 15 14) (wf ws 2 13 0) else pure none
  match left, right with
  | some l, some r =>
    match pairClass l.fmt r.fmt with
    | none => mal 5
    | some c =>
      need (c == .h16 || wbase == 0) 2
      need (decide (m ≤ l.rows) && decide (n ≤ r.rows) && decide (k ≤ l.len) && decide (k ≤ r.len)
        && optAll (fun o => decide (m ≤ o.rows) && decide (n ≤ o.len)) out) 5
      need (decide (k * c.cyc ≤ 6144)) 0x10
      let l := { l with rows := m, len := k }
      let r := { r with rows := n, len := k }
      let o := out.map fun o => { o with rows := m, len := n }
      need (l.inStore && r.inStore && optAll Tile.inStore o) 4
      if write && o.isNone then return .later
      return .engine e (.mm l r o m n k start wbase conv seed) (l.ranges ++ r.ranges) ((o.map Tile.ranges).getD [])
  | _, _ => return .later

/-- VEC (R173 to R175). -/
def decVec (v : RowEnv) (e : Nat) (ws : List Nat) : Dec Act := do
  need (zeros ws [(3, 31, 24)] && zeroFrom ws 5) 2
  match VecFn.ofCode (wf ws 3 5 0) with
  | none => mal 2
  | some f =>
    let shape := wf ws 3 23 22
    let conv := wf ws 3 21 18
    let wbase := wf ws 3 17 8
    let write := wf ws 3 7 7 == 1
    let start := wf ws 3 6 6 == 1
    let seed := ws.getD 4 0
    let writes := f != .rsum || write
    need (f.isRed || shape == 0) 2
    need (shape != 3) 2
    need (f == .rsum || (!write && !start && wbase == 0)) 2
    need (f != .rsum || start || wbase == 0) 2
    need (f.usesB || wf ws 1 31 16 == 0) 2
    need (f.usesC || wf ws 2 15 0 == 0) 2
    need (writes || (wf ws 2 31 16 == 0 && conv == 0 && seed == 0)) 2
    need (!f.isRaw || conv == 0) 2
    need (ctlOk conv seed false) 2
    let a ← v.operand false (wf ws 1 15 14) (wf ws 1 13 0)
    let b ← if f.usesB then v.operand false (wf ws 1 31 30) (wf ws 1 29 16) else pure none
    let c ← if f.usesC then v.operand false (wf ws 2 15 14) (wf ws 2 13 0) else pure none
    let d ← if writes then v.operand false (wf ws 2 31 30) (wf ws 2 29 16) else pure none
    let isB32 := optAll fun t => t.fmt == .b32
    need (!f.isRaw || (isB32 a && isB32 b && isB32 c && isB32 d)) 5
    need (!(f.isCmp || f == .ftoi) || isB32 d) 5
    need (f != .itof || isB32 a) 5
    match a with
    | none => return .later
    | some a =>
      if (f.usesB && b.isNone) || (f.usesC && c.isNone) || (writes && d.isNone) then return .later
      let outs := match shape with | 0 => a.rows | 1 => a.len | _ => 1
      if f.isRed then
        need (optAll (fun d => match shape with
          | 0 => d.rows == a.rows && d.len == 1
          | 1 => d.rows == 1 && d.len == a.len
          | _ => d.rows == 1 && d.len == 1) d) 5
        need (decide (outs ≤ 256)) 0x10
      else
        need (optAll (sameShape a) d && optAll (sameShape a) b && optAll (sameShape a) c) 5
      need (decide (a.rows * a.len ≤ 65536)) 0x10
      need (a.inStore && optAll Tile.inStore b && optAll Tile.inStore c && optAll Tile.inStore d) 4
      let rd := a.ranges ++ ((b.map Tile.ranges).getD []) ++ ((c.map Tile.ranges).getD [])
      return .engine e (.vec f shape a b c d start write wbase conv seed) rd ((d.map Tile.ranges).getD [])

/-- TU (R176). -/
def decTu (v : RowEnv) (ws : List Nat) : Dec Act := do
  need (zeros ws [(2, 31, 8)] && zeroFrom ws 4) 2
  match TuFn.ofCode (wf ws 2 3 0) with
  | none => mal 2
  | some f =>
    let conv := wf ws 2 7 4
    need (ctlOk conv (ws.getD 3 0) false) 2
    let a ← v.operand false (wf ws 1 15 14) (wf ws 1 13 0)
    let d ← v.operand false (wf ws 1 31 30) (wf ws 1 29 16)
    match a, d with
    | some a, some d =>
      need (sameShape a d) 5
      need (decide (a.rows * a.len ≤ 65536)) 0x10
      need (a.inStore && d.inStore) 4
      return .engine 6 (.tu f a d conv (ws.getD 3 0)) a.ranges d.ranges
    | _, _ => return .later

/-- STREAM (R177, R178). -/
def decStream (v : RowEnv) (ws : List Nat) : Dec Act := do
  need (zeros ws [(2, 31, 27)] && zeroFrom ws 4) 2
  let fnc := wf ws 2 18 16
  need (decide (fnc < 5)) 2
  let fn : StreamFn := match fnc with
    | 0 => .stageIn | 1 => .stageOut | 2 => .gather | 3 => .scatter | _ => .copyLocal
  let tr := wf ws 2 19 19 == 1
  let idxd := fn == .gather || fn == .scatter
  let conv := wf ws 2 26 23
  need (!idxd || !tr) 2
  need (idxd || wf ws 2 15 0 == 0) 2
  need (fn != .copyLocal || (wf ws 2 22 20 == 0)) 2
  need (ctlOk conv (ws.getD 3 0) false) 2
  let memMode := wf ws 1 15 14
  let memRow := wf ws 1 13 0
  let cs ← v.operand false (wf ws 1 31 30) (wf ws 1 29 16)
  let mem ← v.operand (fn != .copyLocal) memMode memRow
  let idx ← if idxd then v.operand false (wf ws 2 15 14) (wf ws 2 13 0) else pure none
  match cs, mem with
  | some cs, some mem =>
    let rows := if tr then cs.len else cs.rows
    let len := if tr then cs.rows else cs.len
    let src := if fn == .stageOut || fn == .scatter then cs else mem
    need (!tr || !src.fmt.isBlock) 5
    if fn == .copyLocal then need (mem.rows == rows && mem.len == len) 5
    else need (idxd || decide (rows ≤ mem.rows)) 5
    need (optAll (fun i => i.fmt == .b32 && decide (cs.rows ≤ i.rows * i.len)) idx) 5
    let idx := idx.map fun i =>
      if cs.rows ≤ i.len then { i with rows := 1, len := cs.rows }
      else { i with rows := (cs.rows + i.len - 1) / i.len }
    let mem := { mem with len := len, rows := if idxd then mem.rows else rows }
    need (cs.inStore && optAll Tile.inStore idx && (fn != .copyLocal || mem.inStore)) 4
    let next ← if memMode = 1 ∨ memMode = 2 then (do
        let d ← v.desc (fn != .copyLocal) memRow 3
        let i ← v.loop (memMode - 1)
        return some { (d.move (i + 1)) with len := len, rows := mem.rows })
      else pure none
    let wcs := fn == .stageIn || fn == .gather || fn == .copyLocal
    let rd := (if wcs then [] else cs.ranges) ++ ((idx.map Tile.ranges).getD [])
      ++ (if fn == .copyLocal then mem.ranges else [])
    return .engine 7 (.stream fn cs mem idx tr (wf ws 2 20 20 == 1) (wf ws 2 22 21) conv (ws.getD 3 0) next)
      rd (if wcs then cs.ranges else [])
  | _, _ => return .later

/-- Control and synchronisation tricks (R180). -/
def decOther (v : RowEnv) (op : Nat) (ws : List Nat) : Dec Act := do
  need (zeros ws [(0, 30, 16), (0, 8, 8)]) 2
  let peg (i : Nat) : Dec Nat := if i < v.pegs then .ok i else mal 0xE
  match op with
  | 0x00 => need (zeroFrom ws 1) 2; return .nop
  | 0x01 => need (zeroFrom ws 1) 2; return .halt
  | 0x02 => need (zeroFrom ws 1) 2; return .tfence
  | 0x08 => need (zeros ws [(1, 31, 24)] && zeroFrom ws 2) 2; return .loop (wf ws 1 23 0)
  | 0x09 => need (zeroFrom ws 1) 2; return .endloop
  | 0x0A =>
    need (zeros ws [(1, 31, 14)] && zeroFrom ws 2) 2
    need (decide (wf ws 1 13 0 < v.rows)) 4
    return .call (wf ws 1 13 0)
  | 0x0B => need (zeroFrom ws 1) 2; return .ret
  | 0x48 =>
    let cls := wf ws 1 1 0
    let base := 32 * wf ws 2 17 0
    let len := wf ws 1 15 8 + 1
    need (zeros ws [(1, 31, 16), (1, 7, 3), (2, 31, 18)] && zeroFrom ws 3 && cls != 3) 2
    need (cls != 2 || wf ws 1 2 2 == 0) 2
    need (decide (base + 32 * len ≤ storeSize)) 4
    need (cls == 2 || v.engines.contains (cls, wf ws 1 2 2)) 0x11
    if !v.loading && v.core.writeHolds base (base + 32 * len - 1) then .error .hold
    else return .enq cls (wf ws 1 2 2) base len
  | 0x50 =>
    need (zeros ws [(1, 31, 15)] && zeroFrom ws 2) 2
    return .pwait (← peg (wf ws 1 14 0))
  | 0x51 =>
    let rem := wf ws 1 15 15 == 1
    need (zeros ws [(2, 31, 18)] && zeroFrom ws 3 && wf ws 1 31 16 != 0 && (rem || ws.getD 2 0 == 0)) 2
    if rem then return .psigRemote (wf ws 2 17 0) (wf ws 1 14 0) (wf ws 1 31 16)
    else return .psig (← peg (wf ws 1 14 0)) (wf ws 1 31 16)
  | 0x52 =>
    need (zeros ws [(1, 31, 15)] && zeroFrom ws 3) 2
    return .parm (← peg (wf ws 1 14 0)) (ws.getD 2 0)
  | 0x53 =>
    need (zeros ws [(1, 31, 15)] && zeroFrom ws 2) 2
    return .preset (← peg (wf ws 1 14 0))
  | 0x58 =>
    need (zeros ws [(2, 31, 16)] && zeroFrom ws 3) 2
    return .rwait (ws.getD 1 0 + wf ws 2 15 0 * 2 ^ 32)
  | 0x59 =>
    need (zeros ws [(1, 31, 30), (1, 15, 15), (3, 31, 16)] && zeroFrom ws 4) 2
    need (decide (wf ws 1 29 16 < v.rows)) 4
    return .deadline (← peg (wf ws 1 14 0)) (wf ws 1 29 16) (ws.getD 2 0 + wf ws 3 15 0 * 2 ^ 32)
  | 0x60 => need (zeros ws [(1, 31, 3)] && zeroFrom ws 2) 2; return .phase (wf ws 1 2 0)
  | 0x61 => need (zeros ws [(1, 31, 8)] && zeroFrom ws 3) 2; return .tmark (wf ws 1 7 0) (ws.getD 2 0)
  | _ => mal 1

/-- Whether an opcode is an engine trick's, and the engine it names (R161). -/
def engineOf (op : Nat) : Option Nat :=
  if 0x10 ≤ op ∧ op ≤ 0x13 then some (op - 0x10)
  else if op = 0x20 ∨ op = 0x21 then some (op - 0x1C)
  else if op = 0x30 then some 6
  else if op = 0x40 then some 7
  else none

/-- Read a row as a trick (R159 to R186): what it does and its SIG peg, or why it does not issue. -/
def decodeTrick (v : RowEnv) (ws : List Nat) : Dec (Act × Option Nat) := do
  let op := wf ws 0 7 0
  need (decide (op < 0xF0 ∨ 0xF2 < op)) 6
  match engineOf op with
  | some e =>
    need (zeros ws [(0, 31, 31), (0, 15, 10)]) 2
    let a ← if op < 0x20 then decMm v e ws else if op < 0x30 then decVec v e ws
      else if op < 0x40 then decTu v ws else decStream v ws
    if wf ws 0 8 8 = 1 then
      need (decide (wf ws 0 30 16 < v.pegs)) 0xE
      return (a, some (wf ws 0 30 16))
    else return (a, none)
  | none =>
    need ([0x00, 0x01, 0x02, 0x08, 0x09, 0x0A, 0x0B, 0x48, 0x50, 0x51, 0x52, 0x53, 0x58, 0x59, 0x60, 0x61].contains op) 1
    need (zeros ws [(0, 31, 31), (0, 15, 10)]) 2
    return (← decOther v op ws, none)

/-- The load-time check of one row, a descriptor row included (R162): the row on its own, with the descriptors a
DIRECT operand names. -/
def rowOk (v : RowEnv) (ws : List Nat) : Bool :=
  let r : Dec Unit :=
    match wf ws 0 7 0 with
    | 0xF0 => do let _ ← parseOpd ws; pure ()
    | 0xF1 => do let _ ← parseMemd ws; pure ()
    | 0xF2 => need (zeros ws [(0, 31, 10), (1, 31, 21)] && zeroFrom ws 3 && wf ws 0 9 8 != 3) 2
    | _ => do let _ ← decodeTrick v ws; pure ()
  match r with
  | .error (.fault _) => false
  | _ => true

end Sys2Proof.Machine
end

