-- ==== Sys2Proof/Machine/Engines.lean ====
section
/-!
DEFINITION. What the compute engines do with a started trick: MM (R171, R90 to R98), VEC (R173 to R175, R100 to
R103), TU (R176, R105 to R107), with the conditions each written element raises (R113 to R115).
-/
namespace Sys2Proof.Machine

/-! ### Reading and writing tiles -/

/-- Row `i` of a core store tile as exact values. -/
def Core.tileRow (k : Core) (fr : Nat) (t : Tile) (i : Nat) : List Val :=
  decodeRow t.fmt (signed 8 t.bias) t.len (k.engineBytes fr (t.ebase + i * t.epitch) (t.fmt.rowBytes t.len))
    (k.engineBytes fr (t.sbase + i * t.spitch) (t.fmt.rowScales t.len))

/-- Row `i` of a binary32 tile as raw 32-bit lanes. -/
def Core.rawRow (k : Core) (fr : Nat) (t : Tile) (i : Nat) : List Nat :=
  unpackElems .b32 t.len (k.engineBytes fr (t.ebase + i * t.epitch) (4 * t.len))

/-- All values of a tile, row by row. -/
def Core.tileVals (k : Core) (fr : Nat) (t : Tile) : List Val := (List.range t.rows).flatMap (k.tileRow fr t)

def Core.tileRaw (k : Core) (fr : Nat) (t : Tile) : List Nat := (List.range t.rows).flatMap (k.rawRow fr t)

/-- Whether any byte of the tile is poisoned. -/
def Core.tilePoison (k : Core) (t : Tile) : Bool :=
  (List.range t.rows).any fun i =>
    k.poisoned (t.ebase + i * t.epitch) (t.fmt.rowBytes t.len) || k.poisoned (t.sbase + i * t.spitch) (t.fmt.rowScales t.len)

/-- Count the conditions of one written element (R115). -/
def Running.count (r : Running) (f : Flags) (nan : Bool) : Running :=
  { r with
    flags := r.flags ||| f
    winx := r.winx + b2n (decide (f &&& fWINX ≠ 0))
    wovf := r.wovf + b2n (decide (f &&& fWOVF ≠ 0))
    inv := r.inv + b2n (decide (f &&& fINVALID ≠ 0))
    satc := r.satc + b2n (decide (f &&& (fSATURATED ||| fOVERFLOW_INF) ≠ 0))
    nan := r.nan + b2n nan }

/-- Count a row of written elements, each with the conditions its value brought. -/
def Running.countRow (r : Running) : List EOut → List Flags → Running
  | [], _ => r
  | e :: es, fs => (r.count (e.flags ||| fs.headD 0) e.nan).countRow es fs.tail

/-- Write an encoded row to row `i` of a tile. -/
def putOut (t : Tile) (i : Nat) (o : RowOut) (fs : List Flags) (r : Running) : Running :=
  let r := r.countRow o.elems fs
  let w : List StoreWr := [⟨t.ebase + i * t.epitch, packElems t.fmt.elem (o.elems.map (·.code))⟩]
    ++ (if t.fmt.isBlock then [⟨t.sbase + i * t.spitch, o.scales.map (BitVec.ofNat 8)⟩] else [])
  { r with wr := r.wr ++ w }

/-- Write one row of values, each with the conditions it brings, to row `i` of a tile. -/
def putRow (t : Tile) (c : Ctl) (i : Nat) (vs : List (Val × Flags)) (st : Running × Nat) : Running × Nat :=
  let o := encodeRow t.fmt c (signed 8 t.bias) st.2 (vs.map (·.1))
  (putOut t i o (vs.map (·.2)) st.1, o.rng)

/-- Write elements already rounded, one by one, to row `i` of a tile that is not in a block format. -/
def putOuts (t : Tile) (i : Nat) (es : List EOut) (r : Running) : Running :=
  let r := r.countRow es []
  { r with wr := r.wr ++ [⟨t.ebase + i * t.epitch, packElems t.fmt.elem (es.map (·.code))⟩] }

/-- Split a list into rows of `n`. -/
def rowsOf (n : Nat) : Nat → List α → List (List α)
  | 0, _ => []
  | m + 1, l => l.take n :: rowsOf n m (l.drop n)

/-- Write a list of values as the rows of a tile, with the generator running on from row to row (R85). -/
def putTile (t : Tile) (c : Ctl) (seed : Nat) (vs : List (Val × Flags)) : Running :=
  let rows := rowsOf t.len t.rows vs
  ((rows.zipIdx.foldl (fun st e => putRow t c e.2 e.1 st) (({} : Running), lfsrSeed seed))).1

/-! ### MM -/

/-- The accumulator of output element (i, j) of matrix engine `e` (R118). -/
def meAcc (e i j : Nat) : Nat := 16384 * e + 128 * i + j

/-- The accumulator of output element j of vector engine `e` (4 or 5) (R175). -/
def veAcc (e j : Nat) : Nat := 65536 + 256 * (e - 4) + j

def Core.accAt (k : Core) (a : Nat) : WAcc := tget (fun _ => WAcc.zero) k.acc a

def Core.setAcc (k : Core) (a : Nat) (v : WAcc) : Core := { k with acc := tset (fun _ => WAcc.zero) k.acc a v }

/-- Bias a plain or block operand brings to the output: none for the 16-bit pair (R97). -/
def pairBias (c : PairClass) (l r : Tile) : Int := if c = .h16 then 0 else signed 8 l.bias + signed 8 r.bias

/-- The operand of a matrix trick without its bias: the window takes unbiased products, and R97 adds the biases. -/
def Core.mmRow (k : Core) (fr : Nat) (t : Tile) (i : Nat) : List Val := k.tileRow fr { t with bias := 0 } i

/-- Run a matrix trick: products into its accumulators, then its output (R95 to R97). -/
def runMm (k : Core) (fr e : Nat) (l r : Tile) (out : Option Tile) (m n : Nat) (start : Bool) (wbase conv seed : Nat) :
    Core × Running :=
  match pairClass l.fmt r.fmt with
  | none => (k, {})
  | some c =>
    let cols := (List.range n).map (k.mmRow fr r)
    let acc := (List.range m).foldl (fun acc i =>
      let row := k.mmRow fr l i
      cols.zipIdx.foldl (fun acc col =>
        let a := meAcc e i col.2
        let w := if start then WAcc.start (c.base wbase) else tget (fun _ => WAcc.zero) acc a
        tset (fun _ => WAcc.zero) acc a (w.takeProds row col.1)) acc) k.acc
    let k := { k with acc := acc }
    match out with
    | none => (k, {})
    | some t =>
      let vs := (List.range m).flatMap fun i => (List.range n).map fun j => (k.accAt (meAcc e i j)).out (pairBias c l r)
      (k, putTile t (Ctl.ofCode conv) seed vs)

/-! ### VEC -/

/-- The runs a reduction reduces (R175). -/
def reduceRuns (shape rows len : Nat) (vs : List Val) : List (List Val) :=
  match shape with
  | 0 => rowsOf len rows vs
  | 1 => (List.range len).map fun j => (List.range rows).map fun i => vs.getD (i * len + j) Val.zero
  | _ => [vs]

def foldRun (f : Val → Val → Val) : List Val → Val
  | [] => Val.zero
  | v :: vs => vs.foldl f v

/-- FTOI of a tile: each lane rounded in turn with the generator's words (R103). -/
def ftoiAll (c : Ctl) : Nat → List Val → List EOut
  | _, [] => []
  | rng, v :: vs =>
    let r := if c.stoch then lfsrDraw rng else rng
    ftoiLane c r v :: ftoiAll c r vs

/-- Values of a format as a vector engine or the transcendental unit takes them in: decoded into binary32, with the
conditions the decoding raises (R646). -/
def inB32 (f : Fmt) (vs : List Val) : List Val × Flags :=
  if f = .b32 then (vs, 0)
  else
    let o := vs.map toB32
    (o.map fun x => Elem.b32.decode x.1, o.foldl (fun a x => a ||| x.2) 0)

/-- The values of an input tile of a vector trick, and of one it may not have. -/
def Core.inVals (k : Core) (fr : Nat) (t : Tile) : List Val × Flags := inB32 t.fmt (k.tileVals fr t)

def Core.inVals? (k : Core) (fr : Nat) (t : Option Tile) : List Val × Flags := (t.map (k.inVals fr)).getD ([], 0)

/-- The conditions of decoding the inputs go to the engine's flag word only (R646, R115). -/
def Running.also (r : Running) (f : Flags) : Running := { r with flags := r.flags ||| f }

def runVec (k : Core) (fr e : Nat) (f : VecFn) (shape : Nat) (a : Tile) (b c d : Option Tile) (start : Bool)
    (wbase conv seed : Nat) : Core × Running :=
  let ctl := Ctl.ofCode conv
  match f, d with
  | .rsum, d =>
    let x := k.inVals fr a
    let runs := reduceRuns shape a.rows a.len x.1
    let k := runs.zipIdx.foldl (fun (k : Core) run =>
      let w := if start then WAcc.start (signed 10 wbase) else k.accAt (veAcc e run.2)
      k.setAcc (veAcc e run.2) (w.takeAll run.1)) k
    let r : Running := match d with
      | none => {}
      | some d => putTile d ctl seed ((List.range runs.length).map fun j => (k.accAt (veAcc e j)).out 0)
    (k, r.also x.2)
  | _, none => (k, {})
  | f, some d =>
    if f = .rmax ∨ f = .rmin then
      let x := k.inVals fr a
      let runs := reduceRuns shape a.rows a.len x.1
      (k, (putTile d ctl seed (runs.map fun r => (foldRun (if f = .rmax then vmax else vmin) r, 0))).also x.2)
    else if f.isRaw then
      let as := k.tileRaw fr a
      let bs := (b.map (k.tileRaw fr)).getD []
      let cs := (c.map (k.tileRaw fr)).getD []
      let out := as.zipIdx.map fun x => rawLane f x.1 (bs.getD x.2 0) (cs.getD x.2 0)
      (k, (rowsOf d.len d.rows out).zipIdx.foldl (fun r x => putOuts d x.2 (x.1.map fun v => ⟨v, 0, false⟩) r) {})
    else if f = .itof then
      (k, putTile d ctl seed ((k.tileRaw fr a).map fun x => (itofVal x, 0)))
    else if f = .ftoi then
      let x := k.inVals fr a
      (k, ((rowsOf d.len d.rows (ftoiAll ctl (lfsrSeed seed) x.1)).zipIdx.foldl (fun r x => putOuts d x.2 x.1 r) {}).also x.2)
    else
      let as := k.inVals fr a
      let bs := k.inVals? fr b
      let cs := k.inVals? fr c
      let fl := as.2 ||| bs.2 ||| cs.2
      if f.isCmp then
        let out := as.1.zipIdx.map fun x => cmpLane f x.1 (bs.1.getD x.2 .zero)
        (k, ((rowsOf d.len d.rows out).zipIdx.foldl (fun r x => putOuts d x.2 (x.1.map fun v => ⟨v, 0, false⟩) r) {}).also fl)
      else
        (k, (putTile d ctl seed (as.1.zipIdx.map fun x => vecLane f x.1 (bs.1.getD x.2 .zero) (cs.1.getD x.2 .zero))).also fl)

/-! ### TU -/

/-- Round the results of a row of a transcendental trick by R77, with the conditions of R87. -/
def tuRow (t : Tile) (c : Ctl) (rng : Nat) (os : List TuOut) : RowOut :=
  let o := encodeRow t.fmt c (signed 8 t.bias) rng (os.map (·.val))
  { o with elems := tuMarks t.fmt.elem os o.elems }

def runTu (k : Core) (fr : Nat) (f : TuFn) (a d : Tile) (conv seed : Nat) : Running :=
  let ins := (k.tileVals fr a).map toB32
  let outs := ins.map fun x => tuEval f x.1
  let fl := if a.fmt = .b32 then 0 else ins.foldl (fun a x => a ||| x.2) 0
  (((rowsOf d.len d.rows outs).zipIdx.foldl (fun (st : Running × Nat) x =>
    let o := tuRow d (Ctl.ofCode conv) st.2 x.1
    (putOut d x.2 o [] st.1, o.rng)) (({} : Running), lfsrSeed seed)).1).also fl

/-- The tiles an engine operation reads. -/
def EngOp.reads : EngOp → List Tile
  | .mm l r _ _ _ _ _ _ _ _ => [l, r]
  | .vec _ _ a b c _ _ _ _ _ _ => a :: (b.toList ++ c.toList)
  | .tu _ a _ _ _ => [a]
  | .stream fn cs mem idx _ _ _ _ _ _ =>
    idx.toList ++ (if fn = .stageOut ∨ fn = .scatter then [cs] else []) ++ (if fn = .copyLocal then [mem] else [])

/-- The tile an engine operation writes in core store. -/
def EngOp.writes : EngOp → List Tile
  | .mm _ _ o _ _ _ _ _ _ _ => o.toList
  | .vec _ _ _ _ _ d _ _ _ _ _ => d.toList
  | .tu _ _ d _ _ => [d]
  | .stream fn cs _ _ _ _ _ _ _ _ => if fn = .stageOut ∨ fn = .scatter then [] else [cs]

/-- Run a compute trick on engine `e`: the core with its accumulators moved on, and what the trick will write. -/
def runCompute (k : Core) (fr e : Nat) : EngOp → Core × Running
  | .mm l r o m n _ st w c sd => runMm k fr e l r o m n st w c sd
  | .vec f sh a b c d st _ w cv sd => runVec k fr e f sh a b c d st w cv sd
  | .tu f a d c sd => (k, runTu k fr f a d c sd)
  | .stream .. => (k, {})

end Sys2Proof.Machine
end

