-- ==== Sys2Proof/Machine/Silt.lean ====
section
/-!
DEFINITION. The Silt codecs: R353 to R362. Streams are lists of bytes; an encoder makes the bytes of one frame or
block, a decoder reads one frame from the bytes at hand and says when it needs more.
-/
namespace Sys2Proof.Machine

/-! ### Stream headers (R353) -/

/-- The 16-byte header. KIND is 1 Silt-L, 2 Silt-Q, 3 Silt-Z. -/
def siltHeader (kind fmt bias count : Nat) : List Byte :=
  leBytes 1 kind ++ leBytes 1 fmt ++ leBytes 1 bias ++ leBytes 1 1 ++ leBytes 4 0 ++ leBytes 8 count

/-- Element bytes of a Silt-L format (R354). -/
def siltLWidth (fmt : Nat) : Nat :=
  match fmt with
  | 0 => 4 | 1 => 2 | 2 => 2 | _ => 1

/-- Whether a decoder takes a header (R353). -/
def siltHeaderOk (h : List Byte) (kind count : Nat) : Bool :=
  let b (o n : Nat) : Nat := ofLe ((h.drop o).take n)
  let fmt := b 1 1
  let fits := match kind with
    | 1 => decide (fmt ≤ 4) && decide (count % siltLWidth fmt = 0)
    | 2 => decide (6 ≤ fmt) && decide (fmt ≤ 8)
    | _ => decide (fmt = 0) && decide (count % 8 = 0)
  decide (b 0 1 = kind) && fits && (decide (kind = 2) || decide (b 2 1 = 0)) && decide (b 3 1 = 1)
    && decide (b 4 4 = 0) && decide (b 8 8 = count)

/-- What a decoder makes of the bytes at hand: it needs more, the stream is corrupt, or a frame and the number of
stream bytes it took. -/
inductive SiltDec where
  | more
  | corrupt
  | ok (out : List Byte) (used : Nat)
  deriving DecidableEq, Repr

/-! ### Silt-L (R354 to R356) -/

/-- Exponent bits and fraction bits of a Silt-L format. -/
def siltLBits (fmt : Nat) : Nat × Nat :=
  match fmt with
  | 0 => (8, 23) | 1 => (5, 10) | 2 => (8, 7) | 3 => (4, 3) | _ => (5, 2)

/-- Fields of `w` bits, the first lowest. -/
def packFields (w : Nat) : List Nat → Nat
  | [] => 0
  | f :: fs => f + 2 ^ w * packFields w fs

def unpackFields (w : Nat) : Nat → Nat → List Nat
  | 0, _ => []
  | n + 1, v => v % 2 ^ w :: unpackFields w n (v / 2 ^ w)

def bitLength (n : Nat) : Nat := if n = 0 then 0 else Nat.log2 n + 1

/-- Elements of `k` bytes each. -/
def elemsOf (k : Nat) : Nat → List Byte → List Nat
  | 0, _ => []
  | n + 1, bs => ofLe (bs.take k) :: elemsOf k n (bs.drop k)

/-- Bytes of a coded group's bit string. -/
def siltLSize (ew fw w n : Nat) : Nat := (ew + n * w + n * fw + 7) / 8

/-- Encode one group: the shortest of the three forms (R355). -/
def siltLGroup (fmt : Nat) (bs : List Byte) : List Byte :=
  let k := siltLWidth fmt
  let p := siltLBits fmt
  let n := bs.length / k
  let es := elemsOf k n bs
  let ex := es.map fun c => c / 2 ^ p.2 % 2 ^ p.1
  let sf := es.map fun c => c / 2 ^ (p.1 + p.2) * 2 ^ p.2 + c % 2 ^ p.2
  let base := ex.foldl min (2 ^ p.1)
  let w := bitLength (ex.foldl (fun m e => max m (e - base)) 0)
  let size := siltLSize p.1 (p.2 + 1) w n
  if bs.all (· == 0#8) then [0xFE#8]
  else if size ≤ bs.length then
    BitVec.ofNat 8 w :: leBytes size
      (base + 2 ^ p.1 * (packFields w (ex.map (· - base)) + 2 ^ (n * w) * packFields (p.2 + 1) sf))
  else 0xFF#8 :: bs

/-- Decode one group of `b` bytes; `left` is how many stream bytes lie before the expected end. -/
def siltLUngroup (fmt b left : Nat) (bs : List Byte) : SiltDec :=
  let k := siltLWidth fmt
  let p := siltLBits fmt
  let n := b / k
  if left = 0 then .corrupt
  else
    match bs with
    | [] => .more
    | g :: rest =>
      if g = 0xFE#8 then .ok (List.replicate b 0#8) 1
      else if g = 0xFF#8 then
        if left < 1 + b then .corrupt else if rest.length < b then .more else .ok (rest.take b) (1 + b)
      else
        let w := g.toNat
        if p.1 < w then .corrupt
        else
          let size := siltLSize p.1 (p.2 + 1) w n
          if left < 1 + size then .corrupt
          else if rest.length < size then .more
          else
            let v := ofLe (rest.take size)
            let base := v % 2 ^ p.1
            let ex := unpackFields w n (v / 2 ^ p.1)
            let sf := unpackFields (p.2 + 1) n (v / 2 ^ (p.1 + n * w))
            if ex.any (fun d => decide (2 ^ p.1 ≤ base + d)) || decide (v / 2 ^ (p.1 + n * w + n * (p.2 + 1)) ≠ 0) then .corrupt
            else
              .ok ((ex.zip sf).flatMap fun e =>
                leBytes k (e.2 / 2 ^ p.2 * 2 ^ (p.1 + p.2) + (base + e.1) * 2 ^ p.2 + e.2 % 2 ^ p.2)) (1 + size)

/-- Encode a frame: its groups of 64 bytes; `n` bounds them. -/
def siltLFrame (fmt : Nat) : Nat → List Byte → List Byte
  | 0, _ => []
  | n + 1, bs => if bs.isEmpty then [] else siltLGroup fmt (bs.take 64) ++ siltLFrame fmt n (bs.drop 64)

/-- Decode a frame of `b` bytes. -/
def siltLUnframe (fmt : Nat) : Nat → Nat → Nat → List Byte → SiltDec
  | 0, _, _, _ => .ok [] 0
  | n + 1, b, left, bs =>
    if b = 0 then .ok [] 0
    else
      match siltLUngroup fmt (min 64 b) left bs with
      | .more => .more
      | .corrupt => .corrupt
      | .ok o u =>
        match siltLUnframe fmt n (b - min 64 b) (left - u) (bs.drop u) with
        | .ok o' u' => .ok (o ++ o') (u + u')
        | r => r

/-! ### Silt-Z (R357) -/

/-- Tokens for a run of zero words. -/
def siltZZeros : Nat → Nat → List Byte
  | 0, _ => []
  | f + 1, n => if n = 0 then [] else BitVec.ofNat 8 (min 128 n - 1) :: siltZZeros f (n - min 128 n)

/-- Tokens for literal words. -/
def siltZLits : Nat → List Nat → List Byte
  | 0, _ => []
  | f + 1, ws => if ws.isEmpty then []
    else BitVec.ofNat 8 (0x7F + min 128 ws.length) :: ((ws.take 128).flatMap (leBytes 8)) ++ siltZLits f (ws.drop 128)

/-- The zero words at the head of a list. -/
def zeroRun : List Nat → Nat
  | 0 :: ws => zeroRun ws + 1
  | _ => 0

/-- Walk the words of a frame; `lits` are literal words not yet written, the last first. -/
def siltZWalk : Nat → List Nat → List Nat → List Byte
  | 0, lits, _ => siltZLits 5 lits.reverse
  | _ + 1, lits, [] => siltZLits 5 lits.reverse
  | f + 1, lits, w :: ws =>
    let z := zeroRun (w :: ws)
    if 2 ≤ z then siltZLits 5 lits.reverse ++ siltZZeros 5 z ++ siltZWalk f [] ((w :: ws).drop z)
    else siltZWalk f (w :: lits) ws

/-- Encode a frame of at most 512 words. -/
def siltZFrame (bs : List Byte) : List Byte := siltZWalk 513 [] (elemsOf 8 (bs.length / 8) bs)

/-- Decode a frame of `m` words. -/
def siltZUnframe : Nat → Nat → Nat → List Byte → SiltDec
  | 0, _, _, _ => .ok [] 0
  | f + 1, m, left, bs =>
    if m = 0 then .ok [] 0
    else if left = 0 then .corrupt
    else
      match bs with
      | [] => .more
      | t :: rest =>
        let n := if t.toNat < 0x80 then t.toNat + 1 else t.toNat - 0x7F
        let u := if t.toNat < 0x80 then 1 else 1 + 8 * n
        if m < n ∨ left < u then .corrupt
        else if rest.length + 1 < u then .more
        else
          let o := if t.toNat < 0x80 then List.replicate (8 * n) 0#8 else rest.take (8 * n)
          match siltZUnframe f (m - n) (left - u) (rest.drop (u - 1)) with
          | .ok o' u' => .ok (o ++ o') (u + u')
          | r => r

/-! ### Silt-Q (R359 to R362) -/

/-- What one block of SILT_Q_ENC leaves: its bytes on the stream, the residuals, and the flags raised. -/
structure QBlock where
  bytes : List Byte
  residuals : List Nat
  flags : Flags
  deriving DecidableEq, Repr

/-- The least number of fraction places g of R360. -/
def siltQG : Elem → Int
  | .f4 => 3 | .e4m3 => 11 | _ => 18

/-- `k * m * 2^x` as an integer; exact where R360 makes it one. -/
def scaledInt (neg : Bool) (m : Nat) (x : Int) : Int :=
  sgn neg (if 0 ≤ x then m * 2 ^ x.toNat else m / 2 ^ (-x).toNat)

/-- One block of SILT_Q_ENC (R360): elements, residuals, exponent E and bias B. -/
def siltQBlock (f : Elem) (E B : Int) (xs : List Val) (rs : List Nat) : QBlock :=
  let ent := xs.map (fixEnter E 1)
  let sums := (ent.zip rs).map fun p => fixAdd p.1.1 p.2
  let vs := sums.map fun v => fixExit E v.1
  let flags := (ent ++ sums).foldl (fun g p => g ||| p.2) 0
  let pad := 32 - xs.length
  let emin := E - B + siltQG f
  let a := amax vs
  let s0 := max (-127) (4 * emin)
  let sc := unsigned 8 (scaleSearch a.1 (a.2 - B) (blockMax f) (127 - s0).toNat s0)
  let nanBlock := decide (f = .f4) && vs.any Val.isNan
  let size := 4 * f.bits
  if nanBlock then
    ⟨0x80#8 :: List.replicate size 0#8, sums.map (·.1),
      flags ||| fIf (vs.any fun v => !v.isNan) fNAN_CREATED⟩
  else
    let p := scaleParts sc
    let outs := vs.map fun v => encodeVal f ⟨false, false⟩ 0 (-B - p.2) p.1 v
    let left := (sums.zip outs).map fun q =>
      if q.1.1 = fixNan then fixNan
      else
        match f.decode q.2.code with
        | .fin n m e => unsigned 64 (signed 64 q.1.1 - scaledInt n (m * p.1) (e + p.2 + B - E))
        | _ => q.1.1
    ⟨BitVec.ofNat 8 sc :: packElems f (outs.map (·.code) ++ List.replicate pad 0), left,
      flags ||| orFlags (outs.map fun o => { o with flags := o.flags &&& (fINEXACT ||| fSATURATED) })⟩

/-- The values of a block of a Silt-Q stream: element format, BIAS, and the block's bytes, its scale byte first
(R359, R362). -/
def siltQVals (f : Elem) (bias : Int) (n : Nat) (bs : List Byte) : List Val :=
  let cs := unpackElems f n (bs.drop 1)
  cs.map fun c => blockElem f (ofLe (bs.take 1)) bias c

end Sys2Proof.Machine
end

