-- ==== Sys2Proof/Machine/Lists.lean ====
section
/-!
DEFINITION. Lists: R337 to R351, R364 to R370. Acceptance, positions and progress, descriptors and their checks, and
the ends of lists, for the copy engines and, where R429 says so, for the fabric transmit paths.
-/
namespace Sys2Proof.Machine

/-- The first entry of an engine's list table, and the engine and entry of a key. -/
def listKey (e n : Nat) : Nat := 64 * e + n

/-- Whether a copy engine is device-bound (R371). -/
def deviceBound (e : Nat) : Bool := decide (2 ≤ e % 4)

/-- The region of an engine of a list table. -/
def engRegion (e : Nat) : Nat := if e < 16 then e / 4 else e - 16

/-! ### Descriptors -/

/-- A descriptor as it lies in a list: its first words (zero where the list ends first), its TYPE, its units, whether
one of its units holds poison, and whether it runs past the end of its list. -/
structure Dsc where
  ty : Nat
  ws : List Nat
  n : Nat
  bytes : List Byte
  poison : Bool
  cut : Bool
  deriving DecidableEq, Repr

def Dsc.w (d : Dsc) (i : Nat) : Nat := d.ws.getD i 0
def Dsc.f (d : Dsc) (i hi lo : Nat) : Nat := bitsOf (d.w i) hi lo

/-- Units of a descriptor by its TYPE and its BYTES field (R341, R430). -/
def descUnits (fab : Bool) (ty bytes : Nat) : Nat :=
  if fab then (if ty < 2 then 1 else 2)
  else
    match ty with
    | 0x04 => 1 + (bytes + 1 + 31) / 32
    | 0x08 | 0x10 | 0x18 | 0x19 | 0x1A | 0x1B | 0x1C | 0x1D => 2
    | _ => 1

/-- The descriptor whose first unit is number `u`. -/
def descAt (fab : Bool) (units : List (List Byte × Bool)) (u : Nat) : Dsc :=
  let rest := units.drop u
  let head := (rest.headD ([], false)).1
  let ty := ofLe (head.take 1)
  let n := descUnits fab ty (ofLe ((head.drop 6).take 1))
  let mine := rest.take n
  let bytes := mine.flatMap (·.1)
  { ty := ty, ws := (List.range 16).map fun i => ofLe ((bytes.drop (4 * i)).take 4), n := n, bytes := bytes
    poison := mine.any (·.2), cut := decide (rest.length < n) }

def Dsc.sigOn (d : Dsc) : Bool := bitOf (d.w 0) 8
def Dsc.gateOn (d : Dsc) : Bool := bitOf (d.w 0) 9
def Dsc.dhint (d : Dsc) : Nat := d.f 0 15 14
def Dsc.shint (d : Dsc) : Nat := d.f 0 13 12

/-- A 48-bit address in words i and i + 1. -/
def Dsc.addr (d : Dsc) (i : Nat) : Nat := d.w i + d.f (i + 1) 15 0 * 2 ^ 32

/-- A 40-bit length or count in words i and i + 1. -/
def Dsc.count (d : Dsc) (i : Nat) : Nat := d.w i + d.f (i + 1) 7 0 * 2 ^ 32

/-! ### Progress (R349, R351) -/

/-- The 64-byte blocks that a range touches. -/
def blocks64 (a n : Nat) : Nat := if n = 0 then 0 else (a + n - 1) / 64 + 1 - a / 64

/-- Packets of a fabric descriptor: 576 payload bytes each, READ_REQs of 32 KiB, 64 reduction elements, or the blocks
that 36 slots hold (R418, R431). -/
def fabPackets (ty count dfmt : Nat) : Nat :=
  match ty with
  | 0x20 => (count + 575) / 576
  | 0x21 => (count + 32767) / 32768
  | 0x22 => (count + 63) / 64
  | 0x23 => let nb := if dfmt = 6 then 33 else 17; ((count + 31) / 32 + nb - 1) / nb
  | 0x24 => 1
  | 0x25 => (count + 31) / 32
  | _ => 0

/-- Progress units of a descriptor. -/
def Dsc.units (d : Dsc) (fab : Bool) : Nat :=
  if fab then fabPackets d.ty (d.count 7) (d.f 10 23 20)
  else
    match d.ty with
    | 0x02 | 0x03 => blocks64 (d.addr 4) (d.count 6)
    | 0x04 | 0x08 => 1
    | 0x10 | 0x1C | 0x1D => (d.count 10 + 31) / 32
    | 0x18 | 0x19 | 0x1A | 0x1B => (d.count 10 + 4095) / 4096
    | _ => 0

/-- Progress units of the descriptors of a list from unit `u` on; `n` bounds them. -/
def unitsFrom (fab : Bool) (units : List (List Byte × Bool)) : Nat → Nat → Nat
  | 0, _ => 0
  | n + 1, u =>
    if units.length ≤ u then 0
    else
      let d := descAt fab units u
      d.units fab + unitsFrom fab units n (u + d.n)

def CList.total (l : CList) (fab : Bool) : Nat := unitsFrom fab l.units l.units.length 0

def CList.permille (l : CList) (fab : Bool) : Nat :=
  let t := l.total fab
  if t = 0 then (if l.units.length ≤ l.unit ∧ l.fins.isEmpty then 1000 else 0) else min 1000 (1000 * l.done / t)

/-- Element bits of a format code; 0 for a reserved one. -/
def fmtBits (c : Nat) : Nat := ((Fmt.ofCode c).map (·.elem.bits)).getD 0

/-- The source byte offset that a descriptor has reached (R351). -/
def Dsc.srcPos (d : Dsc) (off enc : Nat) : Nat :=
  match d.ty with
  | 0x10 | 0x1C => off * fmtBits (d.f 1 19 16) / 8
  | 0x19 | 0x1B | 0x1D => if off = 0 then 0 else enc
  | 0x22 | 0x23 => off * fmtBits (d.f 10 19 16) / 8
  | 0x25 => 8 * off
  | _ => off

namespace State

/-- The source position of packets and responses of a list that are not yet acknowledged or written. -/
def fabOpen (s : State) (k : Nat) : List (Nat × Nat) :=
  (s.fab.conns.flatMap fun c => (c.2.held ++ c.2.ready).filterMap fun h =>
      if h.list = some k then some (h.desc, h.spos) else none)
    ++ s.fab.tags.filterMap fun t => if t.2.list = k then some (t.2.desc, t.2.spos) else none

/-- The position of a list: its first chunk that is not committed (R351). -/
def listPos (s : State) (k : Nat) (l : CList) : Nat :=
  let here : Nat × Nat := (l.desc, (descAt (decide (16 ≤ k / 64)) l.units l.unit).srcPos l.off l.enc)
  let early (a b : Nat × Nat) : Nat × Nat := if b.1 < a.1 ∨ (b.1 = a.1 ∧ b.2 < a.2) then b else a
  let p := ((l.pend.map fun q => (q.desc, q.spos)) ++ s.fabOpen k).foldl early here
  p.1 % 256 * 2 ^ 56 + p.2 % 2 ^ 56

/-! ### Counters of a CE unit -/

def ceCnt (e c : Nat) : Nat := Reg.CE_DESC_CNT (e / 4) (e % 4) + 4 * c

/-- Count bytes in units of 64 KiB: 0 WR, 1 SILT_IN, 2 SILT_OUT (R371). -/
def ceBytes (s : State) (e c n : Nat) : State :=
  if 16 ≤ e then s
  else
    let v := tget (fun _ => 0) s.lbytes (4 * e + c) + n
    { (s.bumpBy (ceCnt e (2 + c)) (v / 65536)) with lbytes := tset (fun _ => 0) s.lbytes (4 * e + c) (v % 65536) }

/-! ### Acceptance and end (R337, R370) -/

def engLists (s : State) (e : Nat) : List (Nat × CList) := s.lists.filter fun l => decide (l.1 / 64 = e)

/-- A field of the record of a partition (R505, R506). -/
def partRec (s : State) (p off n : Nat) : Nat :=
  ofLe (((tget (fun _ => ({} : Part)) s.parts p).record.drop off).take n)

/-- The entry a list of a context takes, if the engine has an entry and room for its units; on a transmit path, also
within the partition's FLISTS and FUNITS (R337, R509). -/
def listRoom (s : State) (e x n : Nat) : Option Nat :=
  let mine := s.engLists e
  let units (ls : List (Nat × CList)) : Nat := ls.foldl (fun a l => a + l.2.units.length) 0
  let p := (s.context x).part
  let same := mine.filter fun l => decide ((s.context l.2.ctx).part = p)
  let share := decide (16 ≤ e) && (decide (s.partRec p (0x40 + 32 * (e - 16) + 0x12) 1 ≤ same.length)
    || decide (s.partRec p (0x40 + 32 * (e - 16) + 0x14) 2 < units same + n))
  if 2048 < units mine + n ∨ share then none
  else (List.range 64).find? fun i => mine.all fun l => decide (l.1 ≠ listKey e i)

/-- Accept a list. -/
def acceptList (s : State) (e i x : Nat) (units : List (List Byte × Bool)) (lcore : Option Nat) (cmd : Option Cmd) : State :=
  { (s.setList (listKey e i) { id := s.nextList, ctx := x, units := units, lcore := lcore, cmd := cmd }) with nextList := s.nextList + 1 }

/-- Whether everything a list issued is done. -/
def listQuiet (s : State) (k : Nat) (l : CList) : Bool := l.pend.isEmpty && l.fins.isEmpty && (s.fabOpen k).isEmpty

/-- A list leaves the list table: its record, or the flag word of an ENQ list, is delivered. -/
def listGone (s : State) (k : Nat) (l : CList) : State :=
  let pos := s.listPos k l
  let s := { s with lists := tdel k s.lists }
  let s := if l.status = 0 ∧ k / 64 < 16 then s.bump (ceCnt (k / 64) 1) else s
  let s := match l.lcore.bind s.coreOf with
    | some c =>
      let a := Reg.ARITH_FLAGS_SE (c / 26) (c % 26)
      s.setCfg a (s.cfg a ||| BitVec.ofNat 32 l.flags.toNat)
    | none => s
  let s := if l.lcore.isSome ∧ 0x11 ≤ l.status then
      s.event (s.context l.ctx).part 5 0 (l.status + pos / 2 ^ 56 * 256 + l.conn * 65536)
    else s
  match l.cmd with
  | some c =>
    if l.status = 0xD then s.complete c 0x14 0 l.flags.toNat pos
    else s.complete c (if l.status = 0 then 0 else 0x13) l.status l.flags.toNat pos
  | none => s

/-- A list that has nothing more to issue leaves once all it issued is done. -/
def listSettle (s : State) (k : Nat) : State :=
  match s.list k with
  | none => s
  | some l =>
    if s.listQuiet k l ∧ (l.st = .ending ∨ (l.units.length ≤ l.unit ∧ l.st ≠ .accepted)) then s.listGone k l else s

/-- Stop a list's issue for good, with its status (R364, R367). -/
def listStop (s : State) (k status : Nat) : State :=
  match s.list k with
  | none => s
  | some l =>
    let s := if l.st = .gated then s.unwait (engWaiter (k / 64)) else s
    (s.setList k { l with st := .ending, status := status }).listSettle k

/-- A list aborts: its chunk writes nothing, and its context is suspended (R365). -/
def listAbort (s : State) (k status : Nat) : State :=
  match s.list k with
  | none => s
  | some l =>
    let s := if k / 64 < 16 then (s.bump (ceCnt (k / 64) 5)).bumpIf (decide (status = 0xA)) (ceCnt (k / 64) 6) else s
    let eng := if k / 64 < 16 then k / 64 else k / 64 - 16
    let pos := l.desc % 256 * 2 ^ 56 + (descAt (decide (16 ≤ k / 64)) l.units l.unit).srcPos l.off l.enc % 2 ^ 56
    (s.listStop k status).suspend l.ctx .listAbort (status * 256 + eng * 65536) pos

/-! ### Chunks in flight (R339, R350, R368) -/

/-- A write-through entry has been acknowledged: a chunk with none left is committed. -/
def chunkAck (s : State) (e n w : Nat) : State :=
  let k := listKey e n
  match if n < 64 then s.list k else none with
  | none => s
  | some l =>
    let ps := l.pend.map fun p => { p with wts := p.wts.filter (· ≠ w) }
    let don := ps.filter (·.wts.isEmpty)
    let s := s.setList k { l with pend := ps.filter (!·.wts.isEmpty), done := l.done + don.foldl (fun a p => a + p.units) 0 }
    (s.ceBytes e 0 (don.foldl (fun a p => a + p.bytes) 0)).listSettle k

/-- A write toward the host is abandoned: the list stops at the first chunk that holds such a write (R368). -/
def chunkLost (s : State) (e n w : Nat) : State :=
  let k := listKey e n
  match if n < 64 then s.list k else none with
  | none => s
  | some l =>
    match l.pend.find? fun p => decide (w ∈ p.wts) with
    | none => s
    | some p =>
      let kept := l.pend.takeWhile fun q => decide (q ≠ p)
      let again := l.fins.filter fun f => decide (f.desc < p.desc)
      let s := if l.st = .gated then s.unwait (engWaiter e) else s
      (s.setList k { l with
        st := .stopped, status := 0xC, pend := kept, fins := again, desc := p.desc, unit := p.unit, off := p.off, enc := p.enc
        rng := p.rng, open_ := true, issued := p.before, done := p.before - kept.foldl (fun a q => a + q.units) 0 }).bumpIf (decide (l.status ≠ 0xC)) (ceCnt e 7)

end State

end Sys2Proof.Machine
end

