-- ==== Sys2Proof/Machine/FabPkt.lean ====
section
/-!
DEFINITION. Packets and connections of the fabric: R409 to R421, R435. The layout of packets, the order in which a
connection sends and acknowledges, credit, and the loss of a connection.
-/
namespace Sys2Proof.Machine

/-! ### Packets (R416 to R418) -/

/-- One bit of CRC-32C, reflected. -/
def crcBit (c : Nat) : Nat := if c % 2 = 1 then c / 2 ^^^ 0x82F63B78 else c / 2

def crcByte (c : Nat) (b : Byte) : Nat := Nat.repeat crcBit 8 (c ^^^ b.toNat)

/-- CRC-32C of a run of bytes. -/
def crc32c (bs : List Byte) : Nat := bs.foldl crcByte 0xFFFFFFFF ^^^ 0xFFFFFFFF

/-- Bits [hi:lo] of the operation header. -/
def Pkt.o (p : Pkt) (hi lo : Nat) : Nat := bitsOf p.op (hi - 32) (lo - 32)

def Pkt.routing (p : Pkt) : Nat :=
  p.ty * 2 ^ 120 + p.len * 2 ^ 114 + p.dstId * 2 ^ 96 + p.dstEp * 2 ^ 88 + p.dstConn * 2 ^ 76 + p.srcId * 2 ^ 58
    + p.srcEp * 2 ^ 50 + p.psn * 2 ^ 26 + b2n p.rsig * 2 ^ 25 + p.cgen * 2 ^ 17 + p.rsv

/-- The bytes of a packet with a CRC. -/
def Pkt.bytes (p : Pkt) (crc : Nat) : List Byte := leBytes 16 p.routing ++ leBytes 16 (p.op * 2 ^ 32 + crc) ++ p.payload

def Pkt.sum (p : Pkt) : Nat := crc32c (p.bytes 0)

/-- The packet with its CRC in place. -/
def Pkt.sealed (p : Pkt) : Pkt := { p with crc := p.sum }

def Pkt.wire (p : Pkt) : List Byte := p.bytes p.crc

/-- Slots a packet takes. -/
def Pkt.slots (p : Pkt) : Nat := p.len + 2

/-- The LEN values of a TYPE (R418). -/
def lenOk (ty len : Nat) : Bool :=
  match ty with
  | 1 | 3 | 5 => decide (1 ≤ len ∧ len ≤ 36)
  | 4 => decide (len ∈ [8, 16, 24, 32])
  | 2 | 6 | 7 => decide (len = 0)
  | _ => false

def pktOf (h o : Nat) (payload : List Byte) : Pkt :=
  { ty := bitsOf h 127 120, len := bitsOf h 119 114, dstId := bitsOf h 113 96, dstEp := bitsOf h 95 88, dstConn := bitsOf h 87 76
    srcId := bitsOf h 75 58, srcEp := bitsOf h 57 50, psn := bitsOf h 49 26, rsig := bitOf h 25, cgen := bitsOf h 24 17
    rsv := bitsOf h 16 0, op := bitsOf o 127 32, crc := bitsOf o 31 0, payload := payload }

/-- The packets of a block's slots, up to a slot that fails step 1 of R422, which cuts the block short. -/
def pktsOf : Nat → List Byte → List Pkt × Bool
  | 0, _ => ([], false)
  | n + 1, bs =>
    if bs.isEmpty then ([], false)
    else
      let h := ofLe (bs.take 16)
      let ty := bitsOf h 127 120
      let len := bitsOf h 119 114
      if ty = 0 then (if h = 0 then pktsOf n (bs.drop 16) else ([], true))
      else if !lenOk ty len ∨ bs.length < 16 * (len + 2) then ([], true)
      else
        let r := pktsOf n (bs.drop (16 * (len + 2)))
        (pktOf h (ofLe ((bs.drop 16).take 16)) ((bs.drop 32).take (16 * len)) :: r.1, r.2)

/-! ### Operation headers -/

def opHandle (handle offset rest : Nat) : Nat := handle * 2 ^ 64 + offset * 2 ^ 28 + rest

/-- Bytes of padding after a payload of `n` bytes, and its slots. -/
def slotsFor (n : Nat) : Nat := (n + 15) / 16
def padFor (n : Nat) : Nat := 16 * slotsFor n - n

def padded (bs : List Byte) : List Byte := bs ++ List.replicate (padFor bs.length) 0#8

/-! ### Connections -/

/-- Word `w` of `FAB.CONN` of a connection. -/
def connReg (c w : Nat) : Nat := Reg.FAB_CONN_W0 (c / 1024) (c % 1024) + 4 * w

/-- The place of a PSN in the window that begins at `a`. -/
def psnFrom (a p : Nat) : Nat := (p + 2 ^ 24 - a) % 2 ^ 24

namespace State

def devId (s : State) : Nat := s.fld (Reg.FAB_ID 0) 25 8
def devEp (s : State) : Nat := s.fld (Reg.FAB_ID 0) 7 0
def devOk (s : State) : Bool := s.bit (Reg.FAB_ID 0) 31

def conn (s : State) (c : Nat) : Conn := tget (fun _ => {}) s.fab.conns c
def setFab (s : State) (f : FabSt) : State := { s with fab := f }
def setConn (s : State) (c : Nat) (k : Conn) : State := s.setFab { s.fab with conns := tset (fun _ => {}) s.fab.conns c k }

def connPart (s : State) (c : Nat) : Nat := s.fld (connReg c 0) 29 27
def connGen (s : State) (c : Nat) : Nat := s.fld (connReg c 0) 23 16
def connLodes (s : State) (c : Nat) : Nat := s.fld (connReg c 0) 15 0
def peerId (s : State) (c : Nat) : Nat := s.fld (connReg c 1) 25 8
def peerEp (s : State) (c : Nat) : Nat := s.fld (connReg c 1) 7 0
def peerConn (s : State) (c : Nat) : Nat := s.fld (connReg c 2) 27 16
def creditInit (s : State) (c : Nat) : Nat := s.fld (connReg c 2) 10 0

/-- A loopback connection (R411). -/
def loopback (s : State) (c : Nat) : Bool := decide (s.peerId c = s.devId)

def lode (s : State) (l : Nat) : LodeSt := tget (fun _ => {}) s.lodes l

/-- The lode a connection selects: the lowest ACTIVE one of LODES (R413). -/
def pickLode (s : State) (c : Nat) : Option Nat :=
  (List.range 16).find? fun l => bitOf (s.connLodes c) l && decide ((s.lode l).state = .active)

/-- A packet of a connection without its PSN. -/
def mkPkt (s : State) (c ty op : Nat) (rsig : Bool) (payload : List Byte) : Pkt :=
  { ty := ty, len := payload.length / 16, dstId := s.peerId c, dstEp := s.peerEp c, dstConn := s.peerConn c
    srcId := s.devId, srcEp := s.devEp, rsig := rsig, cgen := s.connGen c, op := op, payload := payload }

/-- A record of a sequenced packet of a traced connection (R633, R634). -/
def trcFab (s : State) (c ty psn pty status : Nat) : State :=
  let r := c / 1024
  let traced := (List.range 4).any fun n => s.bit (Reg.TRC_FAB r n) 31 && decide (s.fld (Reg.TRC_FAB r n) 9 0 = c % 1024)
  if s.bit (Reg.TRC_CTL r) 31 && s.bit (Reg.TRC_CTL r) 29 && traced then
    s.trcStore r ty 31 0 (c % 1024 + psn * 2 ^ 10 + pty * 2 ^ 34 + status % 64 * 2 ^ 42)
  else s

/-- A packet reaches the receive path of the connection it names (R411). -/
def arrive (s : State) (lode : Option Nat) (p : Pkt) : State :=
  let r := p.dstConn / 1024
  s.setFab { s.fab with rx := tset (fun _ => []) s.fab.rx r (tget (fun _ => []) s.fab.rx r ++ [(lode, p)]) }

/-! ### Rates (R415) -/

def rateKey (c part : Nat) : Nat := 8 * (c / 1024) + part

/-- Whether the rate of a connection's partition lets `n` slots go. -/
def rateOk (s : State) (c n : Nat) : Bool :=
  decide (s.fld (Reg.FAB_TXRATE (c / 1024) (s.connPart c)) 15 0 = 0)
    || decide (n ≤ tget (fun _ => 0) s.fab.txtok (rateKey c (s.connPart c)))

def takeRate (s : State) (c n : Nat) : State :=
  let k := rateKey c (s.connPart c)
  s.setFab { s.fab with txtok := tset (fun _ => 0) s.fab.txtok k (tget (fun _ => 0) s.fab.txtok k - n) }

/-! ### Sending (R414, R415, R419) -/

/-- Whether a connection may send the packet it has ready. -/
def mayNew (s : State) (c : Nat) : Bool :=
  let k := s.conn c
  match k.ready.head? with
  | some h => decide (k.state = .opened) && decide (0 < k.credit) && s.rateOk c h.pkt.slots
  | none => false

/-- Send the packet a connection has ready: its PSN, its credit, its trace record. -/
def sendNew (s : State) (c : Nat) : Option Pkt × State :=
  let k := s.conn c
  match k.ready with
  | [] => (none, s)
  | h :: rest =>
    let p := { h.pkt with psn := k.tx }.sealed
    let s := s.setConn c { k with
      tx := (k.tx + 1) % 2 ^ 24, credit := k.credit - 1, ready := rest, held := k.held ++ [{ h with pkt := p }] }
    (some p, ((s.takeRate c p.slots).bump (Reg.FAB_TX_PKT_CNT (c / 1024))).trcFab c 7 p.psn p.ty 0)

/-- The packet of an ACK. -/
def ackPkt (s : State) (c : Nat) (a : AckOut) : Pkt :=
  (s.mkPkt c 7 (a.psn * 2 ^ 72 + a.status * 2 ^ 64 + a.spsn * 2 ^ 40 + a.flags * 2 ^ 30 + a.credit * 2 ^ 19 + b2n a.svalid * 2 ^ 18)
    false []).sealed

/-- Send the oldest ACK of a connection; the credit it returns may be used again. -/
def sendAck (s : State) (c : Nat) : Option Pkt × State :=
  let k := s.conn c
  match k.acks with
  | [] => (none, s)
  | a :: rest =>
    (some (s.ackPkt c a), (s.setConn c { k with acks := rest, spent := k.spent - a.credit }).bump (Reg.FAB_TX_PKT_CNT (c / 1024)))

/-- Send again the first held packet that is to be sent again (R420, R421). -/
def sendAgain (s : State) (c : Nat) : Option Pkt × State :=
  let k := s.conn c
  match k.again with
  | [] => (none, s)
  | n :: rest =>
    let s := s.setConn c { k with again := rest }
    match k.held.find? fun h => decide (h.pkt.psn = n) with
    | some h => (some h.pkt, s.bump (Reg.FAB_RETX_CNT (c / 1024)))
    | none => (none, s)

/-- A loopback connection's packets pass to the receive path without a lode (R411). `n` bounds them. -/
def pump (c : Nat) : Nat → State → State
  | 0, s => s
  | n + 1, s =>
    let k := s.conn c
    let o := if !k.acks.isEmpty then s.sendAck c else if !k.again.isEmpty then s.sendAgain c
      else if s.mayNew c then s.sendNew c else (none, s)
    match o.1 with
    | some p => pump c n (o.2.arrive none p)
    | none => if k.again.isEmpty then o.2 else pump c n o.2

def pumpAll (s : State) (c : Nat) : State :=
  let k := s.conn c
  if k.state = .opened ∧ s.loopback c then pump c (k.acks.length + k.again.length + k.ready.length) s else s

/-- Hand a packet to a connection. -/
def queuePkt (s : State) (c : Nat) (h : HeldPkt) : State :=
  let k := s.conn c
  (s.setConn c { k with ready := k.ready ++ [h] }).pumpAll c

/-- Queue an ACK; a plain one covers and takes over a plain one that still waits (R423). -/
def queueAck (s : State) (c : Nat) (a : AckOut) : State :=
  let k := s.conn c
  let acks := match k.acks.getLast? with
    | some b => if b.svalid || a.svalid then k.acks ++ [a] else k.acks.dropLast ++ [{ a with credit := a.credit + b.credit }]
    | none => [a]
  (s.setConn c { k with acks := acks }).pumpAll c

/-! ### Loss (R412, R433, R435) -/

/-- A peg message is lost (R435). -/
def sigLost (s : State) (r x dev : Nat) : State :=
  (s.bump (Reg.FAB_SIG_LOST_CNT r)).event (s.context x).part 3 0 x dev

/-- A list ends because of what a connection brought. -/
def listFail (s : State) (k status c : Nat) : State :=
  match s.list k with
  | some l => if l.st = .ending then s else (s.setList k { l with conn := c }).listStop k status
  | none => s

/-- Whether a list's descriptor under way waits on a connection: it has passed its checks there, or has packets or
responses outstanding. -/
def listOn (s : State) (c : Nat) (e : Nat × CList) : Bool :=
  let d := descAt true e.2.units e.2.unit
  let k := s.conn c
  (e.2.open_ && decide (0x20 ≤ d.ty ∧ d.ty ≠ 0x25) && decide (d.f 1 27 16 = c))
    || (k.held ++ k.ready).any (fun h => decide (h.list = some e.1))
    || s.fab.tags.any (fun t => decide (t.2.conn = c ∧ t.2.list = e.1))

/-- An OPEN connection becomes BROKEN with a cause (R412). -/
def connBreak (s : State) (c cause : Nat) : State :=
  let k := s.conn c
  if k.state ≠ .opened then s
  else
    let r := c / 1024
    let ls := (s.engLists (16 + r)).filter (s.listOn c)
    let msgs := (k.held ++ k.ready).filterMap (·.msg)
    let s := s.setConn c { k with state := .broken, ready := [], held := [], again := [], acks := [], act := none }
    let s := (s.setFld (connReg c 0) 26 24 cause).bump (Reg.FAB_BROKEN_CNT r)
    let s := s.setFab { s.fab with tags := s.fab.tags.filter fun t => decide (t.2.conn ≠ c) }
    let s := ls.foldl (fun s e => s.listFail e.1 0x11 c) s
    let s := msgs.foldl (fun s m => s.sigLost r m.1 m.2) s
    s.event (s.connPart c) 4 cause c

/-- A drop or refusal that counts toward DROPS (R422). -/
def connDrop (s : State) (c : Nat) : State :=
  let k := s.conn c
  let r := c / 1024
  let s := s.setConn c { k with drops := min 0xFFFF (k.drops + 1) }
  if k.state = .opened ∧ s.fld (Reg.FAB_TIMING r) 15 8 < k.drops + 1 then
    (s.connBreak c 3).raise (srcRegion r 13) 0x403 none 6 c c
  else s

/-- RETRY_MAX, 0 taken as 1. -/
def retryMax (s : State) (r : Nat) : Nat := max 1 (s.fld (Reg.FAB_TIMING r) 7 0)

/-- Every held packet is to be sent again, in order. -/
def resendAll (s : State) (c : Nat) : State :=
  let k := s.conn c
  (s.setConn c { k with again := k.held.map (·.pkt.psn) }).pumpAll c

/-! ### Lodes of a connection (R413, R421) -/

/-- A lode becomes ACTIVE: connections without a lode that may use it take it. -/
def fabLodeUp (s : State) (l : Nat) : State :=
  s.fab.conns.foldl (fun s e =>
    let k := s.conn e.1
    if k.state = .opened ∧ k.act = none ∧ bitOf (s.connLodes e.1) l then s.setConn e.1 { k with act := some l } else s) s

/-- The session of a lode ends: the connections it served move on and send again what they hold. -/
def fabLodeDown (s : State) (l : Nat) : State :=
  s.fab.conns.foldl (fun s e =>
    let k := s.conn e.1
    if k.act = some l then s.setConn e.1 { k with act := s.pickLode e.1, again := k.held.map (·.pkt.psn) } else s) s

/-! ### Peg messages (R435) -/

/-- The connection of a peg message. -/
def msgConn (s : State) (r x dev : Nat) : Option Nat :=
  ((List.range 1024).map (· + 1024 * r)).find? fun c =>
    decide ((s.conn c).state = .opened) && (s.conn c).close.isNone && decide (s.connPart c = (s.context x).part) && decide (s.peerId c = dev)

/-- A peg message is handed to a region's transmit path: it waits on its connection, or is lost. -/
def pegMsg (s : State) (r x dev index amount : Nat) : State :=
  match s.msgConn r x dev with
  | some c => s.queuePkt c { pkt := s.mkPkt c 6 (amount * 2 ^ 80 + index * 2 ^ 65) false [], msg := some (x, dev) }
  | none => s.sigLost r x dev

end State

/-- E2E_TIMEOUT: UNACK has not moved for E2E_TO while packets are held: they are sent again, and RETRY_MAX such timeouts
break the connection (R420). -/
def execE2eTimeout (conn : Fin 4096) (s : State) : Res :=
  let k := s.conn conn
  when (decide (k.state = .opened) && !k.held.isEmpty && !s.sump.fatal) (fun s =>
    let n := k.timeouts + 1
    let s := s.setConn conn { k with timeouts := min 255 n }
    if s.retryMax (conn / 1024) ≤ n then s.connBreak conn 1 else s.resendAll conn) s

/-- NO_LODE_TIMEOUT: no lode of LODES has been ACTIVE for RETRY_MAX × E2E_TO (R413). -/
def execNoLodeTimeout (conn : Fin 4096) (s : State) : Res :=
  when (decide ((s.conn conn).state = .opened) && (s.pickLode conn).isNone && !s.loopback conn && !s.sump.fatal)
    (fun s => s.connBreak conn 2) s

/-- TXRATE_PERIOD: 64 ns pass for a partition's bucket in a region (R415). -/
def execTxratePeriod (region : Fin 4) (part : Fin 8) (s : State) : Res :=
  when (!s.sump.fatal) (fun s =>
    let reg := Reg.FAB_TXRATE region part
    let k := 8 * region.val + part.val
    let n := min (s.fld reg 31 16) (tget (fun _ => 0) s.fab.txtok k + s.fld reg 15 0)
    let s := s.setFab { s.fab with txtok := tset (fun _ => 0) s.fab.txtok k n }
    s.fab.conns.foldl (fun s e => if e.1 / 1024 = region.val then s.pumpAll e.1 else s) s) s

/-- CONN_DROP_WINDOW: a millisecond of a connection's DROPS ends (R422). -/
def execConnDropWindow (conn : Fin 4096) (s : State) : Res :=
  when (decide ((s.conn conn).state ≠ .closed)) (fun s => s.setConn conn { s.conn conn with drops := 0 }) s

end Sys2Proof.Machine
end

