-- ==== Sys2Proof/Machine/Sequencer.lean ====
section
/-!
DEFINITION. The sequencer: R117, R142, R158 to R199. Issue of each trick, the fetch window, waits, stops and drains,
and the end of a hand.
-/
namespace Sys2Proof.Machine

/-! ### Surroundings -/

/-- The copy engines of a core's region that the context's partition owns, as (class, unit) of an ENQ (R185). -/
def State.ownedEngines (s : State) (x r : Nat) : List (Nat × Nat) :=
  let ce := Reg.PART_CE (s.context x).part
  ([(0, 0), (0, 1), (1, 0), (1, 1)] : List (Nat × Nat)).filter fun e =>
    s.bit ce (8 * e.1 + 2 * r + e.2)

def State.rowEnv (s : State) (c : Nat) : RowEnv :=
  let k := s.core c
  let x := k.ctx.getD 0
  ⟨k, false, if k.ctx.isSome then s.fld (Reg.PEG_CTX 0 x) 31 16 else 0, s.ownedEngines x (c / 26)⟩

def Core.rows (k : Core) : Nat := 2048 * k.tbl

/-- Whether the window holds row p and the 8 rows after it, or all up to the last (R189). -/
def Core.windowFull (k : Core) : Bool :=
  (List.range (min 9 (k.rows - k.row))).all fun i => (tfind k.window (k.row + i)).isSome

/-- Whether the sequencer may issue its next row. -/
def Core.canIssue (k : Core) : Bool :=
  k.pwr == .run && !k.isolated && k.seq == .run && k.stop.isNone && !k.halt && k.enq.isNone && decide (k.row < k.rows)
    && k.windowFull

namespace State

/-- A sequencer fault (R163): the reason and row are recorded and reported, and the context is suspended. -/
def seqFault (s : State) (c reason row : Nat) : State :=
  let k := s.core c
  let s := s.setCfg (Reg.SEQ_FAULT (c / 26) (c % 26)) (BitVec.ofNat 32 (2 ^ 31 + reason * 65536 + row))
  let s := s.setCore c { k with seq := .fault, wait := none }
  let s := s.raise (srcCore c 2) 0x016 k.ctx 0 0 reason
  match k.ctx with
  | some x => s.suspend x .seqFault (reason * 256 + row * 65536) (k.lcore.getD 0)
  | none => s

/-- Issue goes on at a row (R181): a transfer empties the window; the row after the last is a RUNOFF at the last. -/
def goto (s : State) (c target : Nat) (keep : Bool) : State :=
  let k := s.core c
  if target < k.rows then
    s.setCore c { k with
      row := target, seq := .run, wait := none
      window := if keep then tkeep (fun r => decide (target ≤ r)) k.window else [] }
  else (s.setCore c { k with row := k.rows - 1 }).seqFault c 0x0F (k.rows - 1)

/-- The trick at the sequencer's row has issued: it counts, and TR makes it a trace record (R207, R633). -/
def issued (s : State) (c : Nat) : State :=
  let k := s.core c
  let s := s.bump (Reg.SEQ_ISSUE_CNT (c / 26) (c % 26))
  match tfind k.window k.row with
  | some r => if wf r.words 0 9 9 = 1 then s.trcCore c 1 0 (k.row + wf r.words 0 7 0 * 2 ^ 14) else s
  | none => s

/-- Go on with the next row in table order. -/
def nextRow (s : State) (c : Nat) : State := s.goto c ((s.core c).row + 1) true

/-- Issue the row at the head of a core's window: a row that holds poison or is malformed gives a sequencer fault
(R162, R194); a row of another kind than the command's is no event of that command. -/
def issue (s : State) (c : Nat) (f : Act → Option Nat → Option (State → State)) : State :=
  let k := s.core c
  if !k.canIssue || s.sump.fatal then s
  else
    match tfind k.window k.row with
    | none => s
    | some r =>
      if r.poison then s.seqFault c 7 k.row
      else
        match decodeTrick (s.rowEnv c) r.words with
        | .error .hold => s
        | .error (.fault n) => s.seqFault c n k.row
        | .ok (a, sig) =>
          match f a sig with
          | some g => g s
          | none => s

/-! ### Engine tricks (R117, R142) -/

end State

/-- The hazard check of R142: no write interval overlaps an entry, no read interval overlaps a write entry, and
entries are free for every range. -/
def Core.hazardFree (k : Core) (reads writes : List (Nat × Nat)) : Bool :=
  writes.all (fun r => !k.anyHolds r.1 r.2) && reads.all (fun r => !k.writeHolds r.1 r.2)
    && decide (k.ranges.length + reads.length + writes.length ≤ 48)

namespace State

/-- An engine trick leaves for its queue when it has a free entry and the hazard check passes (R117). -/
def issueEngine (s : State) (c e opc : Nat) (op : EngOp) (reads writes : List (Nat × Nat)) (sig : Option Nat) : State :=
  let k := s.core c
  if (k.queue e).length < 4 ∧ k.hazardFree reads writes then
    let peg := match sig, k.ctx with
      | some i, some x => s.pegOfCtx x i
      | _, _ => none
    let tr := match tfind k.window k.row with
      | some r => decide (wf r.words 0 9 9 = 1)
      | none => false
    let t : Trick := { id := k.nextId, row := k.row, opc := opc, op := op, sig := peg, tr := tr }
    let ents := reads.map (fun r => (⟨r.1, r.2, false, k.nextId⟩ : RangeEnt))
      ++ writes.map (fun r => (⟨r.1, r.2, true, k.nextId⟩ : RangeEnt))
    let s := s.issued c
    let s := s.modCore c fun k => { (k.setQueue e (k.queue e ++ [t])) with ranges := k.ranges ++ ents, nextId := k.nextId + 1 }
    s.nextRow c
  else s

/-- Issue an engine trick of the kind `p` names, with the errors its descriptor reads find. -/
def engineTrick (s : State) (c : Nat) (errs : List EccErr) (p : EngOp → Bool) : State :=
  if (s.core c).canIssue && !s.sump.fatal then
    (s.storeErrs c errs).issue c fun a sig => match a with
      | .engine e op rd wr =>
        if p op then some fun s =>
          let opc := if e < 4 then 0x10 + e else if e < 6 then 0x1C + e else if e = 6 then 0x30 else 0x40
          s.issueEngine c e opc op rd wr sig
        else none
      | _ => none
  else s

def isStream (f : StreamFn) : EngOp → Bool
  | .stream g _ _ _ _ _ _ _ _ _ => g == f
  | _ => false

end State

/-- MM (R171). -/
def execMm (core : Fin 104) (errs : List EccErr) (s : State) : Res :=
  done (s.engineTrick core errs fun o => match o with | .mm .. => true | _ => false)

/-- VEC (R173). -/
def execVec (core : Fin 104) (errs : List EccErr) (s : State) : Res :=
  done (s.engineTrick core errs fun o => match o with | .vec .. => true | _ => false)

/-- TU (R176). -/
def execTu (core : Fin 104) (errs : List EccErr) (s : State) : Res :=
  done (s.engineTrick core errs fun o => match o with | .tu .. => true | _ => false)

/-- STAGE_IN (R130). -/
def execStageIn (core : Fin 104) (errs : List EccErr) (s : State) : Res :=
  done (s.engineTrick core errs (State.isStream .stageIn))

/-- STAGE_OUT (R130). -/
def execStageOut (core : Fin 104) (errs : List EccErr) (s : State) : Res :=
  done (s.engineTrick core errs (State.isStream .stageOut))

/-- GATHER (R178). -/
def execGather (core : Fin 104) (errs : List EccErr) (s : State) : Res :=
  done (s.engineTrick core errs (State.isStream .gather))

/-- SCATTER (R178). -/
def execScatter (core : Fin 104) (errs : List EccErr) (s : State) : Res :=
  done (s.engineTrick core errs (State.isStream .scatter))

/-- COPY_LOCAL (R130). -/
def execCopyLocal (core : Fin 104) (errs : List EccErr) (s : State) : Res :=
  done (s.engineTrick core errs (State.isStream .copyLocal))

/-! ### Control tricks (R181, R187, R192) -/

/-- NOP (R161). -/
def execNop (core : Fin 104) (s : State) : Res :=
  done (s.issue core fun a _ => match a with
    | .nop => some fun s => (s.issued core).nextRow core
    | _ => none)

/-- HALT: issue ends, and ROW goes on naming the HALT row (R187). -/
def execHalt (core : Fin 104) (s : State) : Res :=
  done (s.issue core fun a _ => match a with
    | .halt => some fun s => (s.issued core).modCore core fun k => { k with halt := true }
    | _ => none)

/-- TFENCE: once no range entry holds a write, the window is emptied (R192). -/
def execTfence (core : Fin 104) (s : State) : Res :=
  done (s.issue core fun a _ => match a with
    | .tfence => some fun s =>
      if (s.core core).ranges.any (·.write) then s
      else ((s.issued core).bump (Reg.SEQ_TFENCE_CNT (core / 26) (core % 26))).goto core ((s.core core).row + 1) false
    | _ => none)

/-- LOOP (R181). -/
def execLoop (core : Fin 104) (s : State) : Res :=
  done (s.issue core fun a _ => match a with
    | .loop n => some fun s =>
      let k := s.core core
      if k.loops.length = 8 then s.seqFault core 0xA k.row
      else
        let s := (s.issued core).modCore core fun k => { k with loops := ⟨k.row + 1, n, 0, k.calls.length⟩ :: k.loops }
        s.nextRow core
    | _ => none)

/-- ENDLOOP (R181). -/
def execEndloop (core : Fin 104) (s : State) : Res :=
  done (s.issue core fun a _ => match a with
    | .endloop => some fun s =>
      let k := s.core core
      match k.loops with
      | [] => s.seqFault core 0xB k.row
      | l :: ls =>
        if l.depth ≠ k.calls.length then s.seqFault core 0xB k.row
        else
          let s := s.issued core
          if l.index + 1 < l.count + 1 then
            (s.modCore core fun k => { k with loops := { l with index := l.index + 1 } :: ls }).goto core l.start false
          else (s.modCore core fun k => { k with loops := ls }).nextRow core
    | _ => none)

/-- Push the next row and go to a sub-table: CALL, and a missed DEADLINE (R181, R183). -/
def State.callTo (s : State) (c target : Nat) : State :=
  let k := s.core c
  (s.setCore c { k with calls := (k.row + 1) :: k.calls }).goto c target false

/-- CALL (R181). -/
def execCall (core : Fin 104) (s : State) : Res :=
  done (s.issue core fun a _ => match a with
    | .call t => some fun s =>
      if (s.core core).calls.length = 8 then s.seqFault core 8 (s.core core).row
      else (s.issued core).callTo core t
    | _ => none)

/-- RET (R181). -/
def execRet (core : Fin 104) (s : State) : Res :=
  done (s.issue core fun a _ => match a with
    | .ret => some fun s =>
      let k := s.core core
      match k.calls with
      | [] => s.seqFault core 9 k.row
      | r :: rs =>
        if k.loops.any (fun l => decide (l.depth = k.calls.length)) then s.seqFault core 0xB k.row
        else ((s.issued core).modCore core fun k => { k with calls := rs }).goto core r false
    | _ => none)

/-! ### Pegs, Rounds and deadlines (R182 to R184) -/

/-- PSIG: a signal to a peg, or a peg message handed to the transmit path (R184, R216). -/
def execPsig (core : Fin 104) (s : State) : Res :=
  done (s.issue core fun a _ => match a with
    | .psig p n => some fun s =>
      match s.pegOfCtx ((s.core core).ctx.getD 0) p with
      | some d => ((s.issued core).pegDo d (.signal n)).nextRow core
      | none => s
    | .psigRemote dev p n => some fun s =>
      ((s.issued core).pegMsg (core / 26) ((s.core core).ctx.getD 0) dev p n).nextRow core
    | _ => none)

/-- PARM (R184). -/
def execParm (core : Fin 104) (s : State) : Res :=
  done (s.issue core fun a _ => match a with
    | .parm p x => some fun s =>
      match s.pegOfCtx ((s.core core).ctx.getD 0) p with
      | some d => ((s.issued core).pegDo d (.arm x 1)).nextRow core
      | none => s
    | _ => none)

/-- PRESET (R184). -/
def execPreset (core : Fin 104) (s : State) : Res :=
  done (s.issue core fun a _ => match a with
    | .preset p => some fun s =>
      match s.pegOfCtx ((s.core core).ctx.getD 0) p with
      | some d => ((s.issued core).pegDo d .reset).nextRow core
      | none => s
    | _ => none)

/-- PWAIT: the sequencer registers on the peg and waits (R184, R210). -/
def execPwait (core : Fin 104) (s : State) : Res :=
  done (s.issue core fun a _ => match a with
    | .pwait p => some fun s =>
      match s.pegOfCtx ((s.core core).ctx.getD 0) p with
      | some d => (s.modCore core fun k => { k with seq := .wait, wait := some (.peg d) }).pegDo d (.wait (.seq core))
      | none => s
    | _ => none)

/-- RWAIT: at once when the Round has begun, otherwise the sequencer waits (R182). -/
def execRwait (core : Fin 104) (s : State) : Res :=
  done (s.issue core fun a _ => match a with
    | .rwait n => some fun s =>
      let d := (s.core core).base + n
      if s.counting ∧ d ≤ s.rnd then (s.issued core).nextRow core
      else s.modCore core fun k => { k with seq := .wait, wait := some (.round d) }
    | _ => none)

namespace State

/-- A core in CLOCK_STOP whose wait ends is back in RUN first (R155, R156). -/
def wakeClock (s : State) (c : Nat) : State :=
  if (s.core c).pwr = .clockStop then (s.modCore c fun k => { k with pwr := .run }).trcMark c false .run else s

/-- A DEADLINE is met or missed (R183): it counts and is traced; a miss calls the fallback sub-table. -/
def deadlineEnd (s : State) (c fb : Nat) (met : Bool) : State :=
  let k := s.core c
  let tr := match tfind k.window k.row with
    | some r => decide (wf r.words 0 9 9 = 1)
    | none => false
  let s := if tr || (!met && s.bit (Reg.TRC_CTL (c / 26)) 28) then s.trcCore c 4 0 (k.row + 2 ^ 14 * b2n (!met)) else s
  if met then ((s.issued c).bump (Reg.SEQ_DL_MET_CNT (c / 26) (c % 26))).nextRow c
  else
    let s := s.bump (Reg.SEQ_DL_MISS_CNT (c / 26) (c % 26))
    if k.calls.length = 8 then s.seqFault c 8 k.row else (s.issued c).callTo c fb

/-- The wait of a core's row ends: it has issued. -/
def releaseWait (s : State) (c : Nat) : State :=
  let s := s.wakeClock c
  match (s.core c).wait with
  | some (.deadline _ _ fb) => s.deadlineEnd c fb true
  | some _ => (s.issued c).nextRow c
  | none => s

/-- Step 3 of R56 at a core: a Round wait whose Round has begun is released, and a deadline whose Round has begun is
missed unless readiness has reached the waiter. -/
def roundAt (s : State) (c : Nat) : State :=
  let k := s.core c
  if k.seq ≠ .wait ∨ k.isolated ∨ k.stop.isSome then s
  else
    match k.wait with
    | some (.round n) => if n ≤ s.rnd then s.releaseWait c else s
    | some (.deadline _ d fb) => if d ≤ s.rnd then ((s.unwait (.seq c)).wakeClock c).deadlineEnd c fb false else s
    | _ => s

end State

/-- DEADLINE: evaluated at once when its Round has begun, otherwise the sequencer waits on the peg and the Round
(R183). -/
def execDeadline (core : Fin 104) (s : State) : Res :=
  done (s.issue core fun a _ => match a with
    | .deadline p fb n => some fun s =>
      match s.pegOfCtx ((s.core core).ctx.getD 0) p with
      | none => s
      | some q =>
        let d := (s.core core).base + n
        if s.counting ∧ d ≤ s.rnd then s.deadlineEnd core fb (s.peg q).ready
        else (s.modCore core fun k => { k with seq := .wait, wait := some (.deadline q d fb) }).pegDo q (.wait (.seq core))
    | _ => none)

/-- TMARK: one trace record with its tag and value (R186, R633). -/
def execTmark (core : Fin 104) (s : State) : Res :=
  done (s.issue core fun a _ => match a with
    | .tmark tag v => some fun s => ((s.issued core).trcCore core 3 0 (tag + v * 256)).nextRow core
    | _ => none)

/-! ### The fetch window (R189 to R194) -/

/-- The rows of one aligned group of 8 that the window still needs, from the first one missing. -/
def Core.captureRows (k : Core) : List Nat :=
  let wanted := (List.range (min 9 (k.rows - k.row))).map (· + k.row)
  let missing := wanted.filter fun r => (tfind k.window r).isNone
  match missing with
  | [] => []
  | q :: _ => missing.filter fun r => decide (r / 8 = q / 8)

/-- ROW_CAPTURE: the next aligned group of rows enters the window, but for rows that an issued write still covers; a
row that holds poison is captured as such (R189, R190, R194). -/
def execRowCapture (core : Fin 104) (errs : List EccErr) (s : State) : Res :=
  let k := s.core core
  let fit := k.pwr == .run && !k.isolated && !k.halt && (k.seq == .ready || k.seq == .run || k.seq == .wait || k.seq == .suspended) && !s.sump.fatal
  when fit (fun s =>
    let s := s.storeErrs core errs
    s.modCore core fun k =>
      let rows := k.captureRows.filter fun r => !k.writeHolds (rowOff k.tbl r) (rowOff k.tbl r + 31)
      let w := rows.foldl (fun w r =>
        tput r ⟨wordsOf (k.bytes (rowOff k.tbl r) 32), k.poisoned (rowOff k.tbl r) 32⟩ w) k.window
      { k with window := w }) s

/-! ### Ends of hands, stops and drains (R187, R195, R196, R486) -/

namespace State

/-- The OR of the four flag words of the cores of a hand (R114). -/
def handFlags (s : State) (x : Nat) : Nat :=
  (s.coresOf x).foldl (fun f c =>
    f ||| (s.cfg (Reg.ARITH_FLAGS_ME (c / 26) (c % 26))).toNat ||| (s.cfg (Reg.ARITH_FLAGS_VE (c / 26) (c % 26))).toNat
      ||| (s.cfg (Reg.ARITH_FLAGS_TU (c / 26) (c % 26))).toNat ||| (s.cfg (Reg.ARITH_FLAGS_SE (c / 26) (c % 26))).toNat) 0
    % 1024

/-- Release the cores of a hand: no hand is loaded in them any more. -/
def releaseCores (s : State) (x : Nat) : State :=
  (s.coresOf x).foldl (fun s c =>
    let s := s.unwait (.seq c)
    let s := s.modCore c fun k => { k with
      ctx := none, tbl := 0, seq := .idle, row := 0, calls := [], loops := [], window := [], wait := none,
      stop := none, parked := false, halt := false, enq := none, eng := [], ranges := [] }
    s.setFld (Reg.CSTORE_STS (c / 26) (c % 26)) 11 8 0) s

/-- A hand ends: its LAUNCH record is written with a status, its cores are released and the context is EMPTY
(R485, R486). -/
def handEnd (s : State) (x status : Nat) : State :=
  let k := s.context x
  let flags := s.handFlags x
  let s := s.releaseCores x
  let s := s.setCtx x { k with
    state := if k.state = .destroying then .destroying else .empty, hand := none, launch := none, base := none, gate := none, causes := [], thermal := [],
    restored := [], goes := false, images := [], lost := [] }
  match k.launch with
  | some c => s.complete c status 0 flags (k.base.getD 0) k.lastHalt
  | none => s

/-- The hand of a context completes when every core bound to it has reported HALTED (R187); a PREEMPT that meets it
completes with E_STATE, detail 1 (R499). -/
def handDone (s : State) (x : Nat) : State :=
  let k := s.context x
  let cs := s.coresOf x
  if (k.state = .running ∨ k.state = .preempting) ∧ cs ≠ [] ∧ cs.all (fun c => (s.core c).seq == .halted) then
    let s := s.handEnd x 0
    match k.preempt with
    | some c => (s.modCtx x fun k => { k with preempt := none }).complete c 6 1
    | none => s
  else s

end State

/-- Whether a core has drained: its compute engines are empty and its stream engine is empty or stopped at a restart
position (R196, R197). -/
def Core.drained (k : Core) : Bool :=
  k.computeIdle && (match k.queue 7 with
    | [] => true
    | t :: _ => t.stopped)

namespace State

/-- A cancel's or a destruction's drain has ended at every core: a CANCEL completes, and then the hand ends as cancelled
(R486, R495). -/
def cancelDone (s : State) (x : Nat) : State :=
  let k := s.context x
  let cs := s.coresOf x
  let due := (decide (k.state = .running ∨ k.state = .suspended) && k.cancel.isSome) || (k.state == .destroying && !cs.isEmpty)
  if due && cs.all (fun i => let q := s.core i; q.seq == .halted || q.isolated || (q.parked && q.drained)) then
    let s := match k.cancel with
      | some c => (s.modCtx x fun k => { k with cancel := none }).complete c 0
      | none => s
    s.handEnd x 0x14
  else s

/-- A stopping core that has drained is SUSPENDED; a cancel may then end. -/
def settle (s : State) (c : Nat) : State :=
  let k := s.core c
  let s := if k.parked ∧ k.drained ∧ k.seq = .draining then s.setCore c { k with seq := .suspended } else s
  match k.ctx with
  | some x => s.cancelDone x
  | none => s

/-- The boundary of a stop (R195): the core is in RUN, a waiting row has not issued and becomes the resume row, and its
registration is removed (R220). -/
def park (s : State) (c : Nat) : State :=
  ((s.wakeClock c).unwait (.seq c)).modCore c fun k => { k with parked := true, wait := none, enq := none }

end State

/-- HALTED: a core that issued HALT has completed every trick and reports HALTED; the hand may then complete (R187). -/
def execHalted (core : Fin 104) (s : State) : Res :=
  let k := s.core core
  when (!s.sump.fatal && k.halt && k.seq == .run && k.stop.isNone && !k.isolated && k.enginesIdle) (fun s =>
    let s := s.modCore core fun k => { k with seq := .halted }
    match k.ctx with
    | some x => (s.modCtx x fun k => { k with lastHalt := s.rnd }).handDone x
    | none => s) s

/-! ### Engines at work (R117, R120, R179) -/

/-- The register of the flag word an engine records in (R114). -/
def flagReg (c e : Nat) : Nat :=
  if e < 4 then Reg.ARITH_FLAGS_ME (c / 26) (c % 26)
  else if e < 6 then Reg.ARITH_FLAGS_VE (c / 26) (c % 26)
  else if e = 6 then Reg.ARITH_FLAGS_TU (c / 26) (c % 26)
  else Reg.ARITH_FLAGS_SE (c / 26) (c % 26)

namespace State

/-- Record the conditions of written elements: the sticky flags and the five counters (R113 to R115). -/
def record (s : State) (c e : Nat) (r : Running) : State :=
  let a := flagReg c e
  let s := s.setCfg a (s.cfg a ||| BitVec.ofNat 32 r.flags.toNat)
  let k := c % 26
  let g := c / 26
  ((((s.bumpBy (Reg.ARITH_WINX_CNT g k) r.winx).bumpBy (Reg.ARITH_WOVF_CNT g k) r.wovf).bumpBy (Reg.ARITH_INV_CNT g k) r.inv).bumpBy
    (Reg.ARITH_SAT_CNT g k) r.satc).bumpBy (Reg.ARITH_NAN_CNT g k) r.nan

/-- The engine is done with the oldest trick of its queue: its entries are freed, its SIG is signalled, TR gives a
DONE record, and the core may have drained (R142, R179, R633). -/
def retire (s : State) (c e : Nat) (t : Trick) : State :=
  let s := s.modCore c fun k => { (k.setQueue e ((k.queue e).drop 1)) with ranges := k.ranges.filter fun r => decide (r.id ≠ t.id) }
  let s := match t.sig with
    | some p => s.pegDo p (.signal 1)
    | none => s
  let s := if t.tr then s.trcCore c 2 e (t.row + t.opc * 2 ^ 14) else s
  s.settle c

/-- A compute trick's last write lands (R179). A poisoned operand, or an error that the engine itself finds, spoils every
word written, is reported, and stops the sequencer and the context (R146, R20). -/
def landCompute (s : State) (c e : Nat) (t : Trick) (r : Running) (fault : EngFault) : State :=
  let k := s.core c
  let kind := match fault with
    | .clean => 0x012
    | .residue => 0x001
    | .parity => 0x002
  let r := if kind = 0x012 then r else { r with poison := true }
  let put (k : Core) (w : StoreWr) : Core := if r.poison then k.spoil w.off w.data.length else k.put w.off w.data
  let s := s.setCore c (r.wr.foldl put k)
  let s := (s.record c e r).retire c e t
  if r.poison then
    let s := if kind = 0x002 then s.raiseEcc (srcEngine c e) kind k.ctx 0 0 0 else s.raise (srcEngine c e) kind k.ctx
    match k.ctx with
    | some x => s.suspend x .poison 0 (k.lcore.getD 0)
    | none => s
  else s

end State

/-! ### Core power (R155, R156) -/

/-- CLOCK_STOP_ENTRY: a core that has waited with its engines empty stops its clocks (R155). -/
def execClockStopEntry (core : Fin 104) (s : State) : Res :=
  let k := s.core core
  when (k.pwr == .run && k.seq == .wait && k.enginesIdle && !k.isolated && k.stop.isNone) (fun s =>
    (s.modCore core fun k => { k with pwr := .clockStop }).trcMark core true .clockStop) s

/-- CLOCK_STOP_EXIT: on a release of the wait, before the boundary waited for, or on Bittern's request (R155, R156). -/
def execClockStopExit (core : Fin 104) (s : State) : Res :=
  when ((s.core core).pwr == .clockStop) (fun s => s.wakeClock core) s

end Sys2Proof.Machine
end

