-- ==== Sys2Proof/Machine/Hbm.lean ====
section
/-!
DEFINITION. HBM and its controllers, and the bandwidth regulators: R224 to R239, R249 to R254. Addresses are DPAs; a
line is DPA / 128.
-/
namespace Sys2Proof.Machine

/-- Whether a DPA lies in populated HBM (R224). -/
def populated (a : Nat) : Bool := decide (a < 2 ^ 39) && decide (a % 2 ^ 36 < 0xC00000000)

/-- The stack and the home region of an HBM line. -/
def stackOf (line : Nat) : Nat := line / 2 ^ 29
def homeOf (line : Nat) : Nat := stackOf line / 2

/-- The channel of a line (R227). -/
def channelOf (line : Nat) : Nat := line % 32 ^^^ line / 512 % 32

namespace State

def ctl (s : State) (k : Nat) : Hbm := tget (fun _ => {}) s.hctl k

def setHctl (s : State) (k : Nat) (h : Hbm) : State := { s with hctl := tset (fun _ => {}) s.hctl k h }

def halfBad (s : State) (h : Nat) : Bool := tget (fun _ => false) s.hbmBad h

/-- Whether a line holds poison (R233). -/
def lineBad (s : State) (line : Nat) : Bool := s.halfBad (2 * line) || s.halfBad (2 * line + 1)

def spoilHalf (s : State) (h : Nat) (b : Bool) : State := { s with hbmBad := tset (fun _ => false) s.hbmBad h b }

/-- The line's bytes and whether a read returns POISON. -/
def hbmRead (s : State) (line : Nat) : List Byte × Bool :=
  (tgets (fun _ => 0#8) s.hbm (128 * line) 128, s.lineBad line)

/-- Write bytes into a line (R233): a whole line clears its poison; part of a poisoned line leaves it as it is. The
halves that `bad` names receive the poison pattern. -/
def hbmWrite (s : State) (line off : Nat) (bs : List Byte) (bad : Nat) : State :=
  let whole := decide (bs.length = 128)
  if s.lineBad line && !whole then s
  else
    let s := { s with hbm := tsets (fun _ => 0#8) s.hbm (128 * line + off) bs }
    (s.spoilHalf (2 * line) (bitOf bad 0)).spoilHalf (2 * line + 1) (bitOf bad 1)

/-- The source of a stack's controller (R555). -/
def hbmSrc (k : Nat) : Nat := srcRegion (k / 2) (2 + k % 2)

/-- A row becomes a repair candidate; a new one beyond 64 replaces the oldest (R238). -/
def candidate (s : State) (k row : Nat) : State :=
  let h := s.ctl k
  if row ∈ h.cand then s
  else s.setHctl k { h with cand := (if h.cand.length < 64 then h.cand else h.cand.drop 1) ++ [row] }

/-- A corrected error: delivered corrected and rewritten, counted and reported; the third in a row makes it a
candidate (R232, R238). -/
def hbmCe (s : State) (line : Nat) (ctx : Option Nat) : State :=
  let k := stackOf line
  let row := Config.hbmRow (line % 2 ^ 29)
  let n := tget (fun _ => 0) (s.ctl k).rowCe row + 1
  let s := (s.bump (Reg.HBMC_CE_CNT k)).raiseEcc (hbmSrc k) 0x100 ctx 1 (128 * line) (channelOf line)
  let s := s.setHctl k { (s.ctl k) with rowCe := tset (fun _ => 0) (s.ctl k).rowCe row n }
  if n = 3 then s.candidate k row else s

/-- An uncorrectable error in a half: the line is poisoned, counted, recorded and reported, and its row becomes a
candidate (R233, R238). -/
def hbmUe (s : State) (line half : Nat) (ctx : Option Nat) : State :=
  let k := stackOf line
  let s := (s.bump (Reg.HBMC_UE_CNT k)).setCfg (Reg.HBMC_ERR_ADDR k) (BitVec.ofNat 32 (2 ^ 31 + line % 2 ^ 29))
  let s := (s.spoilHalf (2 * line + half) true).raiseEcc (hbmSrc k) 0x101 ctx 1 (128 * line) (channelOf line)
  s.candidate k (Config.hbmRow (line % 2 ^ 29))

/-- Whether a controller serves a line now (R230, R235, R238, R253). -/
def hbmServes (s : State) (line : Nat) : Bool :=
  let h := s.ctl (stackOf line)
  !s.sump.fatal && decide (h.level ≠ 3)
    && (h.state == .run || (h.state == .repair && decide (h.ch ≠ channelOf line)))
    && (match h.sppr with
      | some row => decide (Config.hbmBank row ≠ Config.hbmBank (Config.hbmRow (line % 2 ^ 29)))
      | none => true)

/-- The errors an access that reads the line finds; a poisoned line gives no new one. -/
def hbmFinds (s : State) (line : Nat) (e : HbmErr) (ctx : Option Nat) : State :=
  if s.lineBad line then s
  else
    match e with
    | .corrected => s.hbmCe line ctx
    | .double h => s.hbmUe line h ctx
    | _ => s

end State

/-- HBM_REQUEST: a line request reaches its controller and is served (R228, R232 to R234). A request that fails after
its retries completes as if the line were poisoned, and writes nothing. -/
def execHbmRequest (line : Fin 4294967296) (req : HbmReq) (err : HbmErr) (ctx : Option (Fin 64)) (s : State) : Res :=
  let k := stackOf line
  let x := ctx.map (·.val)
  when (populated (128 * line) && s.hbmServes line) (fun s =>
    let send (s : State) (r : List Byte × Bool) : State := s.setHctl k { (s.ctl k) with sent := some r }
    if err = .failed then
      let s := (s.bump (Reg.HBMC_PAR_FAIL_CNT k)).setCfg (Reg.HBMC_ERR_ADDR k)
        (BitVec.ofNat 32 (2 ^ 31 + 2 ^ 29 + line % 2 ^ 29))
      let s := s.raiseEcc (State.hbmSrc k) 0x102 x 1 (128 * line) (channelOf line)
      if req = .read then send s ((s.hbmRead line).1, true) else s
    else
      let s := s.bumpIf (decide (err = .retried)) (Reg.HBMC_PAR_RETRY_CNT k)
      match req with
      | .read => let s := s.hbmFinds line err x; send s (s.hbmRead line)
      | .write off bs =>
        let bs := bs.take (128 - off)
        if bs.length = 128 then s.hbmWrite line 0 bs 0 else (s.hbmFinds line err x).hbmWrite line off bs 0
      | .spoil h => s.spoilHalf (2 * line + h) true) s

/-- HBM_REFRESH: refresh follows the stack's own rate and changes no state of the block (R229). -/
def execHbmRefresh (_stack : Fin 8) (s : State) : Res := done s

/-- LANE_REPAIR: a failing lane is remapped while its channel stops; without a free lane repair is exhausted and the
stack is lost (R235, R236, R239). -/
def execLaneRepair (stack : Fin 8) (channel : Fin 32) (lane : Byte) (spare : Option Byte) (s : State) : Res :=
  let h := s.ctl stack
  when ((h.state == .run || (h.state == .repair && spare.isNone)) && h.sppr.isNone && !s.sump.fatal) (fun s =>
    match spare with
    | some x => s.setHctl stack { h with state := .repair, ch := channel, lane := lane.toNat, onto := x.toNat }
    | none =>
      let s := s.setHctl stack { h with state := .lost }
      (s.setCfg (Reg.HBMC_ERR_ADDR stack) (BitVec.ofNat 32 (2 ^ 31 + 2 * 2 ^ 29 + channel))).raise (State.hbmSrc stack) 0x104
        none 1 (stack * 2 ^ 36 + 128 * channel)) s

/-- LANE_REPAIR_DONE: the channel is retrained and issue resumes (R235). -/
def execLaneRepairDone (stack : Fin 8) (s : State) : Res :=
  let h := s.ctl stack
  when (h.state == .repair) (fun s =>
    let a := Reg.HBMC_LANE stack h.ch
    let s := (s.setFld a 15 8 (min 255 (s.fld a 15 8 + 1))).setFld a 7 0 (s.fld a 7 0 - 1)
    let s := (s.bump (Reg.HBMC_LANE_RPR_CNT stack)).setHctl stack { h with state := .run }
    (s.logDue 5 1 (stack + 8 * h.ch + 2 ^ 8 * h.lane + 2 ^ 16 * h.onto)).raise (State.hbmSrc stack) 0x103 none 1 (stack * 2 ^ 36 + 128 * h.ch)) s

/-- PATROL_SCRUB: one line of the populated range is read; a line under repair is passed over and read once the repair
has ended (R237, R239). -/
def execPatrolScrub (stack : Fin 8) (err : HbmErr) (s : State) : Res :=
  let h := s.ctl stack
  when (s.bit (Reg.HBMC_CTL stack) 16 && (h.state == .run || h.state == .repair) && !s.sump.fatal) (fun s =>
    match h.passed with
    | l :: ls =>
      if s.hbmServes (stack * 2 ^ 29 + l) then
        (s.setHctl stack { h with passed := ls }).hbmFinds (stack * 2 ^ 29 + l) err none
      else s
    | [] =>
      let l := h.scrub
      let last := decide (l + 1 = 402653184)
      let h := { h with scrub := if last then 0 else l + 1 }
      let s := s.bumpIf last (Reg.HBMC_SCRUB_PASS stack)
      if s.hbmServes (stack * 2 ^ 29 + l) then (s.setHctl stack h).hbmFinds (stack * 2 ^ 29 + l) err none
      else s.setHctl stack { h with passed := h.passed ++ [l] }) s

/-- SPPR: the oldest candidate's soft repair starts; its bank is held (R238, R239). -/
def execSppr (stack : Fin 8) (s : State) : Res :=
  let h := s.ctl stack
  match h.cand with
  | row :: rest =>
    when (s.bit (Reg.HBMC_CTL stack) 17 && h.state == .run && h.sppr.isNone && !s.sump.fatal)
      (fun s => s.setHctl stack { h with sppr := some row, cand := rest }) s
  | [] => done s

/-- SPPR_DONE: the row is on a spare row, its lines written back as they were; or the bank has none (R238). -/
def execSpprDone (stack : Fin 8) (spare : Bool) (s : State) : Res :=
  let h := s.ctl stack
  match h.sppr with
  | some row =>
    when (!s.sump.fatal) (fun s =>
      let s := s.setHctl stack { h with sppr := none }
      if spare then (s.bump (Reg.HBMC_SPPR_CNT stack)).logDue 6 0 (stack + 8 * (row % 2 ^ 29))
      else s.bump (Reg.HBMC_SPPR_FAIL_CNT stack)) s
  | none => done s

/-! ### Heat of the stacks (R253, R254) -/

/-- The threshold of a throttle level. -/
def State.levelAt (s : State) (k l : Nat) : Nat :=
  match l with
  | 0 => 0
  | 1 => s.fld (Reg.HBMC_THERM k) 23 16
  | 2 => s.fld (Reg.HBMC_THERM k) 23 16 + 5
  | _ => s.fld (Reg.HBMC_THERM k) 31 24

/-- The level a temperature gives: it rises as its threshold is reached, and falls 3 °C below it. -/
def State.levelFor (s : State) (k t : Nat) : Nat :=
  let up := if s.levelAt k 3 ≤ t then 3 else if s.levelAt k 2 ≤ t then 2 else if s.levelAt k 1 ≤ t then 1 else 0
  let held (l : Nat) : Bool := decide (l ≤ (s.ctl k).level) && decide (s.levelAt k l < t + 3)
  max up (if held 3 then 3 else if held 2 then 2 else if held 1 then 1 else 0)

/-- STACK_TEMPERATURE_READ: a rise takes effect in the region at once, a fall at the next Round boundary; level 3
suspends every context with a core in the region and is reported. -/
def execStackTemperatureRead (stack : Fin 8) (temp : Byte) (s : State) : Res :=
  let h := s.ctl stack
  let r := stack.val / 2
  when (h.state != .off) (fun s =>
    let l := s.levelFor stack temp.toNat
    let s := s.setHctl stack { h with valid := true, temp := temp.toNat, level := l }
    let s := if l = h.level then s else s.logDue 2 0 (0x40 + stack + 2 ^ 8 * temp.toNat + 2 ^ 17 + 2 ^ 24 * l)
    let s := if tget (fun _ => 0) s.thr r < l then { s with thr := tset (fun _ => 0) s.thr r l } else s
    if l = 3 ∧ h.level < 3 then
      let s := s.raise (State.hbmSrc stack) 0x105
      let xs := (List.range 64).filter fun x => (List.range 24).any fun i => bitOf (s.context x).cores (24 * r + i)
      xs.foldl (fun s x =>
        let s := s.suspend x .thermal
        if .thermal ∈ (s.context x).causes ∧ r ∉ (s.context x).thermal then
          s.modCtx x fun c => { c with thermal := c.thermal ++ [r] }
        else s) s
    else s) s

/-! ### Regulators (R249 to R252) -/

/-- The bucket of a class in a region: the SC bucket, or the HBM one. -/
def bucket (r n : Nat) (hbm : Bool) : Nat := 18 * r + 2 * n + b2n hbm

def bucketReg (r n : Nat) (hbm : Bool) : Nat := if hbm then Reg.SC_REG_HBM r n else Reg.SC_REG_SC r n

namespace State

def tok (s : State) (b : Nat) : Nat := tget (fun _ => 0) s.tokens b

def setTok (s : State) (b n : Nat) : State := { s with tokens := tset (fun _ => 0) s.tokens b n }

/-- The tokens a bucket gains in a period; level 2 halves the HBM rate (R253). -/
def rateOf (s : State) (r n : Nat) (hbm : Bool) : Nat :=
  let v := s.fld (bucketReg r n hbm) 12 0
  if hbm ∧ 2 ≤ tget (fun _ => 0) s.thr r then v / 2 else v

/-- Whether a class may ever be admitted at a bucket: a token, a rate, or BORROW. -/
def admits (s : State) (r n : Nat) (hbm : Bool) : Bool :=
  decide (0 < s.tok (bucket r n hbm)) || decide (0 < s.rateOf r n hbm) || s.bit (bucketReg r n hbm) 15

/-- One line is charged to a class: it takes a token; with BORROW and no other class waiting it goes without; otherwise
it waits for the token of a later period, which the wait count shows (R250, R251). -/
def charge (s : State) (r n : Nat) (hbm : Bool) : State :=
  let b := bucket r n hbm
  if 0 < s.tok b then s.setTok b (s.tok b - 1)
  else if s.bit (bucketReg r n hbm) 15 ∧ s.short.all (fun w => decide (w / 9 ≠ r ∨ w % 9 = n)) then s
  else if 9 * r + n ∈ s.short then s
  else { s with short := s.short ++ [9 * r + n] }

/-- Write a regulator's register (R252): a bucket set for the first time starts full, a lower BURST cuts it. -/
def setBucket (s : State) (r n : Nat) (hbm : Bool) (w : Word) : State :=
  let a := bucketReg r n hbm
  let burst := bitsOf w.toNat 31 16
  let first := decide (s.cfg a = 0#32)
  let b := bucket r n hbm
  (s.setTok b (if first then burst else min (s.tok b) burst)).setCfg a w

end State

/-- REGULATOR_PERIOD: every bucket gains RATE tokens and is capped at BURST; classes that waited are counted (R250). -/
def execRegulatorPeriod (s : State) : Res :=
  let all := (List.range 4).flatMap fun r => (List.range 9).flatMap fun n => [(r, n, false), (r, n, true)]
  let gain (s : State) (e : Nat × Nat × Bool) : State :=
    let b := bucket e.1 e.2.1 e.2.2
    s.setTok b (min (s.tok b + s.rateOf e.1 e.2.1 e.2.2) (s.fld (bucketReg e.1 e.2.1 e.2.2) 31 16))
  let s := s.short.foldl (fun s w => s.bump (Reg.SC_WAIT (w / 9) (w % 9))) s
  done (all.foldl gain { s with short := [] })

end Sys2Proof.Machine
end

