-- ==== Sys2Proof/Machine/Slice.lean ====
section
/-!
DEFINITION. The shared cache and the homes: R240 to R248, R313 to R329. Core caches, snoops, the slice's lines, and
the accesses a home serves. A core cache names an HBM line by DPA / 128 and a host line by 2^40 + HPA / 128.
-/
namespace Sys2Proof.Machine

/-! ### Core caches (R151 to R154) -/

/-- The name of a host line in a core cache. -/
def hostName (n : Nat) : Nat := 2 ^ 40 + n

/-- The set of a line in a core cache: physical address bits [15:7]. -/
def ccSet (line : Nat) : Nat := line % 512

/-- The key of a line that a core cache holds. -/
def Core.ccKey (k : Core) (line : Nat) : Option Nat :=
  ((List.range 8).map (· + 8 * ccSet line)).find? fun i => (tfind k.cc i).any fun l => decide (l.line = line)

def Core.ccLine (k : Core) (line : Nat) : Option CLine := (k.ccKey line).bind fun i => tfind k.cc i

/-- Tree pseudo-LRU over 8 ways (PRESUMED: bits 0, 1 and 2, 3 to 6, by level; a bit points at the half to replace). -/
def plruVictim (b : Nat) : Nat :=
  let h := b2n (bitOf b 0)
  let q := b2n (bitOf b (1 + h))
  4 * h + 2 * q + b2n (bitOf b (3 + 2 * h + q))

def plruTouch (b w : Nat) : Nat :=
  let set (b i : Nat) (v : Bool) : Nat := b - b2n (bitOf b i) * 2 ^ i + b2n v * 2 ^ i
  let b := set b 0 (!bitOf w 2)
  let b := set b (1 + w / 4) (!bitOf w 1)
  set b (3 + w / 2) (!bitOf w 0)

def Core.ccTouch (k : Core) (i : Nat) : Core :=
  { k with plru := tmod (fun _ => 0) k.plru (i / 8) fun b => plruTouch b (i % 8) }

def Core.ccPut (k : Core) (i : Nat) (l : CLine) : Core := { k with cc := tput i l k.cc }

def Core.ccDrop (k : Core) (i : Nat) : Core := { k with cc := tdel i k.cc }

/-- The way a new line takes: an invalid one, or the victim. -/
def Core.ccPlace (k : Core) (line : Nat) : Nat :=
  match ((List.range 8).map (· + 8 * ccSet line)).find? fun i => (tfind k.cc i).isNone with
  | some i => i
  | none => 8 * ccSet line + plruVictim (tget (fun _ => 0) k.plru (ccSet line))

/-! ### Slice lines -/

/-- The first key of a line's set in its slice (R240). -/
def sliceBase (line : Nat) : Nat := homeOf line * 524288 + (line % 32768 ^^^ line / 32768 % 32768) * 16

/-- The 128 bytes with some replaced. -/
def mergeAt (data : List Byte) (off : Nat) (bs : List Byte) : List Byte :=
  data.take off ++ bs ++ data.drop (off + bs.length)

/-- A slice line after a write of bytes: a whole line clears poison, part of a poisoned line changes nothing. -/
def SLine.write (l : SLine) (off : Nat) (bs : List Byte) (bad : Nat) : SLine :=
  if bs.length = 128 then { l with data := bs, dirty := true, poison := bad }
  else if l.poison ≠ 0 then l
  else { l with data := mergeAt l.data off bs, dirty := true, poison := bad }

/-- `n` bytes of a line from `off`, as a number. -/
def fieldAt (data : List Byte) (off n : Nat) : Nat := ofLe ((data.drop off).take n)

namespace State

def sKey (s : State) (line : Nat) : Option Nat :=
  ((List.range 16).map (· + sliceBase line)).find? fun i => (tfind s.slice i).any fun l => decide (l.line = line)

def sLine (s : State) (line : Nat) : Option SLine := (s.sKey line).bind fun i => tfind s.slice i

def sPut (s : State) (i : Nat) (l : SLine) : State := { s with slice := tput i l s.slice }

def sDrop (s : State) (i : Nat) : State := { s with slice := tdel i s.slice }

/-- BLK: a transaction on the line is open (R318). -/
def blocked (s : State) (line : Nat) : Bool := s.coh.open_.any fun t => decide (t.line = line)

/-- The core caches that hold a line, by the duplicate tags (R315). -/
def holders (s : State) (line : Nat) : List Nat :=
  s.cores.filterMap fun e => if (e.2.ccLine line).isSome then some e.1 else none

/-- The core cache that holds a line in M. -/
def mHolder (s : State) (line : Nat) : Option Nat :=
  (s.holders line).find? fun c => ((s.core c).ccLine line).any fun l => decide (l.st = .m)

/-- Drop a line from a core cache. -/
def ccRemove (s : State) (c line : Nat) : State :=
  match (s.core c).ccKey line with
  | some i => s.modCore c fun k => k.ccDrop i
  | none => s

def ccSetSt (s : State) (c line : Nat) (st : Mesi) : State :=
  match (s.core c).ccKey line, (s.core c).ccLine line with
  | some i, some l => s.modCore c fun k => k.ccPut i { l with st := st }
  | _, _ => s

/-- Data of an M copy reaches the slice line, which becomes dirty (R319). -/
def mergeM (s : State) (line : Nat) (d : List Byte) (poison : Nat) : State :=
  match s.sKey line, s.sLine line with
  | some i, some l => s.sPut i { l with data := d, dirty := true, poison := poison }
  | _, _ => s

/-- One copy is snooped away; its dirty data is kept or discarded (R316, R319, R324). -/
def pullOne (s : State) (line : Nat) (keep : Bool) (c : Nat) : State :=
  let l := (s.core c).ccLine line
  let s := (s.bump (Reg.DIR_SNP_CNT (c / 26))).ccRemove c line
  match l with
  | some l => if l.st = .m ∧ keep then s.mergeM line l.data l.poison else s
  | none => s

/-- Every copy but `but`'s is snooped away. -/
def pull (s : State) (line : Nat) (keep : Bool) (but : Nat := 104) : State :=
  ((s.holders line).filter fun c => decide (c ≠ but)).foldl (fun s c => s.pullOne line keep c) s

/-- A line leaves the slice: copies first, then a write-back when it is dirty (R241, R316). -/
def sEvict (s : State) (i : Nat) : State :=
  match tfind s.slice i with
  | none => s
  | some l =>
    let s := s.pull l.line true
    match tfind s.slice i with
    | some l =>
      let s := s.sDrop i
      if l.dirty then
        ((s.bump (Reg.SC_WB_CNT (homeOf l.line))).charge (homeOf l.line) l.cls true).hbmWrite l.line 0 l.data l.poison
      else s
    | none => s

/-- A line's data or tag error is handled before the access that finds it (R245). A clean line is dropped, to be
filled again; a dirty one is written back, with poison when its data cannot be corrected. -/
def sliceErr (s : State) (line : Nat) (e : SliceErr) (ctx : Option Nat) : State × Bool :=
  let r := homeOf line
  match s.sKey line, s.sLine line with
  | some i, some l =>
    let ce (s : State) : State := (s.bump (Reg.SC_CE_CNT r)).raiseEcc (srcRegion r 0) 0x110 ctx 1 (128 * line) (i % 16)
    let ue (s : State) : State := (s.bump (Reg.SC_UE_CNT r)).raiseEcc (srcRegion r 0) 0x111 ctx 1 (128 * line) (i % 16)
    match e, l.dirty with
    | .clean, _ => (s, false)
    | .single, _ => (ce s, false)
    | .double, false | .tag, _ | .tagDouble, false => ((ce s).sEvict i, false)
    | .double, true | .tagDouble, true => (((ue s).sPut i { l with poison := 3 }).sEvict i, true)
  | _, _ => (s, false)

/-! ### Allocation (R242, R243) -/

def wayMask (s : State) (r cls : Nat) : Nat := s.fld (Reg.SC_WAYMASK r cls) 15 0

/-- Ways of a class's mask, as keys of the line's set. -/
def maskKeys (s : State) (line cls : Nat) : List Nat :=
  ((List.range 16).filter fun w => bitOf (s.wayMask (homeOf line) cls) w).map (· + sliceBase line)

/-- The least recently used of some keys. -/
def lruOf (s : State) : List Nat → Option Nat
  | [] => none
  | i :: is =>
    match s.lruOf is with
    | none => some i
    | some j =>
      let u (i : Nat) : Nat := (tfind s.slice i).elim 0 (·.use)
      if u i ≤ u j then some i else some j

/-- The way a class allocates: an invalid one, else the least recently used without KEEP, else the least recently
used. A line with BLK set is never chosen (R242, R333). -/
def victim (s : State) (line cls : Nat) : Option Nat :=
  let ks := s.maskKeys line cls
  match ks.find? fun i => (tfind s.slice i).isNone with
  | some i => some i
  | none =>
    let free := ks.filter fun i => (tfind s.slice i).any fun l => !s.blocked l.line
    match s.lruOf (free.filter fun i => (tfind s.slice i).any fun l => !l.keep) with
    | some i => some i
    | none => s.lruOf free

/-- Install a line in the slice; nothing when the class has no way for it. -/
def sAlloc (s : State) (line cls : Nat) (data : List Byte) (dirty : Bool) (poison : Nat) : State :=
  match s.victim line cls with
  | none => s
  | some i =>
    let s := s.sEvict i
    { s with useNo := s.useNo + 1 }.sPut i { line := line, data := data, dirty := dirty, cls := cls, use := s.useNo, poison := poison }

/-- Recency and the KEEP mark of a hit or a new line (R243): hint 0 none, 1 STREAM, 2 KEEP, 3 LAST. -/
def sTouch (s : State) (line hint cls : Nat) : State :=
  match s.sKey line, s.sLine line with
  | some i, some l =>
    let marked := ((s.maskKeys line cls).filter fun i => (tfind s.slice i).any (·.keep)).length
    let keep := l.keep || (decide (hint = 2) && decide (marked < s.fld (Reg.SC_WAYMASK (homeOf line) cls) 20 16))
    if hint = 1 then s
    else { s with useNo := s.useNo + 1 }.sPut i { l with use := s.useNo, keep := keep }
  | _, _ => s

/-- Whether an access of a class under a hint allocates (R242, R243). -/
def allocates (s : State) (line hint cls : Nat) : Bool :=
  decide (hint = 0 ∨ hint = 2) && decide (s.wayMask (homeOf line) cls ≠ 0)

/-! ### What a home does for a non-caching agent (R324, R243, R244) -/

/-- Fetch a line for an access that missed, and allocate it where it may be; a poisoned line is not installed
(DEDUCED, R333). -/
def sFetch (s : State) (line hint cls : Nat) : (List Byte × Bool) × State :=
  let s := (s.bump (Reg.SC_MISS_CNT (homeOf line))).charge (homeOf line) cls true
  let d := s.hbmRead line
  (d, if d.2 || !s.allocates line hint cls then s else (s.sAlloc line cls d.1 false 0).sTouch line hint cls)

/-- A read: the M holder's data if there is one, else the slice's, else HBM's. LAST takes the copies away and discards
the line; a poisoned dirty line is written back instead. -/
def ncRead (s : State) (line hint cls : Nat) : (List Byte × Bool) × State :=
  let r := homeOf line
  let s := s.charge r cls false
  if hint = 3 then
    let s := s.pull line true
    match s.sKey line, s.sLine line with
    | some i, some l =>
      let s := s.bump (Reg.SC_HIT_CNT r)
      if l.poison ≠ 0 then ((l.data, true), s.sEvict i)
      else ((l.data, false), (s.bumpIf l.dirty (Reg.SC_LAST_DROP_CNT r)).sDrop i)
    | _, _ => s.sFetch line hint cls
  else
    match s.sLine line with
    | some l =>
      let s := (s.bump (Reg.SC_HIT_CNT r)).sTouch line hint cls
      match s.mHolder line with
      | some c =>
        let s := s.bump (Reg.DIR_SNP_CNT (c / 26))
        match (s.core c).ccLine line with
        | some m => ((m.data, decide (m.poison ≠ 0)), s)
        | none => ((l.data, decide (l.poison ≠ 0)), s)
      | none => ((l.data, decide (l.poison ≠ 0)), s)
    | none => s.sFetch line hint cls

/-- A write of bytes that lie in one line (R241, R243, R324); `bad` names the halves that arrive poisoned. -/
def ncWrite (s : State) (line hint cls off : Nat) (bs : List Byte) (bad : Nat := 0) : State :=
  let r := homeOf line
  let whole := decide (bs.length = 128)
  let s := (s.charge r cls false).pull line (!whole)
  match s.sKey line, s.sLine line with
  | some i, some l =>
    let l := l.write off bs bad
    let s := (s.bump (Reg.SC_HIT_CNT r)).sPut i l
    if hint = 3 then ((s.sDrop i).charge r cls true).hbmWrite line 0 l.data l.poison else s.sTouch line hint cls
  | _, _ =>
    let s := s.bump (Reg.SC_MISS_CNT r)
    if !s.allocates line hint cls then (s.charge r cls true).hbmWrite line off bs bad
    else if whole then (s.sAlloc line cls bs true bad).sTouch line hint cls
    else
      let s := s.charge r cls true
      let d := s.hbmRead line
      if d.2 then s
      else
        let s := (s.sAlloc line cls d.1 false 0).sTouch line hint cls
        match s.sKey line, s.sLine line with
        | some i, some l => s.sPut i (l.write off bs bad)
        | _, _ => s.hbmWrite line off bs bad

end State

namespace State

/-! ### Lines of a core cache -/

/-- A core cache replaces a line: EvC for a clean one, WbM for a dirty one (R319, R321). -/
def ccReplace (s : State) (c i : Nat) : State :=
  match tfind (s.core c).cc i with
  | none => s
  | some l =>
    let s := s.modCore c fun k => k.ccDrop i
    if l.st = .m then s.mergeM l.line l.data l.poison else s

/-- Install a line in a core cache. -/
def ccInstall (s : State) (c line : Nat) (st : Mesi) (d : List Byte) (poison : Nat) : State :=
  match (s.core c).ccKey line with
  | some i => s.modCore c fun k => (k.ccPut i ⟨line, st, d, poison⟩).ccTouch i
  | none =>
    let i := (s.core c).ccPlace line
    (s.ccReplace c i).modCore c fun k => (k.ccPut i ⟨line, st, d, poison⟩).ccTouch i

/-- What a core cache's checks find in one of its entries, by 8 × set + way (R154): a clean line that fails is dropped, to
be fetched again; a dirty one is written back, with poison when its data cannot be corrected. -/
def ccErr (s : State) (c : Nat) (f : Fin 4096 × SliceErr) : State :=
  match tfind (s.core c).cc f.1 with
  | none => s
  | some l =>
    let host := decide (hostName 0 ≤ l.line)
    let tell (s : State) (kind cnt : Nat) : State :=
      (s.bump cnt).raiseEcc (srcCore c 1) kind (s.core c).ctx (if host then 2 else 1) (128 * (if host then l.line - hostName 0 else l.line)) (f.1 % 8)
    let ce (s : State) : State := tell s 0x013 (Reg.CSTORE_CC_CE_CNT (c / 26) (c % 26))
    let ue (s : State) : State := tell s 0x014 (Reg.CSTORE_CC_UE_CNT (c / 26) (c % 26))
    match f.2, l.st with
    | .clean, _ => s
    | .single, _ => ce s
    | .double, .m | .tagDouble, .m => ((ue s).modCore c fun k => k.ccPut f.1 { l with poison := 3 }).ccReplace c f.1
    | .double, _ | .tag, _ | .tagDouble, _ => (ce s).ccReplace c f.1

def ccErrs (s : State) (c : Nat) (fs : List (Fin 4096 × SliceErr)) : State := fs.foldl (fun s f => s.ccErr c f) s

end State

/-! ### Atomics (R247, R248) -/

/-- The result an operation leaves in memory, and the flags it raises. -/
def atomApply (op : AtomOp) (w old v cmp : Nat) : Nat × Flags :=
  let m := 2 ^ (8 * w)
  let si (x : Nat) : Int := signed (8 * w) x
  let f32 (x : Nat) : Val := Elem.decode .b32 x
  let out (x : Val) : Nat := (toB32 x).1
  match op with
  | .add => ((old + v) % m, 0)
  | .and => (old &&& v, 0)
  | .or => (old ||| v, 0)
  | .xor => (old ^^^ v, 0)
  | .smin => (if si v < si old then v else old, 0)
  | .smax => (if si old < si v then v else old, 0)
  | .umin => (min old v, 0)
  | .umax => (max old v, 0)
  | .swap => (v, 0)
  | .cas => (if old = cmp then v else old, 0)
  | .fadd => addB32 old v
  | .fmin => (out (vmin (f32 old) (f32 v)), 0)
  | .fmax => (out (vmax (f32 old) (f32 v)), 0)
  | .radd64 => fixAdd old v

/-- The bytes an atomic leaves at its place in a line, the old value and the flags. A RADD64 adds sixteen elements. -/
def atomLine (op : AtomOp) (w off cmp : Nat) (v : List Byte) (data : List Byte) : List Byte × Nat × Flags :=
  if op = .radd64 then
    let e := (List.range 16).map fun i => fixAdd (fieldAt data (8 * i) 8) (fieldAt v (8 * i) 8)
    (e.flatMap fun x => leBytes 8 x.1, 0, e.foldl (fun f x => f ||| x.2) 0)
  else
    let old := fieldAt data off w
    let r := atomApply op w old (ofLe (v.take w)) cmp
    (mergeAt data off (leBytes w r.1), old, r.2)

/-- An atomic carries the hint none or KEEP; another counts as none (R243). -/
def atomHint (h : Nat) : Nat := if h = 2 then 2 else 0

namespace State

/-- PRED moves by one, saturating (R326). -/
def predStep (s : State) (line : Nat) (up : Bool) : State :=
  match s.sKey line, s.sLine line with
  | some i, some l => s.sPut i { l with pred := if up then min 3 (l.pred + 1) else l.pred - 1 }
  | _, _ => s

/-- Where an atomic is placed (R326): near only for an eligible one. -/
def placeNear (s : State) (line : Nat) (near : Option Nat) : Bool :=
  let r := homeOf line
  near.isSome && (match s.fld (Reg.DIR_CTL r) 1 0 with
    | 0 => decide ((s.sLine line).elim 1 (·.pred) < 2)
    | 2 => true
    | _ => false)

/-- One atomic at its home (R247, R325, R326): the old value, whether the line was poisoned, and the flags. The near
target keeps the line in M and applies the operation; far, the slice does. -/
def ncAtomic (s : State) (line hint cls : Nat) (op : AtomOp) (w off cmp : Nat) (v : List Byte) (near : Option Nat) :
    (Nat × Bool × Flags) × State :=
  let r := homeOf line
  let near := if op = .radd64 then none else near
  let tgt := near.getD 104
  let goNear := s.placeNear line near
  let others := (s.holders line).filter fun c => decide (c ≠ tgt)
  let mine := (near.bind fun c => (s.core c).ccLine line)
  let s := s.charge r cls false
  let s := s.pull line true (if goNear then tgt else 104)
  let s := (s.bump (Reg.SC_ATOMIC_CNT r)).bump (if goNear then Reg.DIR_NEAR_CNT r else Reg.DIR_FAR_CNT r)
  let got : (List Byte × Bool) × State := match s.sLine line with
    | some l => ((l.data, decide (l.poison ≠ 0)), (s.bump (Reg.SC_HIT_CNT r)).sTouch line (atomHint hint) cls)
    | none => s.sFetch line (atomHint hint) cls
  let s := if !others.isEmpty then got.2.predStep line true
    else if near.isSome then got.2.predStep line false else got.2
  let data := match goNear, mine with
    | true, some l => if l.st = Mesi.m then l.data else got.1.1
    | _, _ => got.1.1
  let poison := match goNear, mine with
    | true, some l => if l.st = Mesi.m then decide (l.poison ≠ 0) else got.1.2
    | _, _ => got.1.2
  if poison then ((0, true, 0), s)
  else
    let a := atomLine op w off cmp v data
    let s := match s.sKey line, s.sLine line with
      | some i, some l =>
        if goNear then s.ccInstall tgt line .m a.1 0
        else s.sPut i (l.write 0 a.1 0)
      | _, _ => (s.charge r cls true).hbmWrite line 0 a.1 0
    ((a.2.1, false, a.2.2), s)

/-! ### What a home does for a core cache -/

/-- An M or E copy elsewhere goes to S; M returns data (R319). -/
def shareOthers (s : State) (line c : Nat) : State :=
  ((s.holders line).filter fun d => decide (d ≠ c)).foldl (fun s d =>
    match (s.core d).ccLine line with
    | some l =>
      let s := if l.st = .s then s else (s.bump (Reg.DIR_SNP_CNT (d / 26))).ccSetSt d line .s
      if l.st = .m then s.mergeM line l.data l.poison else s
    | none => s) s

/-- A line a core cache asks for: the slice's data, fetched when it misses. -/
def sliceFor (s : State) (line hint cls : Nat) : (List Byte × Bool) × State :=
  match s.sLine line with
  | some l => ((l.data, decide (l.poison ≠ 0)), (s.bump (Reg.SC_HIT_CNT (homeOf line))).sTouch line hint cls)
  | none => s.sFetch line hint cls

/-- A read through a core cache of an HBM line (R133, R151, R319). A LAST read takes every copy away; a line the slice
does not keep is not installed, since the slice is inclusive (DEDUCED, R316). -/
def ccRead (s : State) (c line hint cls : Nat) : (List Byte × Bool) × State :=
  if hint = 3 then s.ncRead line 3 cls
  else
    match (s.core c).ccKey line, (s.core c).ccLine line with
    | some i, some l => ((l.data, decide (l.poison ≠ 0)), s.modCore c fun k => k.ccTouch i)
    | _, _ =>
      let s := (s.charge (homeOf line) cls false).shareOthers line c
      let st := if (s.holders line).isEmpty then Mesi.e else Mesi.s
      let d := s.sliceFor line hint cls
      if d.1.2 || (d.2.sLine line).isNone then d else (d.1, d.2.ccInstall c line st d.1.1 0)

/-- A write through a core cache to an HBM line (R133, R319, R321). -/
def ccWrite (s : State) (c line hint cls off : Nat) (bs : List Byte) (bad : Nat := 0) : State :=
  let whole := decide (bs.length = 128)
  let put (s : State) (d : List Byte) (p : Nat) : State :=
    let l := SLine.write ⟨line, d, false, false, 0, 0, p, 0⟩ off bs bad
    s.ccInstall c line .m l.data l.poison
  if hint = 3 then s.ncWrite line 3 cls off bs bad
  else
    match (s.core c).ccLine line with
    | some l =>
      let s := if l.st = .s then (s.charge (homeOf line) cls false).pull line true c else s
      put s l.data l.poison
    | none =>
      let s := (s.charge (homeOf line) cls false).pull line (!whole)
      if whole then
        let s := if (s.sLine line).isSome then s.sTouch line hint cls
          else if s.allocates line hint cls then
            ((s.bump (Reg.SC_MISS_CNT (homeOf line))).sAlloc line cls (s.hbmRead line).1 false 0).sTouch line hint cls
          else s
        if (s.sLine line).isSome then put s bs bad else s.ncWrite line hint cls off bs bad
      else
        let d := s.sliceFor line hint cls
        if d.1.2 then d.2
        else if (d.2.sLine line).isNone then d.2.ncWrite line hint cls off bs bad
        else put d.2 d.1.1 0

/-- A core enters OFF: its core cache writes back and invalidates (R153), and its agent epoch moves on (R328). -/
def ccFlush (s : State) (c : Nat) : State :=
  let s := (s.core c).cc.foldl (fun s e => s.ccReplace c e.1) s
  s.setFld (Reg.DIR_EPOCH (c / 26) (c % 26)) 7 0 (s.fld (Reg.DIR_EPOCH (c / 26) (c % 26)) 7 0 + 1)

end State

end Sys2Proof.Machine
end

