-- ==== Sys2Proof/Machine/Dc.lean ====
section
/-!
DEFINITION. The device cache: R291 to R311. A line is HPA / 64.
-/
namespace Sys2Proof.Machine

/-- The first key of a line's set: HPA bits [19:6] (R291). -/
def dcBase (line : Nat) : Nat := line % 16384 * 16

/-- One step of the replacement generator (R302). -/
def lfsr16 (x : Nat) : Nat :=
  let fb := (b2n (bitOf x 15) + b2n (bitOf x 13) + b2n (bitOf x 12) + b2n (bitOf x 10)) % 2
  (x * 2 + fb) % 65536

namespace State

def setDc (s : State) (d : DcSt) : State := { s with dc := d }

def dcKey (s : State) (line : Nat) : Option Nat :=
  ((List.range 16).map (· + dcBase line)).find? fun i => (tfind s.dc.lines i).any fun l => decide (l.line = line)

def dcLine (s : State) (line : Nat) : Option DLine := (s.dcKey line).bind fun i => tfind s.dc.lines i

def dcPut (s : State) (i : Nat) (l : DLine) : State := s.setDc { s.dc with lines := tput i l s.dc.lines }

/-- The directories of the regions of a presence vector invalidate the 128-byte line that holds a line (R292). -/
def backInval (s : State) (pres line : Nat) : State :=
  s.cores.foldl (fun s e => if bitOf pres (e.1 / 26) then s.ccRemove e.1 (hostName (line / 2)) else s) s

/-- A line is dropped without a host message. -/
def dcDrop (s : State) (i : Nat) : State :=
  match tfind s.dc.lines i with
  | some l => (s.setDc { s.dc with lines := tdel i s.dc.lines }).backInval l.pres l.line
  | none => s

/-- A valid line leaves through the eviction buffer with CleanEvictNoData (R303). -/
def dcEvict (s : State) (i : Nat) : State :=
  match tfind s.dc.lines i with
  | some l =>
    let s := (s.dcDrop i).bump Reg.DC_EVICT_CNT
    (s.setDc { s.dc with evb := s.dc.evb ++ [l.line] }).cacheReq 4 l.line 0 []
  | none => s

def dcMask (s : State) (cls : Nat) : Nat := s.fld (Reg.DC_WAYMASK cls) 15 0

/-- The way a class allocates (R301): the lowest invalid way of the mask, one a fill has taken not counted; else by the
generator. -/
def dcVictim (s : State) (line cls : Nat) : Option Nat × State :=
  let ks := ((List.range 16).filter fun w => bitOf (s.dcMask cls) w).map (· + dcBase line)
  let taken (i : Nat) : Bool := s.dc.fills.any (fun f => f.key == some i) || s.dc.wt.any (fun w => w.zero == some i)
  match ks.find? fun i => (tfind s.dc.lines i).isNone && !taken i with
  | some i => (some i, s)
  | none =>
    if ks.isEmpty then (none, s)
    else
      let x := lfsr16 (s.fld Reg.DC_LFSR 15 0)
      let i := ks.getD (x % 16 % ks.length) 0
      (some i, (s.setFld Reg.DC_LFSR 15 0 x).dcEvict i)

/-- Whether a read miss under a hint allocates now (R294, R301, R305). -/
def dcAllocs (s : State) (hint cls : Nat) : Bool :=
  decide (hint = 0 ∨ hint = 2) && decide (s.dcMask cls ≠ 0) && s.dc.state == .run

/-- Issue a fill for a line (R295): the victim leaves at once. -/
def dcFill (s : State) (line cls pres : Nat) (alloc pf : Bool) (agent : Option Agent := none) : State :=
  let v := if alloc then s.dcVictim line cls else (none, s)
  let f : Fill := { line := line, key := v.1, cls := cls, pres := pres, pf := pf, agent := agent }
  (v.2.setDc { v.2.dc with fills := v.2.dc.fills ++ [f] }).cacheReq (if v.1.isSome then 1 else 0) line 0 []

/-- Next-line prefetch of the line after a demand miss (R300); none of a line with an unacknowledged write, which R296
makes a miss wait for. -/
def dcPrefetch (s : State) (last cls : Nat) : State :=
  let n := last + 1
  if s.bit Reg.DC_CTL 0 && s.bit (Reg.DC_WAYMASK cls) 16 && decide (n / 64 = last / 64) && (s.dcKey n).isNone
      && s.dc.fills.all (fun f => decide (f.line ≠ n)) && s.dc.wt.all (fun w => decide (w.line ≠ n))
      && decide (s.dc.fills.length + 64 ≤ 1024) then
    (s.bump Reg.DC_PF_CNT).dcFill n cls 0 true true
  else s

/-- A hit: it counts, a prefetched line has been used, and a LAST read removes the line (R294). -/
def dcHit (s : State) (i : Nat) (l : DLine) (hint : Nat) (pres : Nat) : State :=
  let s := (s.bump Reg.DC_HIT_CNT).bumpIf l.pf Reg.DC_PF_USE_CNT
  let s := s.dcPut i { l with pf := false, pres := l.pres ||| pres }
  if hint = 3 then s.dcEvict i else s

/-- Whether the cache takes requests (R305); DETACHED makes none toward the host (R463). -/
def dcServes (s : State) : Bool :=
  (s.dc.state == .run || s.dc.state == .maint) && s.hl.attach != .detached && !s.sump.fatal

/-- Whether a read of a line is answered without waiting on another event of the line (R296, R303). -/
def dcReady (s : State) (line : Nat) : Bool :=
  s.dcServes && ((s.dcKey line).isSome
    || (!s.dc.evb.contains line && s.dc.wt.all (fun w => decide (w.line ≠ line)) && s.dc.fills.all (fun f => decide (f.line ≠ line))))

/-- A write toward the host (R297): it merges on a hit, core copies go, and it enters the write-through buffer. -/
def dcWrite (s : State) (line off : Nat) (bs : List Byte) (owner : WtOwner) (ctx : Option Nat) (cls : Nat) : State :=
  let s := match s.dcKey line, s.dcLine line with
    | some i, some l => ((s.bump Reg.DC_HIT_CNT).dcPut i { l with data := mergeAt l.data off bs, pres := 0 }).backInval l.pres line
    | _, _ => s.bump Reg.DC_MISS_CNT
  let w : Wt := { id := s.dc.nextId, line := line, off := off, data := bs, owner := owner, ctx := ctx, cls := cls,
                   gen := s.fld Reg.HL_STS 15 8 }
  let s := s.setDc { s.dc with wt := s.dc.wt ++ [w], nextId := s.dc.nextId + 1 }
  s.cacheReq (if bs.length = 64 then 2 else 3) line off bs

/-- A zero-line (R299): on a miss that may allocate, a victim is reserved and the line installs on observation. -/
def dcZero (s : State) (line : Nat) (owner : WtOwner) (ctx : Option Nat) (cls : Nat) : State :=
  let z := List.replicate 64 0#8
  let s := s.bump Reg.DC_ZERO_CNT
  if (s.dcKey line).isSome || !(decide (s.dcMask cls ≠ 0) && s.dc.state == .run) then s.dcWrite line 0 z owner ctx cls
  else
    let v := (s.bump Reg.DC_MISS_CNT).dcVictim line cls
    let s := v.2
    let w : Wt := { id := s.dc.nextId, line := line, off := 0, data := z, owner := owner, ctx := ctx, cls := cls, zero := v.1,
                     gen := s.fld Reg.HL_STS 15 8 }
    (s.setDc { s.dc with wt := s.dc.wt ++ [w], nextId := s.dc.nextId + 1 }).cacheReq 2 line 0 z

/-! ### Maintenance (R306, R307) -/

/-- End a maintenance operation with its result. -/
def dcOpEnd (s : State) (result : Nat) : State :=
  match s.dc.op with
  | none => s
  | some o =>
    let s := (s.setDc { s.dc with op := none }).setFld Reg.DC_MAINT 27 26 result
    match o.cmd with
    | some c => if result = 0 then s.complete c 0 else s.complete c 6 s.dc.state.code
    | none => s

/-- Whether an operation names a line of the given set and way, or the address. -/
def dcOpNames (o : DcOp) (i : Nat) (l : DLine) : Bool :=
  if o.bySet then decide (o.first ≤ i / 16) && decide (i / 16 < o.first + o.count) && bitOf o.ways (i % 16)
  else decide (l.line = o.line)

/-- The lines of the operation leave as far as the eviction buffer has room; the operation ends when nothing is left
to remove or to wait for. A fill in flight for the line installs nothing (R308). By set and way it waits in HOLD (R575). -/
def dcOpStep (s : State) : State :=
  match s.dc.op with
  | none => s
  | some o =>
    if !o.wts.isEmpty ∨ (o.bySet ∧ s.hl.attach = .hold) then s
    else
      let hits := if o.op = 1 then [] else s.dc.lines.filter fun e => dcOpNames o e.1 e.2
      let s := (hits.take (64 - s.dc.evb.length)).foldl (fun s e => s.dcEvict e.1) s
      let noInstall (f : Fill) : Fill := if o.op ≠ 1 ∧ !o.bySet ∧ f.line = o.line then { f with key := none } else f
      let noZero (w : Wt) : Wt := if o.op ≠ 1 ∧ !o.bySet ∧ w.line = o.line then { w with zero := none } else w
      let s := s.setDc { s.dc with
        fills := s.dc.fills.map noInstall, wt := s.dc.wt.map noZero
        set := if o.bySet then min 16383 (o.first + o.count - 1) else s.dc.set }
      let rest := if o.op = 1 then [] else s.dc.lines.filter fun e => dcOpNames o e.1 e.2
      if rest.isEmpty then s.dcOpEnd 0 else s

/-- Start an operation: 1 CLEAN, 2 INVALIDATE, 3 CLEAN_INVALIDATE. By set and way outside MAINT it is refused. -/
def dcOpStart (s : State) (op : Nat) (bySet : Bool) (line first count ways : Nat) (cmd : Option Cmd) : State :=
  let s := (s.setCfg Reg.DC_MAINT (BitVec.ofNat 32 (op + 16 * b2n bySet))).setCfg Reg.DC_MAINT_SW (BitVec.ofNat 32 (ways * 65536 + first))
  let s := (s.setCfg Reg.DC_MAINT_CNT (BitVec.ofNat 32 count)).setCfg Reg.DC_MAINT_A0 (BitVec.ofNat 32 line)
  let s := s.setCfg Reg.DC_MAINT_A1 (BitVec.ofNat 32 (line / 2 ^ 32))
  let o : DcOp := ⟨op, bySet, line, first, count, ways, [], cmd⟩
  if bySet ∧ s.dc.state ≠ .maint then (s.setDc { s.dc with op := some o }).dcOpEnd 1
  else
    let covered (w : Wt) : Bool := if bySet then decide (first ≤ w.line % 16384) && decide (w.line % 16384 < first + count)
      else decide (w.line = line)
    let wts := if op = 2 then [] else (s.dc.wt.filter covered).map (·.id)
    (s.setDc { s.dc with op := some { o with wts := wts } }).dcOpStep

/-! ### Fills, observation and evictions -/

/-- Install a line at a place: what stands there leaves first. -/
def dcPlace (s : State) (i : Nat) (l : DLine) : State := (s.dcEvict i).dcPut i l

/-- Fills that have both chunks install, unless their line still waits in the eviction buffer (R303); a line that is
present already keeps its place. -/
def dcInstall (s : State) : State :=
  let ready (f : Fill) : Bool := f.lo.isSome && f.hi.isSome && (f.key.isNone || !s.dc.evb.contains f.line)
  let go (s : State) (f : Fill) : State :=
    let d := f.lo.getD [] ++ f.hi.getD []
    let l : DLine := { line := f.line, cls := f.cls, pres := f.pres, data := d, pf := f.pf }
    let s := match f.key, s.dcKey f.line with
      | some _, some j => s.dcPut j { l with pres := l.pres ||| ((s.dcLine f.line).elim 0 (·.pres)) }
      | some i, none => s.dcPlace i l
      | none, _ => s
    match f.agent with
    | some a => s.send (.memData a f.line d false)
    | none => s
  (s.dc.fills.filter ready).foldl go (s.setDc { s.dc with fills := s.dc.fills.filter fun f => !ready f })

/-- A line as a requester reads it, with what the host returns when it misses: bytes the operand does not give are
free. No bytes: the request ended without data (R455). A fill of the line in flight serves the read, and no second
request is made. -/
def dcGet (s : State) (fills : List HostFill) (line hint cls pres : Nat) : Option (List Byte) × State :=
  match s.dcKey line, s.dcLine line with
  | some i, some l => (some l.data, s.dcHit i l hint pres)
  | _, _ =>
    let s := s.bump Reg.DC_MISS_CNT
    let got : Option (List Byte) := match fills.find? fun f => decide (f.line = line) with
      | some f => f.data.map fun d => (d ++ List.replicate 64 0#8).take 64
      | none => some ((List.range 64).map fun i => BitVec.ofNat 8 (Config.fresh (s.free + i)))
    let s := { s with free := s.free + 64 }
    match s.dc.fills.find? fun f => decide (f.line = line) with
    | some f =>
      let got := match f.lo, f.hi with
        | some a, some b => some (a ++ b)
        | _, _ => got
      match got with
      | some d =>
        let come (f : Fill) : Fill := if f.line = line then { f with lo := some (d.take 32), hi := some (d.drop 32) } else f
        (got, (s.setDc { s.dc with fills := s.dc.fills.map come }).dcInstall)
      | none => (none, s.setDc { s.dc with fills := s.dc.fills.filter fun f => decide (f.line ≠ line) || f.agent.isSome })
    | none =>
      if !s.dcAllocs hint cls then (got, s.cacheReq 0 line 0 [])
      else
        let v := s.dcVictim line cls
        let s := v.2.cacheReq 1 line 0 []
        match got, v.1 with
        | some d, some i => (got, s.dcPut i { line := line, cls := cls, pres := pres, data := d })
        | _, _ => (got, s)

/-- A parity error (R309, R310): recorded, counted and reported, with its recovery. -/
def dcParity (s : State) (line : Nat) (e : DcErr) : State :=
  let i := (s.dcKey line).getD 0
  let ce (s : State) (kind : Nat) : State :=
    let w := if kind < 2 then i % 16 else 0
    ((s.bump Reg.DC_PAR_CNT).setCfg Reg.DC_ERR (BitVec.ofNat 32 (2 ^ 31 + kind * 2 ^ 29 + w * 2 ^ 14 + line % 16384))).raiseEcc
      (srcDevice 0) 0x300 none 2 (64 * line) w
  match e with
  | .clean => s
  | .data => if (s.dcKey line).isSome then (ce s 0).dcEvict i else s
  | .tag =>
    if (s.dcKey line).isSome then
      let s := ce s 1
      let s := s.setDc { s.dc with lines := tdel i s.dc.lines }
      s.cores.foldl (fun s k => k.2.cc.foldl (fun s c =>
        if hostName 0 ≤ c.2.line ∧ (c.2.line - hostName 0) % 8192 = line % 16384 / 2 then s.ccRemove k.1 c.2.line else s) s) s
    else s
  | .fill =>
    if s.dc.fills.any fun f => decide (f.line = line) then
      let again (f : Fill) : Fill := if f.line = line then { f with lo := none, hi := none } else f
      let kept := s.dc.fills.any fun f => decide (f.line = line) && f.key.isSome
      ((ce s 2).setDc { s.dc with fills := s.dc.fills.map again }).cacheReq (if kept then 1 else 0) line 0 []
    else s
  | .evict =>
    if line ∈ s.dc.evb then
      let s := ce s 3
      (s.setDc { s.dc with evb := s.dc.evb.filter (· ≠ line) }).dcInstall
    else s
  | .writeThrough =>
    if s.dc.wt.any fun w => decide (w.line = line) then s.raiseEcc (srcDevice 0) 0x301 none 2 (64 * line) 0 else s

end State

/-- DC_READ: a read reaches the cache; a hit is answered, a miss is issued under its hint, and a read that an eviction,
an unacknowledged write or a full buffer holds back waits (R294 to R296, R303). -/
def execDcRead (agent : Agent) (line : Fin 70368744177664) (hint : Fin 4) (cls : Fin 9) (err : DcErr) (s : State) : Res :=
  when s.dcServes (fun s =>
    let s := s.dcParity line err
    match s.dcKey line, s.dcLine line with
    | some i, some l => (s.dcHit i l hint 0).send (.memData agent line l.data false)
    | _, _ =>
      if line.val ∈ s.dc.evb ∧ err ≠ .data then s.bump Reg.DC_EVB_WAIT_CNT
      else if s.dc.wt.any (fun w => decide (w.line = line)) ∨ 1024 ≤ s.dc.fills.length ∨ 64 ≤ s.dc.evb.length then s
      else
        let s := s.bump Reg.DC_MISS_CNT
        let alloc := s.dcAllocs hint cls
        let s := s.dcFill line cls 0 alloc false (some agent)
        if alloc then s.dcPrefetch line cls else s) s

/-- DC_WRITE: a write reaches the cache (R297). -/
def execDcWrite (line : Fin 70368744177664) (off : Fin 64) (bytes : List Byte) (owner : Agent) (ctx : Option (Fin 64))
    (cls : Fin 9) (err : DcErr) (s : State) : Res :=
  let bs := bytes.take (64 - off)
  let o : WtOwner := match owner with
    | .stream c => .stream c
    | .copy e => .copy e 64
    | _ => .bittern
  when (s.dcServes && !bs.isEmpty && decide (s.dc.wt.length < 1024)) (fun s => (s.dcWrite line off bs o (ctx.map (·.val)) cls).dcParity line err) s

/-- ZERO_LINE (R299). -/
def execZeroLine (line : Fin 70368744177664) (cls : Fin 9) (s : State) : Res :=
  when (s.dcServes && decide (s.dc.wt.length < 1024) && decide (s.dc.evb.length < 64)) (fun s => s.dcZero line .bittern none cls) s

/-- FILL_CHUNK: one half of a line comes from the host; the line installs once both have (R295). -/
def execFillChunk (line : Fin 70368744177664) (high : Bool) (data : List Byte) (s : State) : Res :=
  let d := (data ++ List.replicate 32 0#8).take 32
  let take (f : Fill) : Fill := if f.line = line then (if high then { f with hi := some d } else { f with lo := some d }) else f
  when (s.dc.fills.any (fun f => decide (f.line = line)) && s.hl.attach == .attached && !s.sump.fatal)
    (fun s => (s.setDc { s.dc with fills := s.dc.fills.map take }).dcInstall) s

/-- GLOBAL_OBSERVATION: the oldest write-through entry of the line is acknowledged (R298, R299). -/
def execGlobalObservation (line : Fin 70368744177664) (s : State) : Res :=
  match s.dc.wt.find? fun w => decide (w.line = line.val) with
  | none => done s
  | some w =>
    when (s.hl.attach == .attached && !s.sump.fatal) (fun s =>
      let s := s.setDc { s.dc with wt := s.dc.wt.filter fun v => decide (v.id ≠ w.id) }
      let s := s.bump Reg.DC_WT_CNT
      let s := match w.zero with
        | some i => if w.line ∈ s.dc.evb then s else s.dcPlace i { line := w.line, cls := w.cls, data := w.data }
        | none => s
      let s := match w.owner with
        | .copy e n => s.chunkAck e n w.id
        | _ => s
      match s.dc.op with
      | some o => (s.setDc { s.dc with op := some { o with wts := o.wts.filter (· ≠ w.id) } }).dcOpStep
      | none => s) s

/-- CLEAN_EVICT_DONE: the entry is freed, and what waited on it goes on (R303). -/
def execCleanEvictDone (line : Fin 70368744177664) (s : State) : Res :=
  when (decide (line.val ∈ s.dc.evb)) (fun s =>
    ((s.setDc { s.dc with evb := s.dc.evb.filter (· ≠ line.val) }).dcInstall).dcOpStep) s

/-- A host snoop of a line (R304, R308): in the eviction buffer it is a miss; SnpInv removes the line, and a fill in
flight then installs nothing. -/
def State.hostSnoop (s : State) (line : Nat) (inv : Bool) : State :=
  let s := s.bump Reg.DC_SNP_CNT
  let noInstall (f : Fill) : Fill := if f.line = line then { f with key := none } else f
  match s.dcKey line with
  | some i =>
    if inv then ((s.dcDrop i).bump Reg.DC_SNP_INV_CNT).send (.snpRsp line 1) else s.send (.snpRsp line 2)
  | none =>
    let s := if inv then s.setDc { s.dc with fills := s.dc.fills.map noInstall } else s
    s.send (.snpRsp line 0)

/-- HOST_SNPINV. -/
def execHostSnpinv (line : Fin 70368744177664) (s : State) : Res :=
  when (s.dc.state != .off && s.hl.up) (fun s => s.hostSnoop line true) s

/-- HOST_SNPDATA. -/
def execHostSnpdata (line : Fin 70368744177664) (s : State) : Res :=
  when (s.dc.state != .off && s.hl.up) (fun s => s.hostSnoop line false) s

/-- HOST_SNPCUR. -/
def execHostSnpcur (line : Fin 70368744177664) (s : State) : Res :=
  when (s.dc.state != .off && s.hl.up) (fun s => s.hostSnoop line false) s

/-- DC_INIT_SWEEP: every set is invalid without host messages, a maintenance operation ends with it, and the cache
runs (R305, R308). -/
def execDcInitSweep (s : State) : Res :=
  when (s.dc.state == .init) (fun s =>
    let s := s.dcOpEnd 2
    s.setDc { s.dc with lines := [], state := .run, set := 16383 }) s

end Sys2Proof.Machine
end

