-- ==== Sys2Proof/Machine/Coherence.lean ====
section
/-!
DEFINITION. Coherence messages: R317 to R328, R333. Each command is one message that reaches its home, a core cache or
a directory.
-/
namespace Sys2Proof.Machine

namespace State

def setCoh (s : State) (c : CohSt) : State := { s with coh := c }

/-- The class and context of a core's requests. -/
def coreCls (s : State) (c : Nat) : Nat := (s.core c).ctx.elim 8 fun x => (s.context x).part

/-- A message of a core cache with an epoch that is not the current one is dropped, counted, recorded and reported
(R328); otherwise it is taken. -/
def fresh (s : State) (c : Nat) (epoch : Byte) (f : State → State) : State :=
  let r := c / 26
  if s.fld (Reg.DIR_EPOCH r (c % 26)) 7 0 = epoch.toNat then f s
  else
    ((s.bump (Reg.DIR_STALE_CNT r)).setCfg (Reg.DIR_STALE r) (BitVec.ofNat 32 (2 ^ 31 + c % 26 * 65536 + epoch.toNat))).raise
      (srcRegion r 1) 0x202 none 6 (c % 26)

/-! ### Transactions (R318, R319, R324) -/

/-- The snoops a request needs. -/
def snoopsOf (s : State) (t : Txn) : List Snoop :=
  let others := (s.holders t.line).filter fun c => decide (t.core ≠ some c)
  let inv (cs : List Nat) : List Snoop := cs.map fun c => ⟨c, t.line, .inv, false⟩
  match t.kind with
  | .rdS => (others.filter fun c => ((s.core c).ccLine t.line).any fun l => decide (l.st ≠ .s)).map fun c => ⟨c, t.line, .shr, false⟩
  | .rdO | .ownND | .upg | .ncWr => inv others
  | .ncRd => if t.hint = 3 then inv others else (s.mHolder t.line).toList.map fun c => ⟨c, t.line, .cur, false⟩
  | .ncAt => inv (if s.placeNear t.line t.near then others.filter fun c => decide (t.near ≠ some c) else others)

def grant (s : State) (t : Txn) (st : Mesi) (d : List Byte) (bad : Nat) : State :=
  s.setCoh { s.coh with grants := s.coh.grants ++ [⟨t.core.getD 0, t.line, st, d, bad, t.off, t.data⟩] }

/-- A context consumed poison: it is suspended with cause POISON (R226, R491). -/
def poisonCtx (s : State) (ctx : Option Nat) : State :=
  match ctx with
  | some x => s.suspend x .poison
  | none => s

end State

/-- The region of a requester. -/
def agentRegion : Agent → Nat
  | .stream c => c.val / 26
  | .copy e => e.val / 4
  | .fabric r | .walker r => r.val
  | .bittern | .host => 0

namespace State

/-- Serve a transaction that has every snoop answer: a core cache gets a Grant and the line stays blocked until its
Ack; a non-caching access is applied and closes it. Where the slice keeps no line, the core cache may hold none either
(DEDUCED, R316): a read's Grant installs nothing, and a write is applied at the home. -/
def serveTxn (s : State) (t : Txn) : State :=
  let drop (s : State) : State := s.setCoh { s.coh with open_ := s.coh.open_.filter fun u => decide (u.line ≠ t.line) }
  let keep (s : State) : State :=
    s.setCoh { s.coh with open_ := s.coh.open_.map fun u => if u.line = t.line then { u with granted := true } else u }
  let ag := t.agent.getD .bittern
  let stay (s : State) : State := s.setCoh { s.coh with open_ := s.coh.open_ ++ [{ t with granted := true }] }
  let own (s : State) : State :=
    let d := s.sliceFor t.line t.hint t.cls
    if !d.1.2 && (d.2.sLine t.line).isNone then d.2.ncWrite t.line t.hint t.cls t.off t.data
    else (stay d.2).grant t .m d.1.1 (if d.1.2 then 3 else 0)
  match t.kind with
  | .rdS =>
    let alone := ((s.holders t.line).filter fun c => decide (t.core ≠ some c)).isEmpty
    let d := (drop s).sliceFor t.line t.hint t.cls
    let st : Mesi := if (d.2.sLine t.line).isNone then .i else if alone then .e else .s
    (stay d.2).grant t st d.1.1 (if d.1.2 then 3 else 0)
  | .rdO => own (drop s)
  | .ownND =>
    let s := drop s
    let s := if (s.sLine t.line).isSome then s.sTouch t.line t.hint t.cls
      else if s.allocates t.line t.hint t.cls then
        ((s.bump (Reg.SC_MISS_CNT (homeOf t.line))).sAlloc t.line t.cls (s.hbmRead t.line).1 false 0).sTouch t.line t.hint t.cls
      else s
    if (s.sLine t.line).isSome then (stay s).grant t .m t.data 0 else s.ncWrite t.line t.hint t.cls t.off t.data
  | .upg =>
    match (s.core (t.core.getD 104)).ccLine t.line with
    | some l => (keep s).grant t .m l.data l.poison
    | none => own (drop s)
  | .ncRd =>
    let d := match t.got with
      | some g => ((g.1, decide (g.2 ≠ 0)), ((drop s).bump (Reg.SC_HIT_CNT (homeOf t.line))).sTouch t.line t.hint t.cls)
      | none => (drop s).ncRead t.line t.hint t.cls
    let s := d.2.send (.memData ag t.line d.1.1 d.1.2)
    if d.1.2 then s.poisonCtx t.ctx else s
  | .ncWr => (drop s).ncWrite t.line t.hint t.cls t.off t.data
  | .ncAt =>
    let d := (drop s).ncAtomic t.line t.hint t.cls t.op t.size t.off t.cmp t.data t.near
    let s := d.2.send (.memData ag t.line (leBytes 8 d.1.1) d.1.2.1)
    if d.1.2.1 then s.poisonCtx t.ctx else s

/-- Open a transaction: its snoops go out, or it is served at once. -/
def openTxn (s : State) (t : Txn) : State :=
  let sn := s.snoopsOf t
  let t := { t with waits := sn.map (·.core) }
  let s := s.setCoh { s.coh with open_ := s.coh.open_ ++ [t], snoops := s.coh.snoops ++ sn }
  if sn.isEmpty then s.serveTxn t else s

/-- A request for a line reaches its home: it waits in order while the line has BLK set (R318). -/
def request (s : State) (t : Txn) : State :=
  if s.blocked t.line then
    (s.bump (Reg.DIR_CONFLICT_CNT (homeOf t.line))).setCoh { s.coh with waiting := s.coh.waiting ++ [t] }
  else s.openTxn t

/-- A request of the block for a line: in HOST bias the host is asked, and the access is served as a non-caching one,
with nothing installed and no near atomic; while the bias changes it is held (R451, R452). -/
def blockRequest (s : State) (t : Txn) : State :=
  if t.agent = some .host then s.request t
  else if s.biasStuck t.line then s
  else if !s.hostBias t.line then s.request t
  else
    let rd := t.kind == .rdS || t.kind == .ncRd
    let kind : CohKind := match t.kind with
      | .rdS | .ncRd => .ncRd
      | .ncAt => .ncAt
      | _ => .ncWr
    let agent := match t.core with
      | some c => some (Agent.stream (Fin.ofNat 104 c))
      | none => t.agent
    (s.biasAsk t.line (!rd)).request { t with kind := kind, core := none, agent := agent, near := none }

/-- Requests that wait are taken, in order, as their lines come free; `n` bounds the requests taken. -/
def wakeTxns : Nat → State → State
  | 0, s => s
  | n + 1, s =>
    match s.coh.waiting.find? fun t => !s.blocked t.line with
    | none => s
    | some t => wakeTxns n ((s.setCoh { s.coh with waiting := s.coh.waiting.erase t }).openTxn t)

def wake (s : State) : State := wakeTxns s.coh.waiting.length s

/-- An answer to a snoop reaches the home; the last one lets it serve the request. -/
def answered (s : State) (c line : Nat) (got : Option (List Byte × Nat)) : State :=
  match s.coh.open_.find? fun t => decide (t.line = line) with
  | none => s
  | some t =>
    let u := { t with waits := t.waits.erase c, got := if got.isSome then got else t.got }
    let s := s.setCoh { s.coh with open_ := s.coh.open_.map fun v => if v = t then u else v }
    if c ∈ t.waits ∧ u.waits.isEmpty then (s.serveTxn u).wake else s

/-- A core cache answers a snoop (R317, R319): data of an M copy goes to the slice, except where the request writes the
whole line. -/
def answerSnoop (s : State) (n : Snoop) : State :=
  let s := s.setCoh { s.coh with snoops := s.coh.snoops.erase n }
  let whole := s.coh.open_.any fun t => decide (t.line = n.line) && (t.kind == .ownND || (t.kind == .ncWr && decide (t.data.length = 128)))
  match (s.core n.core).ccLine n.line with
  | none => s.answered n.core n.line none
  | some l =>
    match n.kind with
    | .inv => (s.pullOne n.line (!whole) n.core).answered n.core n.line none
    | .shr =>
      let s := (s.bump (Reg.DIR_SNP_CNT (n.core / 26))).ccSetSt n.core n.line .s
      (if l.st = .m then s.mergeM n.line l.data l.poison else s).answered n.core n.line none
    | .cur => (s.bump (Reg.DIR_SNP_CNT (n.core / 26))).answered n.core n.line (if l.st = .m then some (l.data, l.poison) else none)

/-- A snoop reaches its core cache: under a hold it is deferred, but for SnpCur (R320). -/
def deliverSnoop (s : State) (c line : Nat) (k : SnpKind) : State :=
  match s.coh.snoops.find? fun n => decide (n.core = c) && decide (n.line = line) && decide (n.kind = k) && !n.deferred with
  | none => s
  | some n =>
    if (c, line) ∈ s.coh.holds ∧ k ≠ .cur then
      (s.bump (Reg.DIR_SNP_DEFER_CNT (c / 26))).setCoh
        { s.coh with snoops := s.coh.snoops.map fun m => if m = n then { n with deferred := true } else m }
    else s.answerSnoop n

/-! ### Reclamation (R327) -/

/-- The directory answers for a lost copy: a clean one is dropped, a dirty one leaves a dirty poisoned slice line. -/
def lostCopy (s : State) (c line : Nat) : State × Bool :=
  match (s.core c).ccLine line with
  | none => (s, false)
  | some l =>
    let s := s.ccRemove c line
    if l.st = .m then
      let s := match s.sKey line, s.sLine line with
        | some i, some e => s.sPut i { e with dirty := true, poison := 3 }
        | _, _ => (s.spoilHalf (2 * line) true).spoilHalf (2 * line + 1) true
      (s.bump (Reg.DIR_RECLAIM_POISON_CNT (c / 26)), true)
    else (s, false)

/-- Clear a region's presence bit of a host line that no core cache of the region holds any more. -/
def dropPres (s : State) (r line : Nat) : State :=
  let held := s.cores.any fun e => decide (e.1 / 26 = r) && (e.2.ccLine line).isSome
  if held then s
  else
    [2 * (line - hostName 0), 2 * (line - hostName 0) + 1].foldl (fun s l =>
      match s.dcKey l, s.dcLine l with
      | some i, some e => s.dcPut i { e with pres := e.pres - b2n (bitOf e.pres r) * 2 ^ r }
      | _, _ => s) s

/-- The directory reclaims a core's lines (R327): the epoch moves on, every entry is cleared, transactions that name
the core close, and snoops that wait on it are answered. The walk is reported when it ends. -/
def reclaim (s : State) (c : Nat) (ctx : Option Nat) : State :=
  let r := c / 26
  let s := s.setFld (Reg.DIR_EPOCH r (c % 26)) 7 0 (s.fld (Reg.DIR_EPOCH r (c % 26)) 7 0 + 1)
  let step (a : State × Nat) (e : Nat × CLine) : State × Nat :=
    if e.2.line < hostName 0 then
      let b := (a.1.bump (Reg.DIR_RECLAIM_CNT r)).lostCopy c e.2.line
      (b.1, a.2 + b2n b.2)
    else (((a.1.bump (Reg.DIR_RECLAIM_CNT r)).ccRemove c e.2.line).dropPres r e.2.line, a.2)
  let w := (s.core c).cc.foldl step (s, 0)
  let s := w.1
  let names (t : Txn) : Bool := decide (t.core = some c)
  let late := (s.coh.snoops.filter fun n => decide (n.core = c)).map (·.line)
  let s := s.setCoh { s.coh with
    open_ := s.coh.open_.filter fun t => !names t
    waiting := s.coh.waiting.filter fun t => !names t
    grants := s.coh.grants.filter fun g => decide (g.core ≠ c)
    acks := s.coh.acks.filter fun a => decide (a.1 ≠ c)
    holds := s.coh.holds.filter fun h => decide (h.1 ≠ c)
    snoops := s.coh.snoops.filter fun n => decide (n.core ≠ c)
    walk := tput r ⟨c, w.2, ctx⟩ s.coh.walk }
  (late.foldl (fun s l => s.answered c l none) s).wake

end State

/-! ### Requests of core caches -/

/-- RDS of an HBM line goes to its home; of a host line, to the device cache, which grants S once it holds both lines
(R319, R292). -/
def execRds (core : Fin 104) (epoch : Byte) (line : MemLine) (hint : Fin 4) (err : SliceErr) (s : State) : Res :=
  when (!s.sump.fatal) (fun s => s.fresh core epoch fun s =>
    match line with
    | .hbm n =>
      if ((s.core core).ccLine n).isSome || !populated (128 * n) then s
      else
        let e := s.sliceErr n err (s.core core).ctx
        e.1.blockRequest { line := n, kind := .rdS, core := some core, hint := hint, cls := s.coreCls core }
    | .host n =>
      if ((s.core core).ccLine (hostName n)).isSome || !s.dcServes then s
      else
        let need := [2 * n.val, 2 * n.val + 1].filter fun l => (s.dcKey l).isNone
        if need.isEmpty then
          let s := [2 * n.val, 2 * n.val + 1].foldl (fun s l =>
            match s.dcKey l, s.dcLine l with
            | some i, some e => s.dcHit i e 0 (2 ^ (core.val / 26))
            | _, _ => s) s
          let d := [2 * n.val, 2 * n.val + 1].flatMap fun l => (s.dcLine l).elim [] (·.data)
          s.setCoh { s.coh with grants := s.coh.grants ++ [⟨core, hostName n, .s, d, 0, 0, []⟩] }
        else
          let cls := s.coreCls core
          let ask := need.filter fun l => s.dcReady l
          let t := ask.foldl (fun s l =>
            (s.bump Reg.DC_MISS_CNT).dcFill l cls (2 ^ (core.val / 26)) (s.dcAllocs hint cls) false) s
          if !ask.isEmpty && s.dcAllocs hint cls then t.dcPrefetch (2 * n + 1) cls else t) s

/-- RDO: ownership with data, for a write of part of the line (R319). -/
def execRdo (core : Fin 104) (epoch : Byte) (line : Fin 4294967296) (hint : Fin 4) (off : Fin 128) (bytes : List Byte)
    (err : SliceErr) (s : State) : Res :=
  when (!s.sump.fatal && populated (128 * line)) (fun s => s.fresh core epoch fun s =>
    if ((s.core core).ccLine line).isSome then s
    else (s.sliceErr line err (s.core core).ctx).1.blockRequest
      { line := line, kind := .rdO, core := some core, hint := hint, cls := s.coreCls core, off := off, data := bytes.take (128 - off) }) s

/-- OWNND: ownership for a write of the whole line (R319). -/
def execOwnnd (core : Fin 104) (epoch : Byte) (line : Fin 4294967296) (hint : Fin 4) (bytes : List Byte) (s : State) : Res :=
  when (!s.sump.fatal && populated (128 * line) && decide (bytes.length = 128)) (fun s => s.fresh core epoch fun s =>
    if ((s.core core).ccLine line).isSome then s
    else s.blockRequest { line := line, kind := .ownND, core := some core, hint := hint, cls := s.coreCls core, data := bytes }) s

/-- UPG: S to M; served as RdO when the copy has gone (R319, R333). -/
def execUpg (core : Fin 104) (epoch : Byte) (line : Fin 4294967296) (off : Fin 128) (bytes : List Byte) (s : State) : Res :=
  when (!s.sump.fatal && populated (128 * line)) (fun s => s.fresh core epoch fun s =>
    if ((s.core core).ccLine line).any (fun l => decide (l.st ≠ .s)) then s
    else s.blockRequest { line := line, kind := .upg, core := some core, cls := s.coreCls core, off := off, data := bytes.take (128 - off) }) s

/-- DIRTYN: the first write to a line in E makes it M, once the directory has acknowledged (R321). -/
def execDirtyn (core : Fin 104) (epoch : Byte) (line : Fin 4294967296) (off : Fin 128) (bytes : List Byte) (s : State) : Res :=
  when (!s.sump.fatal) (fun s => s.fresh core epoch fun s =>
    match (s.core core).ccLine line with
    | some l =>
      if l.st = .e then
        let w := SLine.write ⟨line, l.data, false, false, 0, 0, l.poison, 0⟩ off (bytes.take (128 - off)) 0
        s.ccInstall core line .m w.data w.poison
      else s
    | none => s) s

/-- EVC: a clean line is dropped and recorded (R319, R321). -/
def execEvc (core : Fin 104) (epoch : Byte) (line : MemLine) (s : State) : Res :=
  let n := match line with
    | .hbm n => n.val
    | .host n => hostName n
  when (!s.sump.fatal) (fun s => s.fresh core epoch fun s =>
    if ((s.core core).ccLine n).any (fun l => decide (l.st ≠ .m)) then
      let s := s.ccRemove core n
      if hostName 0 ≤ n then s.dropPres (core.val / 26) n else s
    else s) s

/-- WBM: a dirty line written back makes the slice line dirty (R319). -/
def execWbm (core : Fin 104) (epoch : Byte) (line : Fin 4294967296) (s : State) : Res :=
  when (!s.sump.fatal) (fun s => s.fresh core epoch fun s =>
    match (s.core core).ccLine line with
    | some l => if l.st = .m then (s.ccRemove core line).mergeM line l.data l.poison else s
    | none => s) s

/-! ### Non-caching agents (R324, R226) -/

/-- A request to a DPA that is no memory (R226): reported by the slice of the requester's region, and charged to its
context. -/
def State.memHole (s : State) (a : Agent) (ctx : Option Nat) (dpa : Nat) (denied : Bool) : State :=
  (s.raise (srcRegion (agentRegion a) 0) (if denied then 0x113 else 0x112) ctx 1 dpa).poisonCtx ctx

/-- Whether a DPA lies in the register file (R224). -/
def inRegFile (dpa : Nat) : Bool := decide (0x8100000000 ≤ dpa) && decide (dpa < 0x8110000000)

/-- The logical core and the offset of a core store DPA (R224). -/
def coreStoreAt (dpa : Nat) : Option (Nat × Nat) :=
  if 0x8000000000 ≤ dpa ∧ dpa < 0x8030000000 then some ((dpa - 0x8000000000) / 0x800000, dpa % 0x800000) else none

/-- A line request to a DPA outside populated HBM and core store. -/
def State.offMap (s : State) (a : Agent) (ctx : Option Nat) (line : Nat) : State :=
  if inRegFile (128 * line) then (if a = .bittern then s else s.memHole a ctx (128 * line) true)
  else s.memHole a ctx (128 * line) false

/-- NCRD: a read of a line (R324); elsewhere than in memory it returns 128 bytes marked as poison (R226). -/
def execNcrd (agent : Agent) (ctx : Option (Fin 64)) (line : Fin 8589934592) (hint : Fin 4) (cls : Fin 9) (err : SliceErr)
    (s : State) : Res :=
  let x := ctx.map (·.val)
  when (!s.sump.fatal && (coreStoreAt (128 * line)).isNone) (fun s =>
    if populated (128 * line) then
      let e := s.sliceErr line err x
      if e.2 then (e.1.send (.memData agent line (List.replicate 128 0#8) true)).poisonCtx x
      else e.1.blockRequest { line := line, kind := .ncRd, core := none, agent := some agent, ctx := x, hint := hint, cls := cls }
    else (s.offMap agent x line).send (.memData agent line (List.replicate 128 0#8) true)) s

/-- NCWR: a write of a line or of part of it (R324); elsewhere than in memory it changes nothing (R226). -/
def execNcwr (agent : Agent) (ctx : Option (Fin 64)) (line : Fin 8589934592) (hint : Fin 4) (cls : Fin 9) (off : Fin 128)
    (bytes : List Byte) (s : State) : Res :=
  let x := ctx.map (·.val)
  when (!s.sump.fatal && (coreStoreAt (128 * line)).isNone && !bytes.isEmpty) (fun s =>
    if populated (128 * line) then
      s.blockRequest {
        line := line, kind := .ncWr, core := none, agent := some agent, ctx := x, hint := hint, cls := cls,
        off := off, data := bytes.take (128 - off) }
    else s.offMap agent x line) s

/-- NCAT: an atomic or a reduction (R247, R325); a misaligned one is malformed and its requester never sends it. -/
def execNcat (agent : Agent) (ctx : Option (Fin 64)) (line : Fin 8589934592) (hint : Fin 4) (cls : Fin 9) (op : AtomOp)
    (wide : Bool) (off : Fin 128) (cmp : DWord) (value : List Byte) (near : Option (Fin 104)) (s : State) : Res :=
  let x := ctx.map (·.val)
  let w := if op = .radd64 then 128 else if (op = .fadd ∨ op = .fmin ∨ op = .fmax) ∨ !wide then 4 else 8
  when (!s.sump.fatal && decide (off.val % w = 0)) (fun s =>
    if populated (128 * line) then
      s.blockRequest {
        line := line, kind := .ncAt, core := none, agent := some agent, ctx := x, hint := hint, cls := cls,
        off := off, data := value, op := op, size := w, cmp := cmp.toNat % 2 ^ (8 * w), near := near.map (·.val) }
    else s.memHole agent x (128 * line) false) s

/-! ### Snoops, grants and holds -/

/-- SNPINV. -/
def execSnpinv (core : Fin 104) (line : Fin 4294967296) (s : State) : Res := done (s.deliverSnoop core line .inv)

/-- SNPSHR. -/
def execSnpshr (core : Fin 104) (line : Fin 4294967296) (s : State) : Res := done (s.deliverSnoop core line .shr)

/-- SNPCUR. -/
def execSnpcur (core : Fin 104) (line : Fin 4294967296) (s : State) : Res := done (s.deliverSnoop core line .cur)

/-- GRANT: the line is installed and the access that asked for it completes; ownership starts a hold; a poisoned Grant
installs nothing (R320, R333). A Grant of a host line comes from the device cache and has no transaction. -/
def execGrant (core : Fin 104) (line : MemLine) (s : State) : Res :=
  let n := match line with
    | .hbm n => n.val
    | .host n => hostName n
  match s.coh.grants.find? fun g => decide (g.core = core.val) && decide (g.line = n) with
  | none => done s
  | some g =>
    let s := s.setCoh { s.coh with grants := s.coh.grants.erase g }
    let l := if g.st = .m then SLine.write ⟨n, g.data, false, false, 0, 0, g.poison, 0⟩ g.off g.wdata 0
      else ⟨n, g.data, false, false, 0, 0, g.poison, 0⟩
    let s := if g.poison ≠ 0 then s.poisonCtx (s.core core).ctx else if g.st = .i then s
      else s.ccInstall core n g.st l.data l.poison
    let own := decide (g.poison = 0) && decide (g.st = .e ∨ g.st = .m)
    done (s.setCoh { s.coh with
      acks := if n < hostName 0 then s.coh.acks ++ [(core.val, n)] else s.coh.acks
      holds := if own then s.coh.holds ++ [(core.val, n)] else s.coh.holds })

/-- COHERENCE_ACK: the transaction closes and the next request for the line is taken (R318). -/
def execCoherenceAck (core : Fin 104) (epoch : Byte) (line : Fin 4294967296) (s : State) : Res :=
  when (s.coh.acks.contains (core.val, line.val)) (fun s => s.fresh core epoch fun s =>
    (s.setCoh { s.coh with
      acks := s.coh.acks.erase (core.val, line.val)
      open_ := s.coh.open_.filter fun t => !(decide (t.line = line) && decide (t.core = some core.val)) }).wake) s

/-- HOLD_EXPIRY: the core cache answers its deferred snoops of the line (R320). -/
def execHoldExpiry (core : Fin 104) (line : Fin 4294967296) (s : State) : Res :=
  when (s.coh.holds.contains (core.val, line.val)) (fun s =>
    let s := s.setCoh { s.coh with holds := s.coh.holds.erase (core.val, line.val) }
    (s.coh.snoops.filter fun n => decide (n.core = core.val) && decide (n.line = line.val) && n.deferred).foldl
      (fun s n => s.answerSnoop n) s) s

/-- SNOOP_TIMEOUT: the directory answers as for a fenced core, reports, and the core is fenced (R323). -/
def execSnoopTimeout (core : Fin 104) (line : Fin 4294967296) (s : State) : Res :=
  match s.coh.snoops.find? fun n => decide (n.core = core.val) && decide (n.line = line.val) with
  | none => done s
  | some n =>
    let r := core.val / 26
    let ctx := (s.core core).ctx
    let s := s.setCoh { s.coh with snoops := s.coh.snoops.erase n }
    let s := (s.bump (Reg.DIR_SNP_TO_CNT r)).raise (srcRegion r 1) 0x200 ctx 1 (128 * line)
    done (((s.lostCopy core line).1.answered core line none).fenceTrigger core)

/-- RECLAIM_WALK_END: the walk ends; lines it poisoned are reported once (R327). -/
def execReclaimWalkEnd (region : Fin 4) (s : State) : Res :=
  match tfind s.coh.walk region with
  | none => done s
  | some w =>
    let s := s.setCoh { s.coh with walk := tdel region s.coh.walk }
    done (if w.poisoned = 0 then s else s.raise (srcRegion region 1) 0x201 w.ctx)

end Sys2Proof.Machine
end

