-- ==== Sys2Proof/Machine/Xlat.lean ====
section
/-!
DEFINITION. Translation: R260 to R287. Segments, page walks, micro-TLBs and region TLBs, faults, and invalidation.
-/
namespace Sys2Proof.Machine

/-! ### Segments and table entries (R262, R266, R267) -/

/-- What a DVA translates to: a DPA or an HPA. -/
inductive Phys where
  | dpa (a : Nat)
  | hpa (a : Nat)
  deriving DecidableEq, Repr

/-- A segment descriptor as its four words. -/
structure Seg where
  w0 : Nat
  w1 : Nat
  w2 : Nat
  w3 : Nat
  deriving DecidableEq, Repr

def Seg.valid (g : Seg) : Bool := bitOf g.w0 31
def Seg.type (g : Seg) : Nat := bitsOf g.w0 30 28
def Seg.rd (g : Seg) : Bool := bitOf g.w0 27
def Seg.wr (g : Seg) : Bool := bitOf g.w0 26
def Seg.atomics (g : Seg) : Bool := bitOf g.w0 25
def Seg.pin (g : Seg) : Bool := bitOf g.w0 24
def Seg.adv (g : Seg) : Nat := bitsOf g.w0 23 22
def Seg.host (g : Seg) : Bool := bitOf g.w0 8
def Seg.inStacks (g : Seg) : Nat := bitsOf g.w0 7 0
def Seg.bytes (g : Seg) : Nat := (bitsOf g.w1 27 0 + 1) * 65536
def Seg.base (g : Seg) : Nat := (g.w2 % 2 ^ 32) * 65536 + bitsOf g.w3 3 0 * 2 ^ 48

/-- Whether the rights an access needs are there: 0 read, 1 write, 2 atomic, 3 LAST read (R277). -/
def rights (acc : Nat) (rd wr at_ : Bool) : Bool :=
  match acc with
  | 0 => rd
  | 1 => wr
  | 2 => at_
  | _ => rd && wr

/-- Bits of an offset that index a level's table, and the page size of the level. -/
def pteIndex (lvl off : Nat) : Nat :=
  match lvl with
  | 2 => bitsOf off 43 30
  | 1 => bitsOf off 29 21
  | _ => bitsOf off 20 16

def pageBytes (lvl : Nat) : Nat :=
  match lvl with
  | 2 => 2 ^ 30
  | 1 => 2 ^ 21
  | _ => 2 ^ 16

def tableBytes (lvl : Nat) : Nat := if lvl = 1 then 4096 else 256

def pteLeaf (e : Nat) : Bool := bitOf e 62
def pteHost (e : Nat) : Bool := bitOf e 61
def pteAddr (e : Nat) : Nat := bitsOf e 51 0
def pteCont (e : Nat) : Nat := bitsOf e 57 55

/-- A reserved bit or value of an entry (R267). -/
def pteReserved (e : Nat) : Bool :=
  decide (bitsOf e 54 52 ≠ 0) || (if pteLeaf e then decide (4 < pteCont e) else decide (bitsOf e 61 55 ≠ 0))

/-- Whether a leaf's target is forbidden (R268). -/
def pteForbidden (g : Seg) (lvl e : Nat) : Bool :=
  if pteHost e then !g.host
  else
    let a := pteAddr e
    !(populated a && populated (a + pageBytes lvl - 1) && bitOf g.inStacks (a / 2 ^ 36))

/-! ### Requesters (R270, R277) -/

def agentTlb : Agent → Nat
  | .stream c => c
  | .copy e => 104 + e
  | .fabric r => 120 + r
  | _ => 124

def agentReq : Agent → Nat
  | .stream _ => 0
  | .copy e => if e.val % 4 < 2 then 1 else 2
  | .fabric _ => 4
  | _ => 3

def agentUnit : Agent → Nat
  | .stream c => c
  | .copy e => 2 * (e / 4) + e % 2
  | .fabric r => r
  | _ => 0

namespace State

def seg (s : State) (x i : Nat) : Seg :=
  ⟨(s.cfg (Reg.XLAT_SEG_W0 x i)).toNat, (s.cfg (Reg.XLAT_SEG_W1 x i)).toNat, (s.cfg (Reg.XLAT_SEG_W2 x i)).toNat,
    (s.cfg (Reg.XLAT_SEG_W3 x i)).toNat⟩

def setXl (s : State) (x : XlatSt) : State := { s with xl := x }

/-- The class a context's requests are charged to (R249). -/
def ctxCls (s : State) (x : Nat) : Nat := (s.context x).part

/-! ### Walks (R268, R269) -/

/-- The line that holds a table entry, and whether it is poisoned (R272). -/
def readPte (s : State) (cls a : Nat) : (List Byte × Bool) × State :=
  (s.biasAsk (a / 128) false).ncRead (a / 128) 0 cls

end State

/-- The entry a leaf installs: its run when every entry of the run agrees, else the page alone (R269). `line` holds the
128 bytes around the entry. -/
def runEntry (x sg lvl off e : Nat) (pin : Bool) (line : List Byte) : TlbEnt × Bool :=
  let i := pteIndex lvl off
  let n := 2 ^ pteCont e
  let page := off / pageBytes lvl
  let first := e - pteAddr e + (pteAddr e - i % n * pageBytes lvl)
  let fits := decide (i % n * pageBytes lvl ≤ pteAddr e) && decide ((pteAddr first) % (n * pageBytes lvl) = 0)
    && (List.range n).all fun j => decide (fieldAt line (8 * (i % 16 - i % n + j)) 8 = first + j * pageBytes lvl)
  if n = 1 then (⟨x, sg, lvl, page, 1, e, pin⟩, false)
  else if fits then (⟨x, sg, lvl, page - i % n, n, first, pin⟩, false)
  else (⟨x, sg, lvl, page, 1, e, pin⟩, true)

namespace State

/-- One level of a walk, and those below it. `n` bounds the levels left; the answer is a TLB entry, or a fault's kind,
level and entry. -/
def walkFrom (g : Seg) (r cls x sg off acc : Nat) : Nat → Nat → State → Except (Nat × Nat × Nat) TlbEnt × State
  | 0, _, s => (.error (5, 0, 0), s)
  | n + 1, t, s =>
    let lvl := n
    let a := t + 8 * pteIndex lvl off
    let d := s.readPte cls a
    let s := d.2
    let e := fieldAt d.1.1 (a % 128) 8
    if d.1.2 then (.error (8, lvl, s.draw (2 ^ 64)), s.drawn)
    else if !bitOf e 63 then (.error (3, lvl, e), s)
    else if pteReserved e then (.error (5, lvl, e), s)
    else if lvl = 0 ∧ !pteLeaf e then (.error (5, lvl, e), s)
    else if !pteLeaf e then
      let t := pteAddr e
      if t % tableBytes (lvl - 1) ≠ 0 ∨ !populated t then (.error (6, lvl, e), s)
      else
        let w := tget (fun _ => []) s.xl.walkc r
        let ent : WalkEnt := ⟨x, sg, lvl - 1, off / 2 ^ (if lvl = 2 then 30 else 21), t⟩
        let w := (if w.length < 64 then w else w.eraseIdx (s.draw 64)) ++ [ent]
        walkFrom g r cls x sg off acc n t (s.drawn.setXl { s.xl with walkc := tset (fun _ => []) s.xl.walkc r w })
    else if pteAddr e % pageBytes lvl ≠ 0 then (.error (5, lvl, e), s)
    else if pteForbidden g lvl e then (.error (7, lvl, e), s)
    else if !rights acc (bitOf e 60) (bitOf e 59) (bitOf e 58) then (.error (4, lvl, e), s)
    else
      let b := runEntry x sg lvl off e g.pin d.1.1
      (.ok b.1, s.bumpIf b.2 (Reg.RTLB_CONT_MISMATCH_CNT r))

/-- A walk starts at the deepest table the walk cache knows (R271). -/
def walk (s : State) (g : Seg) (r cls x sg off acc : Nat) : Except (Nat × Nat × Nat) TlbEnt × State :=
  let w := tget (fun _ => []) s.xl.walkc r
  let find (lvl : Nat) : Option WalkEnt :=
    w.find? fun e => decide (e.ctx = x) && decide (e.seg = sg) && decide (e.lvl = lvl)
      && decide (e.hi = off / 2 ^ (if lvl = 0 then 21 else 30))
  let o := match find 0, find 1 with
    | some e, _ => walkFrom g r cls x sg off acc 1 e.table s
    | none, some e => walkFrom g r cls x sg off acc 2 e.table s
    | none, none => walkFrom g r cls x sg off acc 3 g.base s
  let n := o.2.draw (2 ^ 32)
  (o.1, (o.2.drawn.bump (Reg.RTLB_WALK_CNT r)).bumpBy (Reg.RTLB_WALK_CYC r) n)

/-! ### TLBs (R270, R271, R273) -/

end State

def TlbEnt.covers (e : TlbEnt) (x sg off : Nat) : Bool :=
  decide (e.ctx = x) && decide (e.seg = sg) && decide (e.page ≤ off / pageBytes e.lvl)
    && decide (off / pageBytes e.lvl < e.page + e.run)

/-- The table entry of the page that holds an offset. -/
def TlbEnt.pteAt (e : TlbEnt) (off : Nat) : Nat := e.pte + (off / pageBytes e.lvl - e.page) * pageBytes e.lvl

/-- The target of an offset. -/
def TlbEnt.target (e : TlbEnt) (off : Nat) : Phys :=
  let a := pteAddr (e.pteAt off) + off % pageBytes e.lvl
  if pteHost e.pte then .hpa a else .dpa a

namespace State

/-- The entries of a region TLB, with the key of their set. -/
def rtlbFind (s : State) (r x sg off : Nat) : Option (Nat × TlbEnt) :=
  (s.xl.rtlb.filter fun e => decide (e.1 / 512 = r)).findSome? fun e => (e.2.find? fun t => t.covers x sg off).map fun t => (e.1, t)

/-- The most recent entry first. -/
def toFront (t : TlbEnt) (l : List TlbEnt) : List TlbEnt := t :: l.erase t

/-- Fill a region TLB: the least recent unpinned entry of a full set leaves; a fifth pin is installed unpinned. -/
def rtlbFill (s : State) (r : Nat) (t : TlbEnt) : State :=
  let k := 512 * r + Config.tlbSet (t.ctx + 64 * (t.seg + 16 * (t.lvl + 4 * t.page))) % 512
  let l := tget (fun _ => []) s.xl.rtlb k
  let full := decide (4 ≤ (l.filter (·.pin)).length)
  let s := s.bumpIf (t.pin && full) (Reg.RTLB_PIN_FULL_CNT r)
  let t := { t with pin := t.pin && !full }
  let l := if l.length < 8 then l
    else match l.reverse.find? fun e => !e.pin with
      | some v => l.erase v
      | none => l
  s.setXl { s.xl with rtlb := tset (fun _ => []) s.xl.rtlb k (t :: l) }

def utlbFill (s : State) (u : Nat) (t : TlbEnt) : State :=
  let l := tget (fun _ => []) s.xl.utlb u
  s.setXl { s.xl with utlb := tset (fun _ => []) s.xl.utlb u ((toFront t l).take 32) }

/-- The region TLB's answer for a page of a paged segment: an entry, or the walk's fault. -/
def rtlbGet (s : State) (g : Seg) (r cls x sg off acc : Nat) : Except (Nat × Nat × Nat) TlbEnt × State :=
  match s.rtlbFind r x sg off with
  | some (k, t) =>
    let s := s.bump (Reg.RTLB_HIT_CNT r)
    (.ok t, s.setXl { s.xl with rtlb := tmod (fun _ => []) s.xl.rtlb k (toFront t) })
  | none =>
    let s := s.bump (Reg.RTLB_MISS_CNT r)
    let w := s.walk g r cls x sg off acc
    match w.1 with
    | .ok t => (.ok t, w.2.rtlbFill r t)
    | .error e => (.error e, w.2)

/-- Translate one address for a requester (R264, R268, R271): its target and the segment's default hint, or the fault
it takes, with its restart position. -/
def xlate (s : State) (a : Agent) (x dva acc pos : Nat) : Except XFault (Phys × Nat) × State :=
  let sg := dva / 2 ^ 44 % 16
  let off := dva % 2 ^ 44
  let g := s.seg x sg
  let fault (kind lvl pte : Nat) : Except XFault (Phys × Nat) :=
    .error ⟨x, kind, acc, lvl, sg, agentReq a, agentUnit a, dva, pos, pte⟩
  if !g.valid then (fault 1 3 0, s)
  else if g.bytes ≤ off then (fault 2 3 0, s)
  else if !rights acc g.rd g.wr g.atomics then (fault 4 3 0, s)
  else if g.type = 0 then (.ok (.dpa (g.base + off), g.adv), s)
  else if g.type = 1 then (.ok (.hpa (g.base + off), g.adv), s)
  else
    let r := agentRegion a
    let u := agentTlb a
    let o : Except (Nat × Nat × Nat) TlbEnt × State :=
      match (tget (fun _ => []) s.xl.utlb u).find? fun t => t.covers x sg off with
      | some t => (.ok t, s)
      | none => (s.bump (Reg.RTLB_UTLB_MISS_CNT r)).rtlbGet g r (s.ctxCls x) x sg off acc
    match o.1 with
    | .error (k, l, e) => (fault k l e, o.2)
    | .ok t =>
      let e := t.pteAt off
      if rights acc (bitOf e 60) (bitOf e 59) (bitOf e 58) then (.ok (t.target off, g.adv), o.2.utlbFill u t)
      else (fault 4 t.lvl e, o.2)

/-- A prefetch fills the region TLB and the walk cache; one that would fault is dropped and counted (R275, R276). A flat
segment has no pages to ask for (DEDUCED). -/
def xprefetch (s : State) (r x dva : Nat) : State :=
  let sg := dva / 2 ^ 44 % 16
  let off := dva % 2 ^ 44
  let g := s.seg x sg
  let flat := g.valid && decide (off < g.bytes) && decide (g.type < 2)
  let s := s.bumpIf (!flat) (Reg.RTLB_PF_CNT r)
  if !g.valid ∨ g.bytes ≤ off then s.bump (Reg.RTLB_PF_DROP_CNT r)
  else if flat ∨ (s.rtlbFind r x sg off).isSome then s
  else
    let w := s.walk g r (s.ctxCls x) x sg off (if g.rd then 0 else if g.wr then 1 else 2)
    match w.1 with
    | .ok t => w.2.rtlbFill r t
    | .error _ => w.2.bump (Reg.RTLB_PF_DROP_CNT r)

/-- The size of the page that holds an address, as a walk finds it; 2^44 in a flat segment. An entry that faults has the
page size of its level, and where none is read 64 KiB (DEDUCED). -/
def pageSize (s : State) (r x dva : Nat) : Nat :=
  let sg := dva / 2 ^ 44 % 16
  let off := dva % 2 ^ 44
  let g := s.seg x sg
  if g.valid && decide (g.type < 2) then 2 ^ 44
  else
    match s.rtlbFind r x sg off with
    | some (_, t) => pageBytes t.lvl
    | none =>
      match (s.walk g r (s.ctxCls x) x sg off (if g.rd then 0 else if g.wr then 1 else 2)).1 with
      | .ok t => pageBytes t.lvl
      | .error (_, lvl, _) => pageBytes (if g.valid ∧ off < g.bytes then lvl else 0)

/-- Ask ahead for the pages of some ranges (address and bytes), in order, each page once, up to `left` pages; `seen` holds
the bounds of the pages asked for, and `f` bounds the steps. -/
def prefetchPages (r x : Nat) : Nat → Nat → List (Nat × Nat) → List (Nat × Nat) → State → State
  | 0, _, _, _, s => s
  | _ + 1, _, _, [], s => s
  | f + 1, left, seen, (a, n) :: rs, s =>
    if left = 0 then s
    else if n = 0 then prefetchPages r x f left seen rs s
    else
      match seen.find? fun e => decide (e.1 ≤ a) && decide (a < e.2) with
      | some e => prefetchPages r x f left seen ((e.2, a + n - e.2) :: rs) s
      | none =>
        let m := s.pageSize r x a
        let hi := a - a % m + m
        prefetchPages r x f (left - 1) ((a - a % m, hi) :: seen) ((hi, a + n - hi) :: rs) (s.xprefetch r x a)

/-- A requester asks for the first 16 pages of some ranges, while PF_EN is set (R275). -/
def prefetchRanges (s : State) (r x : Nat) (ranges : List (Nat × Nat)) : State :=
  if s.bit (Reg.RTLB_CTL r) 0 then prefetchPages r x (18 * ranges.length + 16) 16 [] ranges s else s

/-- A fault sets out for Bittern's record (R278). -/
def xfault (s : State) (f : XFault) : State := s.setXl { s.xl with faults := s.xl.faults ++ [f] }

end State

/-- PAGE_WALK: a request of an address that no TLB holds walks the segment's tables; a fault of a demand sets out for
the record, a prefetch drops it (R268, R272, R276). -/
def execPageWalk (agent : Agent) (ctx : Fin 64) (dva : BitVec 48) (acc : Fin 4) (pos : DWord) (prefetch : Bool)
    (s : State) : Res :=
  when (!s.sump.fatal && decide ((s.context ctx).state ≠ .free) && (!prefetch || s.bit (Reg.RTLB_CTL (agentRegion agent)) 0)) (fun s =>
    if prefetch then s.xprefetch (agentRegion agent) ctx dva.toNat
    else
      let o := s.xlate agent ctx dva.toNat acc pos.toNat
      match o.1 with
      | .ok _ => o.2
      | .error f => o.2.xfault f) s

/-! ### Fault records (R278 to R280) -/

namespace State

/-- Write a context's fault record. -/
def recordFault (s : State) (f : XFault) : State :=
  let n := f.ctx
  let s := s.setCfg (Reg.XLAT_FLT_W0 n)
    (BitVec.ofNat 32 (2 ^ 31 + f.kind * 2 ^ 24 + f.acc * 2 ^ 22 + f.lvl * 2 ^ 20 + f.seg * 2 ^ 16 + f.req * 2 ^ 12 + f.unit))
  let s := (s.setCfg (Reg.XLAT_FLT_W1 n) (BitVec.ofNat 32 f.dva)).setCfg (Reg.XLAT_FLT_W2 n) (BitVec.ofNat 32 (f.dva / 2 ^ 32))
  let s := (s.setCfg (Reg.XLAT_FLT_W3 n) (BitVec.ofNat 32 f.pos)).setCfg (Reg.XLAT_FLT_W4 n) (BitVec.ofNat 32 (f.pos / 2 ^ 32))
  let p := if f.lvl = 3 then 0 else f.pte
  let s := (s.setCfg (Reg.XLAT_FLT_W5 n) (BitVec.ofNat 32 p)).setCfg (Reg.XLAT_FLT_W6 n) (BitVec.ofNat 32 (p / 2 ^ 32))
  s.setBit (Reg.XLAT_CTX n) 0 true

/-- The lowest REQ code, and among those the lowest UNIT. -/
def firstFault : List XFault → Option XFault
  | [] => none
  | f :: fs =>
    match firstFault fs with
    | some g => if g.req < f.req ∨ (g.req = f.req ∧ g.unit < f.unit) then some g else some f
    | none => some f

/-- The faults of one context that arrive in one cycle: the first writes the record, the others add to MORE; a fault of
the fabric receive path does not suspend the context. -/
def takeFaults (s : State) (x : Nat) (fs : List XFault) : State :=
  let s := s.bumpBy Reg.XLAT_FLT_CNT fs.length
  let more := if s.bit (Reg.XLAT_CTX x) 0 then fs.length else fs.length - 1
  let s := match s.bit (Reg.XLAT_CTX x) 0, firstFault fs with
    | false, some f => s.recordFault f
    | _, _ => s
  let s := s.setFld (Reg.XLAT_CTX x) 23 16 (min 255 (s.fld (Reg.XLAT_CTX x) 23 16 + more))
  if fs.any fun f => decide (f.req ≠ 4) then s.suspend x .xlat else s

/-- A RESUME clears the record (R280). -/
def clearFault (s : State) (x : Nat) : State :=
  let s := (s.setBit (Reg.XLAT_CTX x) 0 false).setFld (Reg.XLAT_CTX x) 23 16 0
  s.setBit (Reg.XLAT_FLT_W0 x) 31 false

end State

/-- TRANSLATION_FAULT: the first `n` faults under way reach the records in one uncore cycle (R278, R280). -/
def execTranslationFault (n : Nat) (s : State) : Res :=
  let fs := s.xl.faults.take n
  when (!fs.isEmpty && !s.sump.fatal) (fun s =>
    let s := s.setXl { s.xl with faults := s.xl.faults.drop n }
    (List.range 64).foldl (fun s x =>
      let mine := fs.filter fun f => decide (f.ctx = x)
      if mine.isEmpty then s else s.takeFaults x mine) s) s

/-! ### Invalidation (R282 to R285) -/

/-- Whether an entry's DVAs meet [lo, hi]. -/
def TlbEnt.meets (e : TlbEnt) (x lo hi : Nat) : Bool :=
  let a := e.seg * 2 ^ 44 + e.page * pageBytes e.lvl
  decide (e.ctx = x) && decide (a ≤ hi) && decide (lo < a + e.run * pageBytes e.lvl)

def WalkEnt.meets (e : WalkEnt) (x lo hi : Nat) : Bool :=
  let n := if e.lvl = 0 then 2 ^ 21 else 2 ^ 30
  let a := e.seg * 2 ^ 44 + e.hi * n
  decide (e.ctx = x) && decide (a ≤ hi) && decide (lo < a + n)

namespace State

/-- Ask for an invalidation; its mark follows. -/
def invalidate (s : State) (cmd : Option Cmd) (x lo hi : Nat) : State :=
  s.setXl { s.xl with invs := s.xl.invs ++ [⟨cmd, x, lo, hi, false, []⟩] }

/-- The oldest invalidation without its mark gets it. -/
def markFirst (wts : List Nat) : List Inval → List Inval
  | [] => []
  | v :: vs => if v.marked then v :: markFirst wts vs else { v with marked := true, wts := wts } :: vs

/-- The mark: every overlapping entry goes, and what was translated before is to be drained. -/
def mark (s : State) (v : Inval) : State :=
  let keep (l : List TlbEnt) : List TlbEnt := l.filter fun e => !e.meets v.ctx v.lo v.hi
  let strip (t : Tbl (List TlbEnt)) : Tbl (List TlbEnt) := (t.map fun e => (e.1, keep e.2)).filter fun e => !e.2.isEmpty
  let walks := (s.xl.walkc.map fun e => (e.1, e.2.filter fun w => !w.meets v.ctx v.lo v.hi)).filter fun e => !e.2.isEmpty
  let old := (s.dc.wt.filter fun w => decide (w.ctx = some v.ctx)).map (·.id)
  s.setXl { s.xl with utlb := strip s.xl.utlb, rtlb := strip s.xl.rtlb, walkc := walks, invs := markFirst old s.xl.invs }

/-- Whether everything an invalidation drains has completed. -/
def drainedInv (s : State) (v : Inval) : Bool :=
  v.marked && v.wts.all (fun i => s.dc.wt.all fun w => decide (w.id ≠ i))
    && (s.coh.open_ ++ s.coh.waiting).all (fun t => decide (t.ctx ≠ some v.ctx))

end State

/-- INVALIDATION_MARK: the oldest invalidation without its mark, while fewer than 8 drain (R282, R285). -/
def execInvalidationMark (s : State) : Res :=
  match s.xl.invs.find? fun v => !v.marked with
  | some v => when (decide ((s.xl.invs.filter (·.marked)).length < 8) && !s.sump.fatal) (fun s => s.mark v) s
  | none => done s

/-- INVALIDATION_DRAIN: one whose drain has ended completes (R282, R285). -/
def execInvalidationDrain (n : Nat) (s : State) : Res :=
  match (s.xl.invs.filter (·.marked))[n]? with
  | some v =>
    when (s.drainedInv v && !s.sump.fatal) (fun s =>
      let s := (s.setXl { s.xl with invs := s.xl.invs.erase v }).bump Reg.XLAT_INV_CNT
      match v.cmd with
      | some c => s.complete c 0
      | none => s) s
  | none => done s

end Sys2Proof.Machine
end

