-- ==== Sys2Proof/Machine/Stream.lean ====
section
/-!
DEFINITION. Memory as a requester sees it (R225, R226, R292), and the stream engine: R130 to R133, R177 to R179, R197,
R275, R331. A stream trick moves its tile row by row; the rows run when the trick completes, when an index stops it or
when a boundary stops it.
-/
namespace Sys2Proof.Machine

/-! ### One line, wherever it lies -/

/-- What a read of bytes of a line returns: the bytes, whether they come as poison, and whether the address was no
memory or the request ended without data, which is not poison to be reported. -/
structure Got where
  data : List Byte
  poison : Bool := false
  quiet : Bool := false
  deriving DecidableEq, Repr

/-- Who reads or writes, for which context (none: Bittern on its own), at which class and through which core cache. -/
structure Who where
  agent : Agent
  ctx : Option Nat
  cls : Nat
  cached : Option Nat := none
  owner : WtOwner := .bittern
  deriving DecidableEq, Repr

namespace State

/-- Whether a line access can be served now: no open transaction on it, its controller and its class admitted, the
device cache able to answer. -/
def lineReady (s : State) (w : Who) (p : Phys) (write : Bool) : Bool :=
  !s.sump.fatal && match p with
  | .dpa a =>
    let l := a / 128
    let r := homeOf l
    !populated a || (!s.blocked l && !s.biasStuck l && s.admits r w.cls false
      && ((s.sKey l).isSome || (s.hbmServes l && s.admits r w.cls true)))
  | .hpa a =>
    let l := a / 128 * 2
    s.hl.attach == .attached && (if write then s.dcServes else s.dcReady l && s.dcReady (l + 1))

/-- The device-cache lines of the host line `n` that a requester asks for: both for a stream engine or a core cache, those
that hold the bytes for the others (R293). -/
def hostHalves (w : Who) (n off len : Nat) : List Nat :=
  match w.agent with
  | .stream _ => [2 * n, 2 * n + 1]
  | _ => (if off < 64 then [2 * n] else []) ++ (if 64 < off + len then [2 * n + 1] else [])

/-- One of the lines of a read; a line that is not asked for delivers zeros, which nobody reads. -/
def hostHalf (s : State) (fills : List HostFill) (ls : List Nat) (line hint cls pres : Nat) : Option (List Byte) × State :=
  if line ∈ ls then s.dcGet fills line hint cls pres else (some (List.replicate 64 0#8), s)

/-- Read the 128-byte line at an address, of which `len` bytes from the address on are wanted. -/
def readLine (s : State) (w : Who) (fills : List HostFill) (p : Phys) (hint : Nat) (len : Nat := 128) : Got × State :=
  match p with
  | .dpa a =>
    if populated a then
      let d := match if s.hostBias (a / 128) then none else w.cached with
        | some c => s.ccRead c (a / 128) hint w.cls
        | none => (s.biasAsk (a / 128) false).ncRead (a / 128) hint w.cls
      (⟨d.1.1, d.1.2, false⟩, d.2)
    else
      match coreStoreAt a with
      | some (l, o) =>
        match s.coreOf l with
        | some c =>
          let k := s.core c
          let o := o / 128 * 128
          if s.storeOpen c then (⟨k.bytes o 128, k.poisoned o 128, false⟩, s) else (⟨k.bytes o 128, true, false⟩, s)
        | none => (⟨List.replicate 128 0#8, true, true⟩, s.memHole w.agent w.ctx a false)
      | none => (⟨List.replicate 128 0#8, true, true⟩, s.memHole w.agent w.ctx a (inRegFile a && w.agent != .bittern))
  | .hpa a =>
    let n := a / 128
    match w.cached.bind fun c => (s.core c).ccLine (hostName n) with
    | some l => (⟨l.data, false, false⟩, s)
    | none =>
      let pres := w.cached.elim 0 fun c => 2 ^ (c / 26)
      let ls := hostHalves w n (a % 128) len
      let ahead := s.dcAllocs hint w.cls && ls.any fun l => (s.dcKey l).isNone
      let d0 := s.hostHalf fills ls (2 * n) hint w.cls pres
      let d1 := d0.2.hostHalf fills ls (2 * n + 1) hint w.cls pres
      let s := if ahead then d1.2.dcPrefetch (ls.getLastD 0) w.cls else d1.2
      match d0.1, d1.1 with
      | some x, some y =>
        let s := match w.cached with
          | some c => if (s.dcKey (2 * n)).isSome && (s.dcKey (2 * n + 1)).isSome then
              s.ccInstall c (hostName n) .s (x ++ y) 0 else s
          | none => s
        (⟨x ++ y, false, false⟩, s)
      | _, _ => (⟨List.replicate 128 0#8, true, true⟩, s)

/-- Write bytes of one line; `bad` names the halves that carry poison. -/
def writeLine (s : State) (w : Who) (p : Phys) (hint : Nat) (bs : List Byte) (bad : Nat) : State :=
  match p with
  | .dpa a =>
    if populated a then
      match if s.hostBias (a / 128) then none else w.cached with
      | some c => s.ccWrite c (a / 128) hint w.cls (a % 128) bs bad
      | none => (s.biasAsk (a / 128) true).ncWrite (a / 128) hint w.cls (a % 128) bs bad
    else
      match coreStoreAt a with
      | some (l, o) =>
        match s.coreOf l with
        | some c =>
          if !s.storeOpen c then s
          else s.modCore c fun k => if bad ≠ 0 then (k.put o bs).spoil o bs.length else k.put o bs
        | none => s.memHole w.agent w.ctx a false
      | none => s.memHole w.agent w.ctx a (inRegFile a && w.agent != .bittern)
  | .hpa a =>
    let s := match w.cached with
      | some c => s.ccRemove c (hostName (a / 128))
      | none => s
    let n := min (64 - a % 64) bs.length
    let s := s.dcWrite (a / 64) (a % 64) (bs.take n) w.owner w.ctx w.cls
    if bs.length ≤ n then s else s.dcWrite (a / 64 + 1) 0 (bs.drop n) w.owner w.ctx w.cls

end State

/-! ### Runs of bytes -/

/-- The pieces of [a, a + n) by line: address and length; `k` bounds the pieces. -/
def pieces : Nat → Nat → Nat → List (Nat × Nat)
  | 0, _, _ => []
  | k + 1, a, n => if n = 0 then [] else
    let m := min (128 - a % 128) n
    (a, m) :: pieces k (a + m) (n - m)

def linesOf (a n : Nat) : List (Nat × Nat) := pieces (n / 128 + 2) a n

/-- Why an access did not go through: it waits, or its translation faulted. -/
inductive Held where
  | wait
  | fault (f : XFault)
  deriving DecidableEq, Repr

namespace State

/-- Translate the pieces of a run. -/
def xlateAll (s : State) (w : Who) (x acc pos : Nat) : List (Nat × Nat) → Except Held (List (Phys × Nat × Nat)) × State
  | [] => (.ok [], s)
  | (a, n) :: l =>
    let o := s.xlate w.agent x a acc pos
    match o.1 with
    | .error f => (.error (.fault f), o.2)
    | .ok (p, adv) =>
      let q := o.2.xlateAll w x acc pos l
      match q.1 with
      | .error h => (.error h, q.2)
      | .ok ps => (.ok ((p, n, adv) :: ps), q.2)

def allReady (s : State) (w : Who) (write : Bool) (ps : List (Phys × Nat × Nat)) : Bool :=
  ps.all fun p => s.lineReady w p.1 write

/-- The address of a target within its line. -/
def physOff : Phys → Nat
  | .dpa a | .hpa a => a % 128

/-- Read a translated run: its bytes, and what came with them. -/
def readRun (s : State) (w : Who) (fills : List HostFill) (hint : Nat) : List (Phys × Nat × Nat) → Got × State
  | [] => (⟨[], false, false⟩, s)
  | (p, n, adv) :: l =>
    let d := s.readLine w fills p (if hint = 0 then adv else hint) n
    let e := d.2.readRun w fills hint l
    (⟨((d.1.data.drop (physOff p)).take n) ++ e.1.data, d.1.poison || e.1.poison, d.1.quiet || e.1.quiet⟩, e.2)

/-- Write a translated run of bytes; `bad i` says whether byte i carries poison. -/
def writeRun (s : State) (w : Who) (hint : Nat) (bs : List Byte) (bad : List Bool) : List (Phys × Nat × Nat) → State
  | [] => s
  | (p, n, adv) :: l =>
    let o := physOff p
    let half (h : Nat) : Bool := ((bad.take n).zipIdx.any fun b => b.1 && decide ((o + b.2) / 64 = h))
    (s.writeLine w p (if hint = 0 then adv else hint) (bs.take n) (b2n (half 0) + 2 * b2n (half 1))).writeRun w hint
      (bs.drop n) (bad.drop n) l

end State

/-! ### Stream rows -/

/-- The element codes and the scale bytes of a row, and whether each byte of its planes is poisoned. -/
structure RowBits where
  codes : List Nat
  scales : List Byte
  badE : List Bool := []
  badS : List Bool := []
  poison : Bool := false
  quiet : Bool := false
  deriving DecidableEq, Repr

def Tile.rowE (t : Tile) (i : Nat) : Nat := t.ebase + i * t.epitch
def Tile.rowS (t : Tile) (i : Nat) : Nat := t.sbase + i * t.spitch

/-- Whether a stream function converts nothing (R131). -/
def rawMove (a b : Tile) : Bool := a.fmt == b.fmt && a.bias == b.bias

namespace State

/-- A row of a core store tile. -/
def coreRow (s : State) (c : Nat) (t : Tile) (i : Nat) : RowBits :=
  let k := s.core c
  let n := t.fmt.rowBytes t.len
  let m := t.fmt.rowScales t.len
  let bad (o n : Nat) : List Bool := (List.range n).map fun j => k.wordPoison ((o + j) / 8)
  { codes := unpackElems t.fmt.elem t.len (k.engineBytes s.free (t.rowE i) n)
    scales := k.engineBytes s.free (t.rowS i) m
    badE := bad (t.rowE i) n, badS := bad (t.rowS i) m
    poison := k.poisoned (t.rowE i) n || k.poisoned (t.rowS i) m }

/-- A row of a memory tile. LAST on a scale line holds only for the last row that reads it (DEDUCED). -/
def memRow (s : State) (w : Who) (x : Nat) (fills : List HostFill) (hint pos : Nat) (t : Tile) (i : Nat) :
    Except Held RowBits × State :=
  let n := t.fmt.rowBytes t.len
  let m := t.fmt.rowScales t.len
  let o := s.xlateAll w x (if hint = 3 then 3 else 0) pos (linesOf (t.rowE i) n)
  match o.1 with
  | .error h => (.error h, o.2)
  | .ok pe =>
    let q := o.2.xlateAll w x (if hint = 3 then 3 else 0) pos (linesOf (t.rowS i) m)
    match q.1 with
    | .error h => (.error h, q.2)
    | .ok ps =>
      if !(q.2.allReady w false pe && q.2.allReady w false ps) then (.error .wait, s)
      else
        let e := q.2.readRun w fills hint pe
        let again := decide (i + 1 < t.rows) && decide ((t.rowS (i + 1)) / 128 ≤ (t.rowS i + m - 1) / 128)
        let c := e.2.readRun w fills (if hint = 3 ∧ again then 1 else hint) ps
        let bad := e.1.poison || c.1.poison
        (.ok { codes := unpackElems t.fmt.elem t.len e.1.data, scales := c.1.data,
               badE := List.replicate n e.1.poison, badS := List.replicate m c.1.poison,
               poison := bad && !(e.1.quiet || c.1.quiet), quiet := e.1.quiet || c.1.quiet }, c.2)

end State

/-- Values of a row. -/
def RowBits.vals (b : RowBits) (t : Tile) : List Val :=
  decodeRow t.fmt (signed 8 t.bias) t.len (packElems t.fmt.elem b.codes) b.scales

/-- A destination row from a source row (R131, R77): element bytes, scale bytes, what was recorded, the generator. A
row without conversion moves as it is; a poisoned source spoils all of a converted row (DEDUCED). -/
structure RowDone where
  elems : List Byte
  scales : List Byte
  cond : Running := {}
  rng : Nat
  badE : List Bool
  badS : List Bool
  deriving DecidableEq, Repr

def convertRow (src dst : Tile) (conv rng : Nat) (b : RowBits) : RowDone :=
  if rawMove src dst then ⟨packElems dst.fmt.elem b.codes, b.scales, {}, rng, b.badE, b.badS⟩
  else
    let o := encodeRow dst.fmt (Ctl.ofCode conv) (signed 8 dst.bias) rng (b.vals src)
    let e := packElems dst.fmt.elem (o.elems.map (·.code))
    let bad := b.badE.any id || b.badS.any id
    ⟨e, o.scales.map (BitVec.ofNat 8), ({} : Running).countRow o.elems [], o.rng, e.map fun _ => bad, o.scales.map fun _ => bad⟩

/-- A row of code zero that still draws its generator words (R178). -/
def zeroRow (src dst : Tile) (conv rng : Nat) : RowDone :=
  let e := List.replicate (dst.fmt.rowBytes dst.len) 0#8
  let sc := List.replicate (dst.fmt.rowScales dst.len) 0#8
  let rng := if rawMove src dst then rng
    else (encodeRow dst.fmt (Ctl.ofCode conv) 0 rng (List.replicate dst.len Val.zero)).rng
  ⟨e, sc, {}, rng, e.map fun _ => false, sc.map fun _ => false⟩

/-- How far a run of rows went. -/
inductive Ran where
  | done
  | budget
  | wait
  | fault (f : XFault)
  | index (reason : Nat)
  deriving DecidableEq, Repr

/-- The tile rows a stream trick completes: rows of its destination (R197). -/
def EngOp.streamRows : EngOp → Nat
  | .stream .stageOut cs _ _ tr _ _ _ _ _ => if tr then cs.len else cs.rows
  | .stream _ cs _ _ _ _ _ _ _ _ => cs.rows
  | _ => 0

namespace State

/-- Write a finished row to a core store tile. -/
def putCoreRow (s : State) (c : Nat) (t : Tile) (i : Nat) (r : RowDone) : State :=
  let spoilBad (o : Nat) (bad : List Bool) (k : Core) : Core :=
    { k with poison := tfill (fun _ => false) true k.poison (((bad.zipIdx.filter (·.1)).map fun b => (o + b.2) / 8).eraseDups) }
  let put (o : Nat) (bs : List Byte) (bad : List Bool) (k : Core) : Core := spoilBad o bad (k.put o bs)
  s.modCore c fun k => put (t.rowS i) r.scales r.badS (put (t.rowE i) r.elems r.badE k)

/-- Write a finished row to a memory tile. -/
def putMemRow (s : State) (w : Who) (x hint pos : Nat) (t : Tile) (i : Nat) (r : RowDone) : Option Held × State :=
  let o := s.xlateAll w x 1 pos (linesOf (t.rowE i) r.elems.length)
  match o.1 with
  | .error h => (some h, o.2)
  | .ok pe =>
    let q := o.2.xlateAll w x 1 pos (linesOf (t.rowS i) r.scales.length)
    match q.1 with
    | .error h => (some h, q.2)
    | .ok ps =>
      if q.2.allReady w true pe && q.2.allReady w true ps then
        (none, (q.2.writeRun w hint r.elems r.badE pe).writeRun w hint r.scales r.badS ps)
      else (some .wait, s)

end State

/-- The index lane of a row: null, a row number, or the reason of the fault it gives (R178). -/
def indexLane (k : Core) (idx : Option Tile) (rows i : Nat) : Except Nat (Option Nat) :=
  match idx with
  | none => .ok (some i)
  | some t =>
    let o := t.rowE (i / t.len) + 4 * (i % t.len)
    if k.poisoned o 4 then .error 7
    else
      let v := ofLe (k.bytes o 4)
      if v = 0xFFFFFFFF then .ok none else if v < rows then .ok (some v) else .error 0xD

/-- The source rows of one destination group under TRANSPOSE: destination rows whose elements share a 128-byte column
of the source (R131). -/
def groupOf (src : Tile) (i : Nat) : Nat := src.fmt.rowBytes (i + 1) / 128 - (if src.fmt.rowBytes (i + 1) % 128 = 0 then 1 else 0)

namespace State

/-- The bytes of source row `j` that destination group `g` takes: where they start, and how many (R131). -/
def squareSpan (src : Tile) (g j : Nat) : Nat × Nat :=
  (src.rowE j + 128 * g, min 128 (src.fmt.rowBytes src.len - 128 * g))

/-- Translate the last `n` source rows of a group. -/
def squareXlate (s : State) (w : Who) (x hint pos : Nat) (src : Tile) (g : Nat) :
    Nat → Except Held (List (List (Phys × Nat × Nat))) × State
  | 0 => (.ok [], s)
  | n + 1 =>
    let r := squareSpan src g (src.rows - (n + 1))
    let o := s.xlateAll w x (if hint = 3 then 3 else 0) pos (linesOf r.1 r.2)
    match o.1 with
    | .error h => (.error h, o.2)
    | .ok ps =>
      let q := o.2.squareXlate w x hint pos src g n
      match q.1 with
      | .error h => (.error h, q.2)
      | .ok rows => (.ok (ps :: rows), q.2)

/-- Read translated rows: the bytes of each, with the bytes that are poisoned and whether poison is not to be reported. -/
def squareRead (s : State) (w : Who) (fills : List HostFill) (hint : Nat) :
    List (List (Phys × Nat × Nat)) → List (List Byte × List Bool × Bool) × State
  | [] => ([], s)
  | ps :: l =>
    let d := s.readRun w fills hint ps
    let r := d.2.squareRead w fills hint l
    ((d.1.data, d.1.data.map fun _ => d.1.poison, d.1.quiet) :: r.1, r.2)

/-- The source bytes of a destination group, row by row of the source. The rows of a memory tile are read together:
none is read while a line of one of them is not ready. -/
def squareRows (s : State) (w : Who) (x : Nat) (fills : List HostFill) (hint pos : Nat) (c : Nat) (mem : Bool) (src : Tile)
    (g : Nat) : Except Held (List (List Byte × List Bool × Bool)) × State :=
  if mem then
    let o := s.squareXlate w x hint pos src g src.rows
    match o.1 with
    | .error h => (.error h, o.2)
    | .ok rows =>
      if rows.all fun ps => o.2.allReady w false ps then
        let d := o.2.squareRead w fills hint rows
        (.ok d.1, d.2)
      else (.error .wait, s)
  else
    let k := s.core c
    (.ok ((List.range src.rows).map fun j =>
      let r := squareSpan src g j
      (k.engineBytes s.free r.1 r.2, (List.range r.2).map fun b => k.wordPoison ((r.1 + b) / 8), false)), s)

end State

/-- What the rows of one stream trick share: its core and context, the two tiles and where each lies, its index list,
and its controls. -/
structure StreamEnv where
  c : Nat
  x : Nat
  w : Who
  fills : List HostFill
  fn : StreamFn
  src : Tile
  dst : Tile
  idx : Option Tile
  tr : Bool
  hint : Nat
  conv : Nat
  deriving DecidableEq, Repr

def StreamEnv.srcMem (e : StreamEnv) : Bool := e.fn == .stageIn || e.fn == .gather
def StreamEnv.dstMem (e : StreamEnv) : Bool := e.fn == .stageOut || e.fn == .scatter

/-- Where a stream trick stands: rows done, the generator, the source group it holds, and whether it met poison. -/
structure StreamPos where
  row : Nat
  rng : Nat
  sq : Option (Nat × List (List Byte × List Bool × Bool)) := none
  poison : Bool := false
  deriving DecidableEq, Repr

/-- The destination row `i` of a group: one element of each source row. -/
def groupRow (src : Tile) (i : Nat) (sq : List (List Byte × List Bool × Bool)) : RowBits :=
  let b := src.fmt.elem.bits / 8
  let o := i * b % 128
  let bad := sq.flatMap fun r => (r.2.1.drop o).take b
  { codes := sq.map fun r => ofLe ((r.1.drop o).take b), scales := [], badE := bad
    poison := bad.any id && !sq.any (·.2.2), quiet := sq.any (·.2.2) }

namespace State

/-- The source row that makes destination row `i`; `v` is the memory row an index names. -/
def sourceRow (s : State) (e : StreamEnv) (p : StreamPos) (i v : Nat) : Except Held (RowBits × StreamPos) × State :=
  let pos := i + p.rng * 2 ^ 32
  if e.tr then
    let g := groupOf e.src i
    match p.sq with
    | some (h, sq) =>
      if h = g then (.ok (groupRow e.src i sq, p), s)
      else
        let r := s.squareRows e.w e.x e.fills e.hint pos e.c e.srcMem e.src g
        match r.1 with
        | .error h => (.error h, r.2)
        | .ok sq => (.ok (groupRow e.src i sq, { p with sq := some (g, sq) }), r.2)
    | none =>
      let r := s.squareRows e.w e.x e.fills e.hint pos e.c e.srcMem e.src g
      match r.1 with
      | .error h => (.error h, r.2)
      | .ok sq => (.ok (groupRow e.src i sq, { p with sq := some (g, sq) }), r.2)
  else if e.srcMem then
    let r := s.memRow e.w e.x e.fills e.hint pos e.src v
    match r.1 with
    | .error h => (.error h, r.2)
    | .ok b => (.ok (b, p), r.2)
  else (.ok (s.coreRow e.c e.src i, p), s)

/-- Write destination row `i`; `v` is the memory row an index names. -/
def destRow (s : State) (e : StreamEnv) (p : StreamPos) (i v : Nat) (r : RowDone) : Option Held × State :=
  if e.dstMem then s.putMemRow e.w e.x e.hint (i + p.rng * 2 ^ 32) e.dst v r
  else (none, s.putCoreRow e.c e.dst i r)

/-- Rows of a stream trick, at most `n` of them, up to `total`. -/
def streamRows (e : StreamEnv) (total : Nat) : Nat → State → StreamPos → Ran × StreamPos × State
  | n, s, p =>
    if total ≤ p.row then (.done, p, s)
    else
      match n with
      | 0 => (.budget, p, s)
      | n + 1 =>
        match indexLane (s.core e.c) e.idx (if e.dstMem then e.dst.rows else e.src.rows) p.row with
        | .error r => (.index r, p, s)
        | .ok none =>
          if e.dstMem then streamRows e total n s { p with row := p.row + 1 }
          else
            let z := zeroRow { e.src with len := e.dst.len } e.dst e.conv p.rng
            streamRows e total n (s.putCoreRow e.c e.dst p.row z) { p with row := p.row + 1, rng := z.rng }
        | .ok (some v) =>
          let a := s.sourceRow e p p.row v
          match a.1 with
          | .error .wait => (.wait, p, s)
          | .error (.fault f) => (.fault f, p, a.2)
          | .ok (b, q) =>
            let r := convertRow { e.src with len := e.dst.len } e.dst e.conv p.rng b
            let d := a.2.destRow e q p.row v r
            match d.1 with
            | some .wait => (.wait, p, s)
            | some (.fault f) => (.fault f, p, d.2)
            | none =>
              streamRows e total n (d.2.record e.c 7 r.cond)
                { q with row := p.row + 1, rng := r.rng, poison := p.poison || b.poison }

/-- The surroundings of a stream operation. -/
def streamEnv (s : State) (c : Fin 104) (fills : List HostFill) : EngOp → Option StreamEnv
  | .stream fn cs mem idx tr cached hint conv _ _ =>
    let x := (s.core c).ctx.getD 0
    let w : Who := ⟨.stream c, some x, s.ctxCls x, if cached then some c.val else none, .stream c⟩
    let toCs := fn == .stageIn || fn == .gather || fn == .copyLocal
    some ⟨c, x, w, fills, fn, if toCs then mem else cs, if toCs then cs else mem, idx, tr, hint, conv⟩
  | _ => none

/-- Run up to `n` rows of the stream engine's running trick, unless it stands at its restart position. A fault stops it
there and sets out for the record; an index stops it there too (R178, R279). -/
def streamRun (s : State) (c : Fin 104) (fills : List HostFill) (n : Nat) : Ran × State :=
  match (s.core c).queue 7 with
  | t :: rest =>
    match t.running, s.streamEnv c fills t.op with
    | some r, some e =>
      if t.stopped then (.wait, s) else
      let o := streamRows e t.op.streamRows n s ⟨t.done, t.rng, none, r.poison⟩
      let p := o.2.1
      let stop := match o.1 with
        | .fault _ => true
        | _ => false
      let t := { t with done := p.row, rng := p.rng, running := some { r with poison := p.poison }, stopped := stop }
      let s := o.2.2.modCore c fun k => k.setQueue 7 (t :: rest)
      (o.1, match o.1 with
        | .fault f => s.xfault f
        | _ => s)
    | _, _ => (.wait, s)
  | [] => (.wait, s)

/-- The first 16 pages of a tile are asked for ahead (R275). -/
def prefetchTile (s : State) (c x : Nat) (t : Tile) : State :=
  s.prefetchRanges (c / 26) x ((List.range t.rows).flatMap fun i =>
    [(t.rowE i, t.fmt.rowBytes t.len), (t.rowS i, t.fmt.rowScales t.len)])

/-- A stream trick that starts asks for the tiles of its next iteration and of the next stream trick (R275). -/
def prefetchStream (s : State) (c x : Nat) (t : Trick) (after : Option Trick) : State :=
  let s := match t.op with
    | .stream _ _ _ _ _ _ _ _ _ (some n) => s.prefetchTile c x n
    | _ => s
  match after with
  | some ⟨_, _, _, .stream fn _ m _ _ _ _ _ _ _, _, _, _, _, _, _⟩ => if fn = .copyLocal then s else s.prefetchTile c x m
  | _ => s

end State

/-- ENGINE_TRICK_START: the engine starts the oldest trick of its queue. A compute trick reads its operands, whose
range entries are then free; the errors its reads find are handled first (R120, R142, R144, R145). -/
def execEngineTrickStart (core : Fin 104) (engine : Fin 8) (errs : List EccErr) (s : State) : Res :=
  let k := s.core core
  let fit := k.pwr == .run && !k.isolated && !s.sump.fatal
  match k.queue engine with
  | t :: rest =>
    when (fit && t.running.isNone && !t.stopped) (fun s =>
      let s := s.storeErrs core errs
      let k := s.core core
      if k.isolated then s
      else if engine.val = 7 then
        let x := k.ctx.getD 0
        let s := s.prefetchStream core x t (rest.head?)
        let k := s.core core
        s.setCore core (k.setQueue 7 ({ t with running := some {}, rng := match t.op with
          | .stream _ _ _ _ _ _ _ _ seed _ => if t.done = 0 then lfsrSeed seed else t.rng
          | _ => t.rng } :: rest))
      else
        let bad := t.op.reads.any k.tilePoison
        let o := runCompute k s.free engine t.op
        let k := (o.1).setQueue engine ({ t with running := some { o.2 with poison := bad } } :: rest)
        let k := { k with ranges := k.ranges.filter fun e => e.write || decide (e.id ≠ t.id) }
        { (s.setCore core k) with free := s.free + storeSize }) s
  | [] => done s


/-- The core store tile of a stream trick, and whether the trick writes it. -/
def EngOp.csTile : EngOp → Option (Tile × Bool)
  | .stream fn cs _ _ _ _ _ _ _ _ => some (cs, decide (fn = .stageIn ∨ fn = .gather ∨ fn = .copyLocal))
  | _ => none

def Core.spoilTile (k : Core) (t : Tile) : Core :=
  (List.range t.rows).foldl (fun k i => (k.spoil (t.rowE i) (t.fmt.rowBytes t.len)).spoil (t.rowS i) (t.fmt.rowScales t.len)) k

/-- The last rows of a stream trick whose engine finds an error of its own: its output is poisoned (R20). -/
def State.streamSpoilt (s : State) (c : Fin 104) (fills : List HostFill) (op : EngOp) : State :=
  match op.csTile with
  | some (t, true) => (s.streamRun c fills op.streamRows).2.modCore c fun k => k.spoilTile t
  | some (t, false) =>
    ((s.modCore c fun k => k.spoilTile t).streamRun c fills op.streamRows).2.modCore c fun k => { k with poison := (s.core c).poison }
  | none => s

/-- TRICK_COMPLETE: the last write of the engine's trick lands. A compute trick's writes land at once; a stream trick
moves the rows it has left, and completes once the host has acknowledged what it wrote there (R179, R329, R331). -/
def execTrickComplete (core : Fin 104) (engine : Fin 8) (fault : EngFault) (cc : List (Fin 4096 × SliceErr)) (fills : List HostFill)
    (s : State) : Res :=
  let k := s.core core
  match k.queue engine with
  | [] => done s
  | t :: _ =>
    match t.running with
    | none => done s
    | some r =>
      when (k.pwr == .run && !k.isolated && !t.stopped && !s.sump.fatal) (fun s =>
        if engine.val < 7 then s.landCompute core engine t r fault
        else
          let s := s.ccErrs core cc
          let o := s.streamRun core fills t.op.streamRows
          if o.1 = .done ∧ o.2.dc.wt.all (fun w => decide (w.owner ≠ .stream core.val)) then
            let after := if fault = .clean then o.2 else s.streamSpoilt core fills t.op
            match (o.2.core core).queue 7 with
            | t :: _ =>
              let bad := (t.running.map (·.poison)).getD false || decide (fault ≠ .clean)
              let s := after.retire core 7 t
              if bad then
                let s := match fault with
                  | .clean => s.raise (srcEngine core 7) 0x012 k.ctx
                  | .residue => s.raise (srcEngine core 7) 0x001 k.ctx
                  | .parity => s.raiseEcc (srcEngine core 7) 0x002 k.ctx 0 0 0
                match k.ctx with
                | some x => s.suspend x .poison 0 (k.lcore.getD 0)
                | none => s
              else s
            | [] => o.2
          else o.2) s

/-- INDEX_LANE_FAULT: a running GATHER or SCATTER reaches an index lane that is out of range or poisoned: the rows
before it are written and the core takes the sequencer fault (R162, R178). -/
def execIndexLaneFault (core : Fin 104) (cc : List (Fin 4096 × SliceErr)) (fills : List HostFill) (s : State) : Res :=
  let k := s.core core
  match k.queue 7 with
  | [] => done s
  | t :: _ =>
    when (k.pwr == .run && !k.isolated && !t.stopped && !s.sump.fatal) (fun s =>
      let o := (s.ccErrs core cc).streamRun core fills t.op.streamRows
      match o.1 with
      | .index r =>
        let s := o.2.modCore core fun k => match k.queue 7 with
          | t :: rest => k.setQueue 7 ({ t with stopped := true } :: rest)
          | [] => k
        s.seqFault core r t.row
      | _ => o.2) s

/-- PREEMPTION_BOUNDARY: a stop takes effect at the next row boundary. The stream engine ends `rows` more rows and then
stands at its restart row; a suspension other than for a translation fault lets its tricks end (R195 to R197, R278). -/
def execPreemptionBoundary (core : Fin 104) (rows : Nat) (cc : List (Fin 4096 × SliceErr)) (fills : List HostFill) (s : State) : Res :=
  let k := s.core core
  when (k.stop.isSome && !k.isolated && !s.sump.fatal) (fun s =>
    let s := s.park core
    let xlat := match k.ctx with
      | some x => decide (.xlat ∈ (s.context x).causes)
      | none => false
    let o := (s.ccErrs core cc).streamRun core fills rows
    let halts := decide (k.stop ≠ some .suspend) || xlat
    let s := if !halts then o.2
      else o.2.modCore core fun k => match k.queue 7 with
        | t :: rest => k.setQueue 7 ({ t with stopped := true } :: rest)
        | [] => k
    s.settle core) s

/-- CORE_INIT_DONE: core store is clear and the core runs (R150, R155). -/
def execCoreInitDone (core : Fin 104) (s : State) : Res :=
  when ((s.core core).pwr == .init && !s.sump.fatal) (fun s => s.modCore core fun k => { k with pwr := .run }) s

end Sys2Proof.Machine
end

