-- ==== Sys2Proof/Machine/CopyEngine.lean ====
section
/-!
DEFINITION. The copy engines: R335 to R371. Descriptor checks, gates, chunks, and the lists' ends.
-/
namespace Sys2Proof.Machine

/-! ### Checks at a descriptor's first chunk (R340 to R347, R364, R365) -/

/-- The bits of W0 that a descriptor may set; `near`: NEAR carries meaning. -/
def w0Mask (d : Dsc) (near : Bool) : Nat :=
  0xF3FF + (if d.sigOn then 0x7FFF0000 else 0) + (if near then 0x400 else 0)

def gateMask (d : Dsc) : Nat := if d.gateOn then 0x7FFF else 0

def addrMask (b : Bool) : List Nat := if b then [0xFFFFFFFF, 0xFFFF] else [0, 0]

/-- Formats of an extended descriptor: source and destination. -/
def Dsc.sfmt (d : Dsc) : Option Fmt := Fmt.ofCode (d.f 1 19 16)
def Dsc.dfmt (d : Dsc) : Option Fmt := Fmt.ofCode (d.f 1 23 20)

def blockFmt (f : Option Fmt) : Bool := f.any (·.isBlock)
def biasFmt (f : Option Fmt) : Bool := f.any (·.hasBias)

/-- The bits of words W1 to W15 that a copy descriptor may set (R342, R345 to R347); a bias is reserved with a format
that has none (DEDUCED from R71). -/
def ceMasks (d : Dsc) : List Nat :=
  let g := gateMask d
  let any := 0xFFFFFFFF
  match d.ty with
  | 0x02 => [g, any, 0xFFFF, any, 0xFFFF, any, 0xFF]
  | 0x03 => [g, 0, 0, any, 0xFFFF, any, 0xFF]
  | 0x04 => [g + 0xFF0000, 0, 0, any, 0xFFFF, 0, 0]
  | 0x08 =>
    let opc := d.f 1 19 16
    let radd := decide (opc = 0xD)
    let w64 := decide (d.f 1 20 20 = 1)
    let ret := decide (d.f 1 21 21 = 1) && !radd
    let wide := decide (opc < 0xA)
    [g + 0xF0000 + (if radd then 0 else 0x200000) + (if wide then 0x100000 else 0)] ++ addrMask true
      ++ [any, if radd then 0xFFFF else if w64 then any else 0]
      ++ [if opc = 9 then any else 0, if opc = 9 ∧ w64 then any else 0] ++ addrMask ret
  | 0x10 =>
    [g + 0xFFF0000] ++ addrMask true ++ addrMask true ++ addrMask (blockFmt d.sfmt) ++ addrMask (blockFmt d.dfmt)
      ++ [any, 0xFF, (if biasFmt d.dfmt then 0xFF00 else 0) + (if biasFmt d.sfmt then 0xFF else 0),
        if d.f 1 25 24 = 1 then any else 0]
  | 0x18 => [g + 0xF0000] ++ addrMask true ++ addrMask true ++ addrMask false ++ addrMask true ++ [any, 0xFF, 0, 0]
  | 0x19 | 0x1A | 0x1B => [g] ++ addrMask true ++ addrMask true ++ addrMask false ++ addrMask true ++ [any, 0xFF, 0, 0]
  | 0x1C => [g + 0xFF0000] ++ addrMask true ++ addrMask true ++ addrMask true ++ addrMask true ++ [any, 0xFF, 0x3FFFF00, 0]
  | 0x1D =>
    [g + 0xFF00000] ++ addrMask true ++ addrMask true ++ addrMask false ++ addrMask (blockFmt d.dfmt)
      ++ [any, 0xFF, if biasFmt d.dfmt then 0xFF00 else 0, if d.f 1 25 24 = 1 then any else 0]
  | _ => [g]

/-- Whether a word sets a bit outside its mask. -/
def outside (w m : Nat) : Bool := decide (w &&& (0xFFFFFFFF - m) ≠ 0)

/-- The types a copy engine knows, and those its direction permits (R335, R341). -/
def ceTypeOk (e : Nat) (ty : Nat) : Bool :=
  decide (ty ∈ [0x00, 0x01, 0x02, 0x03, 0x04, 0x08, 0x10, 0x18, 0x19, 0x1A, 0x1B, 0x1C, 0x1D])
    && (deviceBound e || decide (ty ≠ 0x08 ∧ ty ≠ 0x1C))

/-- Worst-case stream bytes (R355, R357, R359). -/
def worstStream (ty n fmt : Nat) : Nat :=
  match ty with
  | 0x18 | 0x19 => 16 + n + (n + 63) / 64
  | 0x1A | 0x1B => 16 + n + (n + 1023) / 1024
  | _ => 16 + (if fmt = 6 then 17 else 33) * ((n + 31) / 32)

/-- The ranges a descriptor reads and those it writes, as first byte and length (R347). -/
def ceRanges (d : Dsc) : List (Nat × Nat) × List (Nat × Nat) :=
  let n := d.count 10
  let plane (f : Option Fmt) : Nat := (f.map (·.rowBytes n)).getD 0
  let scales (f : Option Fmt) : Nat := (f.map (·.rowScales n)).getD 0
  let len := if d.addr 8 = 0 then [] else [(d.addr 8, 8)]
  match d.ty with
  | 0x02 => ([(d.addr 2, d.count 6)], [(d.addr 4, d.count 6)])
  | 0x10 => ([(d.addr 2, plane d.sfmt), (d.addr 6, scales d.sfmt)], [(d.addr 4, plane d.dfmt), (d.addr 8, scales d.dfmt)])
  | 0x18 | 0x1A => ([(d.addr 2, n)], (d.addr 4, worstStream d.ty n 0) :: len)
  | 0x19 | 0x1B => ([(d.addr 2, worstStream d.ty n 0)], (d.addr 4, n) :: len)
  | 0x1C => ([(d.addr 2, plane d.sfmt)], [(d.addr 4, worstStream 0x1C n (d.f 1 23 20)), (d.addr 6, 8 * n)] ++ len)
  | 0x1D => ([(d.addr 2, worstStream 0x1D n 7)], [(d.addr 4, plane d.dfmt), (d.addr 8, scales d.dfmt)])
  | _ => ([], [])

def meet (a b : Nat × Nat) : Bool := decide (a.2 ≠ 0 ∧ b.2 ≠ 0 ∧ a.1 < b.1 + b.2 ∧ b.1 < a.1 + a.2)

/-- Whether two ranges of a list meet. -/
def anyMeet : List (Nat × Nat) → Bool
  | [] => false
  | a :: l => l.any (meet a) || anyMeet l

def ceOverlap (d : Dsc) : Bool :=
  let r := ceRanges d
  anyMeet r.2 || r.1.any fun a => r.2.any (meet a)

/-- Formats and conversion control outside what R347 allows. -/
def ceBadFmt (d : Dsc) : Bool :=
  let s := d.f 1 19 16
  let t := d.f 1 23 20
  match d.ty with
  | 0x10 => d.sfmt.isNone || d.dfmt.isNone || !ctlValid (d.f 1 27 24)
  | 0x18 => decide (4 < s)
  | 0x1C => decide (2 < s) || decide (t < 6 ∨ 8 < t)
  | 0x1D => d.dfmt.isNone || !ctlValid (d.f 1 27 24)
  | _ => false

def isExt (ty : Nat) : Bool := decide (0x10 ≤ ty)

def ceBadAlign (d : Dsc) : Bool :=
  let n := d.count 10
  match d.ty with
  | 0x08 =>
    if d.f 1 19 16 = 0xD then decide (d.addr 2 % 128 ≠ 0 ∨ d.addr 4 % 128 ≠ 0)
    else
      let m := if d.f 1 20 20 = 1 then 8 else 4
      decide (d.addr 2 % m ≠ 0) || (decide (d.f 1 21 21 = 1) && decide (d.addr 8 % m ≠ 0))
  | ty =>
    isExt ty && (decide (d.addr 2 % 8 ≠ 0 ∨ d.addr 4 % 8 ≠ 0 ∨ d.addr 6 % 8 ≠ 0 ∨ d.addr 8 % 8 ≠ 0)
      || (decide (ty = 0x18) && decide (n % siltLWidth (d.f 1 19 16) ≠ 0)) || (decide (ty = 0x1A) && decide (n % 8 ≠ 0)))

/-- The least scale exponent of SILT_Q_ENC (R360). -/
def ceEmin (d : Dsc) : Int :=
  signed 10 (d.f 12 25 16) - signed 8 (d.f 12 15 8) + siltQG (((d.dfmt).map (·.elem)).getD .f4)

def ceBadLimit (d : Dsc) : Bool :=
  d.cut || (match d.ty with
    | 0x02 | 0x03 => decide (d.count 6 = 0)
    | 0x04 => decide (191 < d.f 1 23 16)
    | 0x1C => decide (d.count 10 = 0) || decide (31 < ceEmin d)
    | ty => isExt ty && decide (d.count 10 = 0))

/-- Reserved bits and values: of the words, of the last unit of an INLINE, an OPC without an operation, and the SHINT
of an ATOMIC that reads no source line. -/
def ceReserved (d : Dsc) (enq : Bool) : Bool :=
  let opc := d.f 1 19 16
  let near := decide (d.ty = 0x08) && enq && decide (opc ≠ 0xD)
  outside (d.w 0) (w0Mask d near) || (!d.gateOn && decide (d.f 1 14 0 ≠ 0))
    || (((List.range 15).zip (ceMasks d ++ List.replicate 15 0)).any fun p =>
      decide (p.1 + 1 < (if d.ty = 0x04 then 8 else 8 * d.n)) && outside (d.w (p.1 + 1)) p.2)
    || (decide (d.ty = 0x04) && (d.bytes.drop (32 + d.f 1 23 16 + 1)).any (· ≠ 0#8))
    || (decide (d.ty = 0x08) && decide (0xD < opc)) || (decide (d.ty = 0x08 ∧ opc ≠ 0xD) && decide (d.shint ≠ 0))

/-- Whether a named peg lies outside the context's window. -/
def State.pegBad (s : State) (x : Nat) (d : Dsc) : Bool :=
  (d.sigOn && (s.pegOfCtx x (d.f 0 30 16)).isNone) || (d.gateOn && (s.pegOfCtx x (d.f 1 14 0)).isNone)

/-- The status of the rule that a descriptor breaks with the lowest code, or 0 (R365). -/
def State.ceCheck (s : State) (e : Nat) (l : CList) (d : Dsc) : Nat :=
  if d.poison then 0xA
  else if !ceTypeOk e d.ty then 1
  else if ceReserved d l.lcore.isSome then 2
  else if ceBadFmt d then 3
  else if s.pegBad l.ctx d then 4
  else if ceBadAlign d then 5
  else if ceOverlap d then 6
  else if ceBadLimit d then 7
  else 0

/-! ### Lines of a chunk -/

/-- What a chunk comes to: it waits, its translation faulted, it stops its list with a status, or it is done: the
progress in the descriptor, the stream and the generator, flags, progress units, and bytes counted. -/
structure ChunkOk where
  off : Nat
  enc : Nat := 0
  rng : Nat := 0
  hdr : Nat := 0
  flags : Flags := 0
  units : Nat := 1
  bytes : Nat := 0
  encIn : Nat := 0
  encOut : Nat := 0
  deriving DecidableEq, Repr

inductive Chunk (α : Type) where
  | wait
  | fault (f : XFault)
  | stop (status : Nat)
  | ok (a : α)
  deriving DecidableEq, Repr

/-- Who a copy engine's list is as a requester. -/
def State.ceWho (s : State) (e n : Nat) (l : CList) : Who :=
  ⟨.copy (Fin.ofNat 16 e), some l.ctx, s.ctxCls l.ctx, none, .copy e n⟩

/-- Whether an engine may reach a target (R335). -/
def ceMay (e : Nat) (write : Bool) : Phys → Bool
  | .hpa _ => if write then !deviceBound e else deviceBound e
  | .dpa _ => !write || deviceBound e

namespace State

/-- Translate a run for an engine: it may reach all of it, or the chunk stops as DIRECTION (R336). -/
def ceXlate (s : State) (w : Who) (e x acc pos a n : Nat) : Chunk (List (Phys × Nat × Nat)) × State :=
  let o := s.xlateAll w x acc pos (linesOf a n)
  match o.1 with
  | .error .wait => (.wait, s)
  | .error (.fault f) => (.fault f, o.2)
  | .ok ps => if ps.all fun p => ceMay e (decide (acc = 1 ∨ acc = 2)) p.1 then (.ok ps, o.2) else (.stop 8, o.2)

/-- Read a run of bytes for a chunk. Whether its lines can be served is judged in `s0`, where the chunk began: what its own
earlier reads set going does not hold it. -/
def ceRead (s s0 : State) (w : Who) (e x : Nat) (fills : List HostFill) (hint pos a n : Nat) : Chunk (List Byte) × State :=
  let o := s.ceXlate w e x (if hint = 3 then 3 else 0) pos a n
  match o.1 with
  | .wait => (.wait, s)
  | .fault f => (.fault f, o.2)
  | .stop c => (.stop c, o.2)
  | .ok ps =>
    if s0.allReady w false ps then
      let d := o.2.readRun w fills hint ps
      if d.1.poison then (.stop 0xA, d.2) else (.ok d.1.data, d.2)
    else (.wait, s)

/-- Translate the runs a chunk will write, all of them before any write. -/
def ceTargets (s : State) (w : Who) (e x pos : Nat) : List (Nat × List Byte) → Chunk (List (List (Phys × Nat × Nat) × List Byte)) × State
  | [] => (.ok [], s)
  | (a, bs) :: l =>
    let o := s.ceXlate w e x 1 pos a bs.length
    match o.1 with
    | .wait => (.wait, s)
    | .fault f => (.fault f, o.2)
    | .stop c => (.stop c, o.2)
    | .ok ps =>
      let r := o.2.ceTargets w e x pos l
      match r.1 with
      | .wait => (.wait, s)
      | .fault f => (.fault f, r.2)
      | .stop c => (.stop c, r.2)
      | .ok qs => (.ok ((ps, bs) :: qs), r.2)

/-- Write the runs of a chunk: every one is translated and can be served, judged where the chunk began, before the first
is written. -/
def ceWrite (s s0 : State) (w : Who) (e x hint pos : Nat) (runs : List (Nat × List Byte)) : Chunk Unit × State :=
  let o := s.ceTargets w e x pos runs
  match o.1 with
  | .wait => (.wait, s)
  | .fault f => (.fault f, o.2)
  | .stop c => (.stop c, o.2)
  | .ok ts =>
    if ts.all fun t => s0.allReady w true t.1 then
      (.ok (), ts.foldl (fun s t => s.writeRun w hint t.2 (t.2.map fun _ => false) t.1) o.2)
    else (.wait, s)

/-! ### Chunks (R343 to R362) -/

end State

/-- What a chunk of a descriptor needs to know. -/
structure ChunkEnv where
  e : Nat
  n : Nat
  l : CList
  d : Dsc
  w : Who
  fills : List HostFill
  pos : Nat
  s0 : State
  deriving DecidableEq, Repr

/-- Pass on what stopped a step of a chunk. -/
def Chunk.bind {α β : Type} (c : Chunk α × State) (f : α → State → Chunk β × State) : Chunk β × State :=
  match c.1 with
  | .wait => (.wait, c.2)
  | .fault x => (.fault x, c.2)
  | .stop n => (.stop n, c.2)
  | .ok a => f a c.2

namespace State

def rdC (s : State) (v : ChunkEnv) (a n : Nat) : Chunk (List Byte) × State :=
  s.ceRead v.s0 v.w v.e v.l.ctx v.fills v.d.shint v.pos a n

def wrC (s : State) (v : ChunkEnv) (runs : List (Nat × List Byte)) : Chunk Unit × State :=
  s.ceWrite v.s0 v.w v.e v.l.ctx v.d.dhint v.pos runs

/-- The destination line of a byte chunk: its bytes, and whether it is a host line (R349). -/
def lineChunk (s : State) (v : ChunkEnv) (a left : Nat) : Chunk (Nat × Phys × Nat) × State :=
  Chunk.bind (s.ceXlate v.w v.e v.l.ctx 1 v.pos a 1) fun ps s =>
    match ps with
    | (.hpa h, _, adv) :: _ => (.ok (min (64 - h % 64) left, .hpa h, adv), s)
    | (p, _, adv) :: _ => (.ok (min (128 - a % 128) left, p, adv), s)
    | [] => (.wait, s)

/-- COPY: one destination line (R343). -/
def copyChunk (s : State) (v : ChunkEnv) : Chunk ChunkOk × State :=
  let dst := v.d.addr 4 + v.l.off
  Chunk.bind (s.lineChunk v dst (v.d.count 6 - v.l.off)) fun t s =>
    Chunk.bind (s.rdC v (v.d.addr 2 + v.l.off) t.1) fun bs s =>
      Chunk.bind (s.wrC v [(dst, bs)]) fun _ s => (.ok { off := v.l.off + t.1, units := blocks64 dst t.1, bytes := t.1 }, s)

/-- ZERO: one destination line; a whole host line goes by zero-line (R343). -/
def zeroChunk (s : State) (v : ChunkEnv) : Chunk ChunkOk × State :=
  let dst := v.d.addr 4 + v.l.off
  Chunk.bind (s.lineChunk v dst (v.d.count 6 - v.l.off)) fun t s =>
    let r : ChunkOk := { off := v.l.off + t.1, units := blocks64 dst t.1, bytes := t.1 }
    match t.2.1 with
    | .hpa h =>
      if t.1 = 64 then
        if s.lineReady v.w t.2.1 true then (.ok r, s.dcZero (h / 64) v.w.owner v.w.ctx v.w.cls) else (.wait, s)
      else Chunk.bind (s.wrC v [(dst, List.replicate t.1 0#8)]) fun _ s => (.ok r, s)
    | _ => Chunk.bind (s.wrC v [(dst, List.replicate t.1 0#8)]) fun _ s => (.ok r, s)

/-- INLINE: all of it (R342). -/
def inlineChunk (s : State) (v : ChunkEnv) : Chunk ChunkOk × State :=
  let n := v.d.f 1 23 16 + 1
  Chunk.bind (s.wrC v [(v.d.addr 4, (v.d.bytes.drop 32).take n)]) fun _ s => (.ok { off := 1, bytes := n }, s)

end State

/-- The operation of an OPC, when the element is as wide as W64 says (R345). -/
def opcOf (opc : Nat) : AtomOp :=
  match opc with
  | 0 => .add | 1 => .and | 2 => .or | 3 => .xor | 4 => .smin | 5 => .smax | 6 => .umin | 7 => .umax
  | 8 => .swap | 9 => .cas | 0xA => .fadd | 0xB => .fmin | 0xC => .fmax | _ => .radd64

namespace State

/-- ATOMIC: one operation on populated HBM, its old value written where RET asks (R247, R345, R348). An atomic outside
populated HBM gives HOLE, as R226 states. -/
def atomicChunk (s : State) (v : ChunkEnv) : Chunk ChunkOk × State :=
  let d := v.d
  let opc := d.f 1 19 16
  let radd := decide (opc = 0xD)
  let sz := if d.f 1 20 20 = 1 then 8 else 4
  let near := if bitOf (d.w 0) 10 then v.l.lcore.bind s.coreOf else none
  let src : Chunk (List Byte) × State := if radd then s.rdC v (d.addr 4) 128 else (.ok (leBytes 8 (d.w 4 + d.w 5 * 2 ^ 32)), s)
  Chunk.bind src fun val s =>
    Chunk.bind (s.ceXlate v.w v.e v.l.ctx 2 v.pos (d.addr 2) (if radd then 128 else sz)) fun ps s =>
      match ps with
      | (.dpa a, _, adv) :: _ =>
        if !populated a then (.stop 0xA, s.memHole v.w.agent v.w.ctx a false)
        else if !v.s0.lineReady v.w (.dpa a) true then (.wait, s)
        else
          let ret := decide (d.f 1 21 21 = 1)
          Chunk.bind (if ret then s.ceTargets v.w v.e v.l.ctx v.pos [(d.addr 8, List.replicate sz 0#8)] else (.ok [], s)) fun ts s =>
            if !(ts.all fun t => v.s0.allReady v.w true t.1) then (.wait, s)
            else
              let near := if s.hostBias (a / 128) then none else near
              let o := (s.biasAsk (a / 128) true).ncAtomic (a / 128) (if d.dhint = 0 then adv else d.dhint) v.w.cls (opcOf opc) (if radd then 8 else sz)
                (a % 128) ((d.w 6 + d.w 7 * 2 ^ 32) % 2 ^ (8 * sz)) val near
              if o.1.2.1 then (.stop 0xA, o.2)
              else
                let old := leBytes sz o.1.1
                let s := ts.foldl (fun s t => s.writeRun v.w 0 old (old.map fun _ => false) t.1) o.2
                (.ok { off := 1, flags := o.1.2.2, bytes := (if radd then 128 else sz) + (if ret then sz else 0) }, s)
      | _ => (.stop 8, s)

/-- CONVERT: 32 elements, with their scale in a block format (R347). -/
def convertChunk (s : State) (v : ChunkEnv) : Chunk ChunkOk × State :=
  let d := v.d
  match d.sfmt, d.dfmt with
  | some f, some g =>
    let i := v.l.off
    let n := min 32 (d.count 10 - i)
    let rng := if i = 0 then lfsrSeed (d.w 13) else v.l.rng
    let plane (f : Fmt) (base : Nat) : Nat := base + (if f.isBlock then i / 32 * (4 * f.elem.bits) else i * f.elem.bits / 8)
    Chunk.bind (s.rdC v (plane f (d.addr 2)) (f.rowBytes n)) fun es s =>
      Chunk.bind (if f.isBlock then s.rdC v (d.addr 6 + i / 32) 1 else (.ok [], s)) fun sc s =>
        let o := encodeRow g (Ctl.ofCode (d.f 1 27 24)) (signed 8 (d.f 12 15 8)) rng
          (decodeRow f (signed 8 (d.f 12 7 0)) n es sc)
        let out := packElems g.elem (o.elems.map (·.code))
        let wr := (plane g (d.addr 4), out) :: (if g.isBlock then [(d.addr 8 + i / 32, o.scales.map (BitVec.ofNat 8))] else [])
        Chunk.bind (s.wrC v wr) fun _ s =>
          (.ok { off := i + n, rng := o.rng, flags := orFlags o.elems, bytes := out.length + o.scales.length }, s)
  | _, _ => (.stop 3, s)

/-- The length word, when the address is used. -/
def lenWord (d : Dsc) (n : Nat) : List (Nat × List Byte) := if d.addr 8 = 0 then [] else [(d.addr 8, leBytes 8 n)]

/-- SILT_L_ENC and SILT_Z_ENC: one frame (R354, R355, R357). -/
def encChunk (s : State) (v : ChunkEnv) (kind : Nat) : Chunk ChunkOk × State :=
  let d := v.d
  let i := v.l.off
  let n := min 4096 (d.count 10 - i)
  let fmt := if kind = 1 then d.f 1 19 16 else 0
  Chunk.bind (s.rdC v (d.addr 2 + i) n) fun bs s =>
    let body := if kind = 1 then siltLFrame fmt 65 bs else siltZFrame bs
    let out := (if i = 0 then siltHeader kind fmt 0 (d.count 10) else []) ++ body
    let enc := v.l.enc + out.length
    let last := if i + n = d.count 10 then lenWord d enc else []
    Chunk.bind (s.wrC v ((d.addr 4 + v.l.enc, out) :: last)) fun _ s =>
      (.ok { off := i + n, enc := enc, bytes := out.length, encIn := n, encOut := out.length }, s)

/-- Read the header of a stream and check it (R353): FMT and BIAS. -/
def headerC (s : State) (v : ChunkEnv) (kind : Nat) : Chunk Nat × State :=
  Chunk.bind (s.rdC v (v.d.addr 2) 16) fun h s =>
    if siltHeaderOk h kind (v.d.count 10) then (.ok (ofLe ((h.drop 1).take 2)), s) else (.stop 9, s)

/-- Decode one frame from stream offset `p`, reading as much of it as it needs, line by line. -/
def decodeC (v : ChunkEnv) (kind fmt b p stop : Nat) : Nat → List Byte → State → Chunk (List Byte × Nat) × State
  | 0, _, s => (.stop 9, s)
  | k + 1, buf, s =>
    let left := stop - (v.d.addr 2 + p)
    match if kind = 1 then siltLUnframe fmt 65 b left buf else siltZUnframe 513 (b / 8) left buf with
    | .corrupt => (.stop 9, s)
    | .ok out used => (.ok (out, used), s)
    | .more =>
      let a := v.d.addr 2 + p + buf.length
      Chunk.bind (s.rdC v a (min (128 - a % 128) (stop - a))) fun bs s => decodeC v kind fmt b p stop k (buf ++ bs) s

/-- SILT_L_DEC and SILT_Z_DEC: one frame (R356, R357). -/
def decChunk (s : State) (v : ChunkEnv) (kind : Nat) : Chunk ChunkOk × State :=
  let d := v.d
  let i := v.l.off
  let n := min 4096 (d.count 10 - i)
  let p := if i = 0 then 16 else v.l.enc
  Chunk.bind (if i = 0 then s.headerC v kind else (.ok v.l.hdr, s)) fun hdr s =>
    Chunk.bind (decodeC v kind (hdr % 256) n p (d.addr 2 + worstStream d.ty (d.count 10) 0) 48 [] s) fun o s =>
      let last := if i + n = d.count 10 then lenWord d (p + o.2) else []
      Chunk.bind (s.wrC v ((d.addr 4 + i, o.1) :: last)) fun _ s =>
        (.ok { off := i + n, enc := p + o.2, hdr := hdr, bytes := n }, s)

/-- SILT_Q_ENC: one block with its residuals (R360). -/
def qEncChunk (s : State) (v : ChunkEnv) : Chunk ChunkOk × State :=
  let d := v.d
  match d.sfmt, d.dfmt with
  | some f, some g =>
    let i := v.l.off
    let n := min 32 (d.count 10 - i)
    Chunk.bind (s.rdC v (d.addr 2 + i * f.elem.bits / 8) (f.rowBytes n)) fun es s =>
      Chunk.bind (s.rdC v (d.addr 6 + 8 * i) (8 * n)) fun rs s =>
        let o := siltQBlock g.elem (signed 10 (d.f 12 25 16)) (signed 8 (d.f 12 15 8)) (decodeRow f 0 n es []) (elemsOf 8 n rs)
        let out := (if i = 0 then siltHeader 2 (d.f 1 23 20) (d.f 12 15 8) (d.count 10) else []) ++ o.bytes
        let enc := v.l.enc + out.length
        let last := if i + n = d.count 10 then lenWord d enc else []
        Chunk.bind (s.wrC v ([(d.addr 4 + v.l.enc, out), (d.addr 6 + 8 * i, o.residuals.flatMap (leBytes 8))] ++ last)) fun _ s =>
          (.ok { off := i + n, enc := enc, flags := o.flags, bytes := out.length + 8 * n, encIn := es.length, encOut := out.length }, s)
  | _, _ => (.stop 3, s)

/-- SILT_Q_DEC: one block (R362). -/
def qDecChunk (s : State) (v : ChunkEnv) : Chunk ChunkOk × State :=
  let d := v.d
  match d.dfmt with
  | none => (.stop 3, s)
  | some g =>
    let i := v.l.off
    let n := min 32 (d.count 10 - i)
    let rng := if i = 0 then lfsrSeed (d.w 13) else v.l.rng
    Chunk.bind (if i = 0 then s.headerC v 2 else (.ok v.l.hdr, s)) fun hdr s =>
      let f := ((Fmt.ofCode (hdr % 256)).map (·.elem)).getD .f4
      let size := 1 + 4 * f.bits
      let p := 16 + i / 32 * size
      Chunk.bind (s.rdC v (d.addr 2 + p) size) fun bs s =>
        let o := encodeRow g (Ctl.ofCode (d.f 1 27 24)) (signed 8 (d.f 12 15 8)) rng (siltQVals f (signed 8 (hdr / 256)) n bs)
        let out := packElems g.elem (o.elems.map (·.code))
        let base := d.addr 4 + (if g.isBlock then i / 32 * (4 * g.elem.bits) else i * g.elem.bits / 8)
        let wr := (base, out) :: (if g.isBlock then [(d.addr 8 + i / 32, o.scales.map (BitVec.ofNat 8))] else [])
        Chunk.bind (s.wrC v wr) fun _ s =>
          (.ok { off := i + n, enc := p + size, rng := o.rng, hdr := hdr, flags := orFlags o.elems, bytes := out.length + o.scales.length }, s)

/-- One chunk of a descriptor. -/
def ceChunk (s : State) (v : ChunkEnv) : Chunk ChunkOk × State :=
  match v.d.ty with
  | 0x02 => s.copyChunk v
  | 0x03 => s.zeroChunk v
  | 0x04 => s.inlineChunk v
  | 0x08 => s.atomicChunk v
  | 0x10 => s.convertChunk v
  | 0x18 => s.encChunk v 1
  | 0x19 => s.decChunk v 1
  | 0x1A => s.encChunk v 3
  | 0x1B => s.decChunk v 3
  | 0x1C => s.qEncChunk v
  | _ => s.qDecChunk v

end State

/-- Where a descriptor's last chunk ends, in its own measure. -/
def Dsc.extent (d : Dsc) : Nat :=
  match d.ty with
  | 0x02 | 0x03 => d.count 6
  | 0x04 | 0x08 => 1
  | 0x00 | 0x01 => 0
  | _ => d.count 10

/-! ### Running lists (R338, R339, R348, R365) -/

namespace State

/-- A descriptor has issued its last chunk: the list goes to the next one (R339). -/
def descIssued (s : State) (k : Nat) (l : CList) (d : Dsc) : State :=
  let sig := if d.sigOn then s.pegOfCtx l.ctx (d.f 0 30 16) else none
  s.setList k { l with
    fins := l.fins ++ [⟨l.desc, sig⟩], desc := l.desc + 1, unit := l.unit + d.n, off := 0, enc := 0, rng := 0, hdr := 0, open_ := false }

/-- A descriptor that starts asks for the pages of the next one of its list, reads before writes (R275). -/
def cePrefetch (s : State) (k : Nat) (l : CList) (d : Dsc) : State :=
  let n := descAt false l.units (l.unit + d.n)
  let r := ceRanges n
  let more := match n.ty with
    | 0x03 => [(n.addr 4, n.count 6)]
    | 0x04 => [(n.addr 4, n.f 1 23 16 + 1)]
    | 0x08 => [(n.addr 2, 1)]
    | _ => []
  if 16 ≤ k / 64 ∨ l.units.length ≤ l.unit + d.n then s else s.prefetchRanges (k / 64 / 4) l.ctx (r.1 ++ r.2 ++ more)

/-- A running list reaches a descriptor: its checks, then its gate. The list is gated, aborted, or its descriptor is
open (R348, R365). -/
def descOpen (s : State) (k : Nat) (l : CList) (d : Dsc) (status : Nat) : State :=
  if status ≠ 0 then s.listAbort k status
  else
    match if d.gateOn then s.pegOfCtx l.ctx (d.f 1 14 0) else none with
    | none => (s.setList k { l with open_ := true }).cePrefetch k l d
    | some p =>
      let e := k / 64
      if (s.engLists e).any fun q => decide (q.2.st = .gated) then s
      else ((s.setList k { l with st := .gated }).pegDo p (.wait (engWaiter e))).cePrefetch k l d

/-- Issue up to `n` chunks of the descriptor that a running list has reached. -/
def ceRun (fills : List HostFill) (k : Nat) : Nat → State → State
  | 0, s => s
  | n + 1, s =>
    match s.list k with
    | none => s
    | some l =>
      let e := k / 64
      let d := descAt false l.units l.unit
      if l.st ≠ .running ∨ !l.open_ then s
      else if d.extent ≤ l.off then s
      else if l.hold ∧ !l.pend.isEmpty then s
      else
        let l := { l with hold := false }
        let pos := l.desc % 256 * 2 ^ 56 + d.srcPos l.off l.enc % 2 ^ 56
        let first := s.dc.nextId
        let o := s.ceChunk ⟨e, k % 64, l, d, s.ceWho e (k % 64) l, fills, pos, s⟩
        match o.1 with
        | .wait => s
        | .fault f => (o.2.setList k { l with st := .stopped, status := 0xB }).xfault f
        | .stop c => o.2.listAbort k c
        | .ok r =>
          let wts := (o.2.dc.wt.filter fun w => decide (first ≤ w.id)).map (·.id)
          let p : CPend := ⟨l.desc, d.srcPos l.off l.enc, r.units, r.bytes, wts, l.unit, l.off, l.enc, l.rng, l.issued⟩
          let l' := { l with
            st := (o.2.list k).elim l.st (·.st), off := r.off, enc := r.enc, rng := r.rng, hdr := r.hdr, flags := l.flags ||| r.flags, issued := l.issued + r.units
            pend := if wts.isEmpty then l.pend else l.pend ++ [p], done := if wts.isEmpty then l.done + r.units else l.done }
          let s := if wts.isEmpty then o.2.ceBytes e 0 r.bytes else o.2
          let s := (s.ceBytes e 1 r.encIn).ceBytes e 2 r.encOut
          let s := if d.extent ≤ r.off then s.descIssued k l' d else s.setList k l'
          if d.extent ≤ r.off then s else ceRun fills k n s

/-- A descriptor command at a list: where the descriptor reached has its TYPE, it is opened or its chunks go on. A TYPE
that no row names is met by the COPY command. -/
def ceDesc (s : State) (engine : Fin 16) (list : Fin 64) (ty chunks : Nat) (fills : List HostFill) : State :=
  let k := listKey engine list
  match s.list k with
  | none => s
  | some l =>
    let d := descAt false l.units l.unit
    let known := decide (d.ty ∈ [0x00, 0x01, 0x02, 0x03, 0x04, 0x08, 0x10, 0x18, 0x19, 0x1A, 0x1B, 0x1C, 0x1D])
    if l.st ≠ .running ∨ l.units.length ≤ l.unit ∨ s.sump.fatal ∨ !(d.ty = ty ∨ (!known ∧ ty = 0x02)) then s
    else if !l.open_ then s.descOpen k l d (s.ceCheck engine l d)
    else if d.extent = 0 then (s.descIssued k { l with hold := l.hold || decide (d.ty = 1) } d)
    else ceRun fills k chunks s

end State

/-- COPY (R343). -/
def execCopy (engine : Fin 16) (list : Fin 64) (chunks : Nat) (fills : List HostFill) (s : State) : Res :=
  done (s.ceDesc engine list 0x02 chunks fills)

/-- ZERO (R343). -/
def execZero (engine : Fin 16) (list : Fin 64) (chunks : Nat) (s : State) : Res := done (s.ceDesc engine list 0x03 chunks [])

/-- INLINE (R342). -/
def execInline (engine : Fin 16) (list : Fin 64) (s : State) : Res := done (s.ceDesc engine list 0x04 1 [])

/-- ATOMIC (R345). -/
def execAtomic (engine : Fin 16) (list : Fin 64) (fills : List HostFill) (s : State) : Res :=
  done (s.ceDesc engine list 0x08 1 fills)

/-- CONVERT (R347). -/
def execConvert (engine : Fin 16) (list : Fin 64) (chunks : Nat) (fills : List HostFill) (s : State) : Res :=
  done (s.ceDesc engine list 0x10 chunks fills)

/-- SILT_L_ENC (R354, R355). -/
def execSiltLEnc (engine : Fin 16) (list : Fin 64) (chunks : Nat) (fills : List HostFill) (s : State) : Res :=
  done (s.ceDesc engine list 0x18 chunks fills)

/-- SILT_L_DEC (R356). -/
def execSiltLDec (engine : Fin 16) (list : Fin 64) (chunks : Nat) (fills : List HostFill) (s : State) : Res :=
  done (s.ceDesc engine list 0x19 chunks fills)

/-- SILT_Z_ENC (R357). -/
def execSiltZEnc (engine : Fin 16) (list : Fin 64) (chunks : Nat) (fills : List HostFill) (s : State) : Res :=
  done (s.ceDesc engine list 0x1A chunks fills)

/-- SILT_Z_DEC (R357). -/
def execSiltZDec (engine : Fin 16) (list : Fin 64) (chunks : Nat) (fills : List HostFill) (s : State) : Res :=
  done (s.ceDesc engine list 0x1B chunks fills)

/-- SILT_Q_ENC (R360). -/
def execSiltQEnc (engine : Fin 16) (list : Fin 64) (chunks : Nat) (fills : List HostFill) (s : State) : Res :=
  done (s.ceDesc engine list 0x1C chunks fills)

/-- SILT_Q_DEC (R362). -/
def execSiltQDec (engine : Fin 16) (list : Fin 64) (chunks : Nat) (fills : List HostFill) (s : State) : Res :=
  done (s.ceDesc engine list 0x1D chunks fills)

/-! ### Acceptance, starts and completions -/

/-- The poison of each 32-byte unit of a run of core store. -/
def unitsOf (bs : List Byte) (bad : Nat → Bool) : Nat → Nat → List (List Byte × Bool)
  | 0, _ => []
  | n + 1, i => ((bs.drop (32 * i)).take 32, bad i) :: unitsOf bs bad n (i + 1)

/-- ENQ: the list is offered to its engine, and the sequencer holds the row until it is accepted; it reads nothing while
an issued write still covers its range (R185). -/
def execEnq (core : Fin 104) (s : State) : Res :=
  done (s.issue core fun a _ => match a with
    | .enq cls unit base len => some fun s =>
      let k := s.core core
      if k.writeHolds base (base + 32 * len - 1) then s
      else
        let r := core.val / 26
        let e := if cls = 0 then 4 * r + unit else if cls = 1 then 4 * r + 2 + unit else 16 + r
        s.setCore core { k with enq := some (e, base, len) }
    | _ => none)

/-- LIST_ACCEPT: the engine takes the list of a held ENQ, with the poison its units hold, once an entry and room for
its units are free; the ENQ has then issued (R337). -/
def execListAccept (core : Fin 104) (errs : List EccErr) (s : State) : Res :=
  match (s.core core).enq with
  | none => done s
  | some (e, base, n) =>
    when (!s.sump.fatal && !(s.core core).isolated && (s.core core).pwr == .run) (fun s =>
      match s.listRoom e ((s.core core).ctx.getD 0) n with
      | none => s
      | some i =>
        let s := s.storeErrs core errs
        let k := s.core core
        if k.isolated then s
        else
          let us := unitsOf (k.bytes base (32 * n)) (fun u => k.poisoned (base + 32 * u) 32) n 0
          let s := s.acceptList e i (k.ctx.getD 0) us k.lcore none
          ((s.modCore core fun k => { k with enq := none }).issued core).nextRow core) s

/-- The list that an engine starts next: the oldest whose context has no running list there and is not suspended. A
stopped list counts as accepted when its context runs again; one stopped by a translation fault also waits until the
fault has been recorded; a transmit path runs at most 2 lists of one partition (R338, R366, R514). -/
def State.nextStart (s : State) (e : Nat) : Option (Nat × CList) :=
  let mine := s.engLists e
  let live := mine.filter fun l => decide (l.2.st = .running ∨ l.2.st = .gated)
  let part (l : Nat × CList) : Nat := (s.context l.2.ctx).part
  let busy (q : Nat × CList) : Bool := live.any (fun l => decide (l.2.ctx = q.2.ctx))
    || (decide (16 ≤ e) && decide (2 ≤ (live.filter fun l => decide (part l = part q)).length))
  let fit := mine.filter fun l =>
    decide (l.2.st = .accepted ∨ (l.2.st = .stopped ∧ (s.context l.2.ctx).state = .running)) && !busy l
      && (s.context l.2.ctx).causes.isEmpty
      && s.xl.faults.all fun f => decide (f.ctx ≠ l.2.ctx)
  fit.foldl (fun b l => match b with
    | some c => if l.2.id < c.2.id then some l else b
    | none => some l) none

/-- Lists an engine may run at once (R338, R429). -/
def runLimit (e : Nat) : Nat := if e < 16 then 4 else 16

/-- LIST_START: an engine with a free place starts the oldest list it may. -/
def execListStart (engine : Fin 20) (s : State) : Res :=
  let running := ((s.engLists engine).filter fun l => decide (l.2.st = .running ∨ l.2.st = .gated)).length
  match s.nextStart engine with
  | some (k, l) =>
    when (decide (running < runLimit engine) && !s.sump.fatal) (fun s => s.setList k { l with st := .running, status := 0 }) s
  | none => done s

/-- Whether nothing a descriptor issued is still under way. -/
def State.descQuiet (s : State) (k : Nat) (l : CList) (desc : Nat) : Bool :=
  (l.pend.all fun p => decide (p.desc ≠ desc)) && (s.fabOpen k).all fun p => decide (p.1 ≠ desc)

/-- DESCRIPTOR_COMPLETE: every write of an issued descriptor is complete: its SIG is signalled, and the list may end
(R339, R348). -/
def execDescriptorComplete (engine : Fin 20) (list : Fin 64) (desc : Byte) (s : State) : Res :=
  let k := listKey engine list
  match s.list k with
  | none => done s
  | some l =>
    match l.fins.find? fun f => decide (f.desc = desc.toNat) with
    | none => done s
    | some f =>
      when (s.descQuiet k l f.desc && !s.sump.fatal) (fun s =>
        let again := decide (f.desc ∈ l.sigged)
        let s := s.setList k { l with fins := l.fins.erase f, sigged := if again then l.sigged else l.sigged ++ [f.desc] }
        let s := match f.sig with
          | some p => if again then s else s.pegDo p (.signal 1)
          | none => s
        let s := s.bumpIf (decide (engine.val < 16) && !again) (State.ceCnt engine 0)
        s.listSettle k) s

end Sys2Proof.Machine
end

