-- ==== Sys2Proof/Machine/Fabric.lean ====
section
/-!
DEFINITION. The fabric's receive path (R419, R422 to R428, R436) and transmit path (R429 to R433).
-/
namespace Sys2Proof.Machine

/-! ### Ingress: steps 2 to 8 of R422 -/

namespace State

/-- The packets that wait at a region's receive path. -/
def rxQueue (s : State) (r : Nat) : List (Option Nat × Pkt) := tget (fun _ => []) s.fab.rx r

def setRx (s : State) (r : Nat) (q : List (Option Nat × Pkt)) : State :=
  s.setFab { s.fab with rx := tset (fun _ => []) s.fab.rx r q }

/-- Whether the lode a packet came in on is one partner's, and the packet names another source. -/
def wrongPartner (s : State) (lode : Option Nat) (p : Pkt) : Bool :=
  match lode.bind fun l => (s.lode l).partner with
  | some (switch, id) => !switch && decide (p.srcId ≠ id)
  | none => false

/-- Steps 2 to 6: the state after a drop, or none when the packet passes. A drop counts toward DROPS of an OPEN
connection. -/
def rxFilter (s : State) (r : Nat) (lode : Option Nat) (p : Pkt) : Option State :=
  let c := p.dstConn
  if !s.devOk || decide (p.dstId ≠ s.devId) || decide (p.dstEp ≠ s.devEp) || s.wrongPartner lode p then
    some (s.bump (Reg.FAB_MISROUTE_CNT r))
  else if p.crc ≠ p.sum then some (s.bump (Reg.FAB_CRC_CNT r))
  else if (s.conn c).state ≠ .opened ∨ s.peerId c ≠ p.srcId ∨ s.connGen c ≠ p.cgen then
    let s := s.bump (Reg.FAB_NOCONN_CNT r)
    some (if (s.conn c).state = .opened then s.connDrop c else s)
  else if p.srcEp ≠ s.peerEp c then
    let s := (s.bump (Reg.FAB_STALE_CNT r)).setCfg (Reg.FAB_STALE r) (BitVec.ofNat 32 (2 ^ 31 + p.srcId * 256 + p.srcEp))
    some ((s.raise (srcRegion r 13) 0x402 none 6 c).connDrop c)
  else none

/-- Steps 7 and 8 for a sequenced packet: an ACK of the last PSN taken answers one that is out of order. -/
def rxOrder (s : State) (r : Nat) (p : Pkt) : Option State :=
  let c := p.dstConn
  let k := s.conn c
  let d := psnFrom k.rx p.psn
  if d ≠ 0 then
    let s := s.bumpIf (decide (2 ^ 23 ≤ d)) (Reg.FAB_DUP_CNT r)
    some ((s.queueAck c { psn := psnFrom 1 k.rx }).connDrop c)
  else if s.creditInit c ≤ k.spent then some ((s.bump (Reg.FAB_CREDIT_VIOL_CNT r)).connDrop c)
  else none

/-- A sequenced packet takes its PSN and is acknowledged with its STATUS and flags (R423, R424). -/
def rxTake (s : State) (r : Nat) (p : Pkt) (status : Nat) (flags : Flags) : State :=
  let c := p.dstConn
  let k := s.conn c
  let sv := decide (status ≠ 0) || decide (flags ≠ 0)
  let s := s.setConn c { k with rx := (k.rx + 1) % 2 ^ 24, spent := k.spent + 1 }
  let s := s.trcFab c 8 p.psn p.ty status
  let s := if status = 0 then s.bump (Reg.FAB_RX_PKT_CNT r)
    else (s.bump (Reg.FAB_REFUSE_CNT r)).bumpIf (decide (status = 0x17)) (Reg.FAB_BAD_CNT r)
  let s := s.queueAck c
    { psn := p.psn, status := status, spsn := if sv then p.psn else 0, flags := flags.toNat, credit := 1, svalid := sv }
  if status = 0 then s else s.connDrop c

end State

/-! ### Step 9: reserved fields and the rules of R418 -/

/-- Bytes of data in a WRITE or READ_RSP. -/
def Pkt.data (p : Pkt) : List Byte :=
  p.payload.take (16 * p.len - (if p.ty = 1 then p.o 44 41 else p.o 43 40))

/-- Bytes of a Silt-Q block, and the blocks a REDUCE_Q holds. -/
def qBytes (fmt : Nat) : Nat := if fmt = 6 then 17 else 33
def Pkt.blocks (p : Pkt) : Nat := 16 * p.len / qBytes (p.o 44 41)

def Pkt.malformed (p : Pkt) : Bool :=
  decide (p.rsv ≠ 0) || (p.rsig && decide (p.ty ≠ 1 ∧ p.ty ≠ 4 ∧ p.ty ≠ 5))
    || (match p.ty with
      | 1 => decide (p.o 40 32 ≠ 0)
      | 2 => decide (p.o 35 32 ≠ 0)
      | 3 => decide (p.o 127 96 ≠ 0) || decide (p.o 39 32 ≠ 0)
      | 4 => decide (p.o 34 32 ≠ 0) || decide (p.o 95 60 % 128 ≠ 0)
      | 5 => decide (p.o 32 32 ≠ 0) || decide (p.o 95 60 % 256 ≠ 0) || decide (p.o 44 41 < 6 ∨ 8 < p.o 44 41)
        || (p.payload.drop (p.blocks * qBytes (p.o 44 41))).any (· ≠ 0#8)
      | 6 => decide (p.o 96 32 ≠ 0) || decide (p.o 127 112 = 0)
      | _ => decide (p.o 49 32 ≠ 0) || decide (p.psn ≠ 0))

/-! ### Step 10 and the effect -/

/-- What a receive path makes of a packet: it waits for memory, refuses it with a STATUS, or has applied it. -/
inductive Rx where
  | wait
  | refused (status : Nat)
  | applied (flags : Flags)
  deriving DecidableEq, Repr

namespace State

/-- The lookup of a handle goes through the region's handle cache of 256 entries (R425); which entry a full one gives up
is free. -/
def handleLook (s : State) (r i : Nat) : State :=
  let l := tget (fun _ => []) s.fab.hcache r
  if i ∈ l then s
  else
    let full := decide (256 ≤ l.length)
    let kept := if full then l.eraseIdx (s.draw 256) else l
    let s := if full then s.drawn else s
    (s.bump (Reg.FAB_HCACHE_MISS_CNT r)).setFab { s.fab with hcache := tset (fun _ => []) s.fab.hcache r (kept ++ [i]) }

/-- The handle of a packet and its address, or the STATUS that refuses it: HANDLE, PERM, BOUND (R424 to R426). -/
def handleFor (s : State) (p : Pkt) (perm : Handle → Bool) (n : Nat) : Except Nat (Handle × Nat) :=
  let off := p.o 95 60
  match tfind s.fab.handles (p.o 111 96) with
  | none => .error 0x12
  | some h =>
    if h.key ≠ p.o 127 112 ∨ h.part ≠ s.connPart p.dstConn then .error 0x12
    else if !perm h then .error 0x13
    else if h.length < off + n then .error 0x14
    else .ok (h, h.base + off)

/-- The receive path as a requester: the handle's context, charged to the connection's partition (R423). -/
def rxWho (s : State) (r c : Nat) (x : Nat) : Who := ⟨.fabric (Fin.ofNat 4 r), some x, s.connPart c, none, .bittern⟩

/-- The targets of a packet's range: XLAT when one of its pages faults, TARGET outside what the packet may reach. -/
def rxTargets (s : State) (w : Who) (x acc a n : Nat) (ok : Phys → Bool) :
    Except Nat (List (Phys × Nat × Nat)) × State :=
  let o := s.xlateAll w x acc 0 (linesOf a n)
  match o.1 with
  | .error (.fault f) => (.error 0x15, o.2.xfault f)
  | .error .wait => (.error 0x15, o.2)
  | .ok ps => (if ps.all fun p => ok p.1 then .ok ps else .error 0x19, o.2)

/-- Whether a line holds poison, wherever its current data is. -/
def linePoison (s : State) (line : Nat) : Bool :=
  match s.mHolder line with
  | some c => ((s.core c).ccLine line).any fun l => decide (l.poison ≠ 0)
  | none =>
    match s.sLine line with
    | some l => decide (l.poison ≠ 0)
    | none => tget (fun _ => false) s.hbmBad (2 * line) || tget (fun _ => false) s.hbmBad (2 * line + 1)

/-- A signal of a partition-relative peg that came over the fabric (R213, R215). -/
def pegIn (s : State) (r part j : Nat) : State :=
  match s.pegOfPart part j with
  | some d => s.pegDo d (.signal 1)
  | none => (s.bump (Reg.PEG_RMT_DROP_CNT r)).raise (srcRegion r 12) 0x122 none 6 j

def notHost : Phys → Bool
  | .dpa _ => true
  | .hpa _ => false

def inHbm : Phys → Bool
  | .dpa a => populated a
  | .hpa _ => false

/-- RSIG follows the packet's writes (R423). -/
def rsigOf (s : State) (r : Nat) (p : Pkt) : State :=
  if p.rsig then s.pegIn r (s.connPart p.dstConn) (p.o 59 45) else s

/-- WRITE: the payload goes to the handle's range. -/
def rxWrite (s : State) (r : Nat) (p : Pkt) : Rx × State :=
  let bs := p.data
  let s := s.handleLook r (p.o 111 96)
  match s.handleFor p (·.wr) bs.length with
  | .error e => (.refused e, s)
  | .ok (h, a) =>
    let w := s.rxWho r p.dstConn h.ctx
    let o := s.rxTargets w h.ctx 1 a bs.length notHost
    match o.1 with
    | .error e => (.refused e, o.2)
    | .ok ps =>
      if !o.2.allReady w true ps then (.wait, s)
      else (.applied 0, (o.2.writeRun w 0 bs (bs.map fun _ => false) ps).rsigOf r p)

/-- READ_RSP packets of an answer: at most 576 bytes each, in order (R428). -/
def rspPkts (s : State) (c tag : Nat) : Nat → Nat → List Byte → List Pkt
  | 0, _, _ => []
  | n + 1, off, bs =>
    if bs.isEmpty then []
    else
      let b := bs.take 576
      s.mkPkt c 3 (off * 2 ^ 28 + tag * 2 ^ 12 + padFor b.length * 2 ^ 8) false (padded b) :: rspPkts s c tag n (off + 576) (bs.drop 576)

/-- READ_REQ: the range is read and comes back on the same connection. -/
def rxRead (s : State) (r : Nat) (p : Pkt) : Rx × State :=
  let n := (p.o 43 36 + 1) * 128
  let c := p.dstConn
  let s := s.handleLook r (p.o 111 96)
  match s.handleFor p (·.rd) n with
  | .error e => (.refused e, s)
  | .ok (h, a) =>
    let w := s.rxWho r c h.ctx
    let o := s.rxTargets w h.ctx 0 a n notHost
    match o.1 with
    | .error e => (.refused e, o.2)
    | .ok ps =>
      if !o.2.allReady w false ps then (.wait, s)
      else
        let d := o.2.readRun w [] 0 ps
        if d.1.poison then (.refused 0x16, d.2)
        else (.applied 0, (d.2.rspPkts c (p.o 59 44) 64 0 d.1.data).foldl (fun s q => s.queuePkt c { pkt := q }) d.2)

/-- READ_RSP: the bytes go where the request's descriptor wants them. One whose OFFSET is not the next of its request
breaks the rules of its type (DEDUCED from R428). -/
def rxRsp (s : State) (r : Nat) (p : Pkt) : Rx × State :=
  let key := 1024 * r + p.o 59 44
  match if p.o 59 44 < 1024 then tfind s.fab.tags key else none with
  | none => (.refused 0x19, s)
  | some t =>
    let bs := p.data
    let total := (t.size + 127) / 128 * 128
    if t.conn ≠ p.dstConn then (.refused 0x19, s)
    else if p.o 95 60 ≠ t.got ∨ total < t.got + bs.length then (.refused 0x17, s)
    else
      let mine := bs.take (t.size - t.got)
      let w := s.rxWho r p.dstConn t.ctx
      let ps := (linesOf (t.dpa + t.got) mine.length).map fun q => (Phys.dpa q.1, q.2, 0)
      if !s.allReady w true ps then (.wait, s)
      else
        let s := s.writeRun w 0 mine (mine.map fun _ => false) ps
        let got := t.got + bs.length
        let tags := if total ≤ got then tdel key s.fab.tags else tput key { t with got := got } s.fab.tags
        (.applied 0, (s.setFab { s.fab with tags := tags }).listSettle t.list)

/-- Add lines of elements by RADD64 (R247): the flags of them all. -/
def addLines (s : State) (cls : Nat) : List (Phys × Nat × Nat) → List Byte → Flags → Flags × State
  | (.dpa a, _, adv) :: ps, bs, f =>
    let o := (s.biasAsk (a / 128) true).ncAtomic (a / 128) (atomHint adv) cls .radd64 8 0 0 (bs.take 128) none
    addLines o.2 cls ps (bs.drop 128) (f ||| o.1.2.2)
  | _, _, f => (f, s)

/-- The range of a reduction: its handle, its lines in HBM, none of them poisoned, and SHAPE between BOUND and XLAT. -/
def rxReduce (s : State) (r : Nat) (p : Pkt) (n : Nat) (shape : Handle → Bool) (elems : Handle → List Byte × Flags) : Rx × State :=
  let s := s.handleLook r (p.o 111 96)
  match s.handleFor p (·.red) n with
  | .error e => (.refused e, s)
  | .ok (h, a) =>
    if !shape h then (.refused 0x18, s)
    else
      let w := s.rxWho r p.dstConn h.ctx
      let o := s.rxTargets w h.ctx 2 a n inHbm
      match o.1 with
      | .error e => (.refused e, o.2)
      | .ok ps =>
        if !o.2.allReady w true ps then (.wait, s)
        else if ps.any fun q => match q.1 with
            | .dpa a => o.2.linePoison (a / 128)
            | .hpa _ => false then (.refused 0x16, o.2)
        else
          let e := elems h
          let d := o.2.addLines w.cls ps e.1 e.2
          (.applied d.1, d.2.rsigOf r p)

/-- REDUCE: sixteen elements a line, whose E is the handle's EXP (R436). -/
def rxRed (s : State) (r : Nat) (p : Pkt) : Rx × State :=
  s.rxReduce r p (16 * p.len) (fun h => decide (h.exp = p.o 44 35)) fun _ => (p.payload, 0)

/-- The elements of the blocks of a REDUCE_Q, entered at an exponent and headroom (R436). -/
def qEnter (fmt : Elem) (bias E : Int) (H n : Nat) (bs : List Byte) : List Byte × Flags :=
  let size := 1 + 4 * fmt.bits
  let es := (List.range n).flatMap fun i => (siltQVals fmt bias 32 ((bs.drop (size * i)).take size)).map (fixEnter E H)
  (es.flatMap fun e => leBytes 8 e.1, es.foldl (fun f e => f ||| e.2) 0)

/-- Elements that a NaN block creates (R424, R436). -/
def qNans (fmt : Nat) (n : Nat) (bs : List Byte) : Flags :=
  fIf ((List.range n).any fun i => decide ((bs.drop (qBytes fmt * i)).head? = some 0x80#8)) fNAN_CREATED

/-- REDUCE_Q (R436). -/
def rxRedQ (s : State) (r : Nat) (p : Pkt) : Rx × State :=
  let f := ((Fmt.ofCode (p.o 44 41)).map (·.elem)).getD .f4
  s.rxReduce r p (256 * p.blocks) (fun _ => true) fun h =>
    let e := qEnter f (signed 8 (p.o 40 33)) (signed 10 h.exp) h.h p.blocks p.payload
    (e.1, e.2 ||| qNans (p.o 44 41) p.blocks p.payload)

/-- PEG_SIG (R216, R423). -/
def rxSig (s : State) (r : Nat) (p : Pkt) : Rx × State :=
  let part := s.connPart p.dstConn
  (.applied 0, match s.pegOfPart part (p.o 111 97) with
    | some d => s.pegDo d (.signal (p.o 127 112))
    | none => s.pegIn r part (p.o 111 97))

/-- A sequenced packet at the head of a region's receive path goes through R422. -/
def rxPacket (s : State) (r ty : Nat) (apply : State → Pkt → Rx × State) : State :=
  match s.rxQueue r with
  | [] => s
  | (lode, p) :: q =>
    if p.ty ≠ ty ∨ s.sump.fatal then s
    else
      let t := s.setRx r q
      match t.rxFilter r lode p with
      | some d => d
      | none =>
        match t.rxOrder r p with
        | some d => d
        | none =>
          if p.malformed then t.rxTake r p 0x17 0
          else
            let o := apply t p
            match o.1 with
            | .wait => s
            | .refused e => o.2.rxTake r p e 0
            | .applied f => o.2.rxTake r p 0 f

end State

/-- WRITE (R423). -/
def execWrite (region : Fin 4) (s : State) : Res := done (s.rxPacket region 1 fun s p => s.rxWrite region p)

/-- READ_REQ (R428). -/
def execReadReq (region : Fin 4) (s : State) : Res := done (s.rxPacket region 2 fun s p => s.rxRead region p)

/-- READ_RSP (R428). -/
def execReadRsp (region : Fin 4) (s : State) : Res := done (s.rxPacket region 3 fun s p => s.rxRsp region p)

/-- REDUCE (R436). -/
def execReduce (region : Fin 4) (s : State) : Res := done (s.rxPacket region 4 fun s p => s.rxRed region p)

/-- REDUCE_Q (R436). -/
def execReduceQ (region : Fin 4) (s : State) : Res := done (s.rxPacket region 5 fun s p => s.rxRedQ region p)

/-- PEG_SIG (R216). -/
def execPegSig (region : Fin 4) (s : State) : Res := done (s.rxPacket region 6 fun s p => s.rxSig region p)

/-! ### ACK (R419) -/

namespace State

/-- Whether an ACK's fields satisfy R419: a known STATUS, no packet that was not sent, no credit beyond what was
granted. -/
def ackOk (s : State) (p : Pkt) : Bool :=
  let k := s.conn p.dstConn
  let d := psnFrom k.unack (p.o 127 104)
  let st := p.o 103 96
  !p.malformed && decide (st = 0 ∨ (0x12 ≤ st ∧ st ≤ 0x19)) && (decide (2 ^ 23 ≤ d) || decide (d < psnFrom k.unack k.tx))
    && decide (k.credit + p.o 61 51 ≤ s.creditInit p.dstConn)

/-- What a named packet's STATUS and FLAGS bring to its list (R423, R431). -/
def ackStatus (s : State) (c : Nat) (h : HeldPkt) (status flags : Nat) : State :=
  match h.list with
  | none => s
  | some k =>
    let s := match s.list k with
      | some l => s.setList k { l with flags := l.flags ||| BitVec.ofNat 10 flags }
      | none => s
    if status = 0 then s
    else
      let s := if h.pkt.ty = 2 then s.setFab { s.fab with tags := tdel (1024 * (c / 1024) + h.pkt.o 59 44) s.fab.tags } else s
      s.listFail k status c

/-- An ACK releases what it covers, returns credit, and tells lists of their packets. -/
def ackTake (s : State) (p : Pkt) : State :=
  let c := p.dstConn
  let k := s.conn c
  let d := psnFrom k.unack (p.o 127 104)
  let covers (h : HeldPkt) : Bool := decide (d < 2 ^ 23) && decide (psnFrom k.unack h.pkt.psn ≤ d)
  let gone := k.held.filter covers
  let named := if bitOf p.op 18 then k.held.find? fun h => decide (h.pkt.psn = p.o 95 72) else none
  let moved := decide (d < 2 ^ 23)
  let s := s.setConn c { k with
    unack := if moved then (p.o 127 104 + 1) % 2 ^ 24 else k.unack, credit := k.credit + p.o 61 51
    timeouts := if moved then 0 else k.timeouts, held := k.held.filter (fun h => !covers h)
    again := k.again.filter fun n => !(moved && decide (psnFrom k.unack n ≤ d)) }
  let s := gone.foldl (fun s h => match h.list with
    | some i => match s.list i with
      | some l => s.setList i { l with done := l.done + 1 }
      | none => s
    | none => s) s
  let s := match named with
    | some h => s.ackStatus c h (p.o 103 96) (p.o 71 62)
    | none => s
  let s := ((gone.filterMap (·.list)).eraseDups).foldl (fun s i => s.listSettle i) s
  s.pumpAll c

end State

/-- ACK: processed by R419; one that does not satisfy it is dropped and counted. -/
def execAck (region : Fin 4) (s : State) : Res :=
  match s.rxQueue region with
  | [] => done s
  | (lode, p) :: q =>
    when (decide (p.ty = 7) && !s.sump.fatal) (fun s =>
      let s := s.setRx region q
      match s.rxFilter region lode p with
      | some d => d
      | none => if s.ackOk p then s.ackTake p else (s.bump (Reg.FAB_BAD_CNT region)).connDrop p.dstConn) s

/-! ### Transmit descriptors (R429 to R433) -/

/-- The conversion format of DFMT and SFMT of a fabric descriptor. -/
def Dsc.fsfmt (d : Dsc) : Option Fmt := Fmt.ofCode (d.f 10 19 16)
def Dsc.fdfmt (d : Dsc) : Option Fmt := Fmt.ofCode (d.f 10 23 20)

def Dsc.offset (d : Dsc) : Nat := d.w 5 + d.f 6 3 0 * 2 ^ 32
def Dsc.connNo (d : Dsc) : Nat := d.f 1 27 16

/-- The bits of words W1 to W14 that a fabric descriptor may set (R430, R431). -/
def fabMasks (d : Dsc) : List Nat :=
  let g := gateMask d
  let any := 0xFFFFFFFF
  let cn := 0x0FFF0000
  let rs := cn + 0x10000000
  let rp := if bitOf (d.w 1) 28 then 0x7FFF0000 else 0
  match d.ty with
  | 0x20 => [g + rs, any, 0xFFFF, any, any, 0xF, any, 0xFF, rp]
  | 0x21 => [g + cn, any, 0xFFFF, any, any, 0xF, any, 0xFF]
  | 0x22 => [g + rs, any, 0xFFFF, any, any, 0xF, any, 0xFF, rp, 0xFFBFF, if biasFmt d.fsfmt then 0xFF else 0]
  | 0x23 => [g + rs, any, 0xFFFF, any, any, 0xF, any, 0xFF, rp, 0xFF03FF, 0xFF00, 0, any, 0xFFFF]
  | 0x24 => [g + cn, 0, 0, 0, 0, 0, 0, 0, 0x7FFFFFFF]
  | 0x25 =>
    [g + 0x20000000, any, 0xFFFF, 0, 0, 0, any, 0xFF, 0, 0xFF003FF, if biasFmt d.fdfmt then 0xFF00 else 0,
      if d.f 10 25 24 = 1 then any else 0, any, 0xFFFF]
  | _ => [g]

def fabReserved (d : Dsc) : Bool :=
  outside (d.w 0) (w0Mask d false) || (!d.gateOn && decide (d.f 1 14 0 ≠ 0))
    || (((List.range 15).zip (fabMasks d ++ List.replicate 15 0)).any fun p =>
      decide (p.1 + 1 < 8 * d.n) && outside (d.w (p.1 + 1)) p.2)
    || (decide (d.ty = 0x22) && decide (18 < d.f 10 15 11)) || (decide (d.ty = 0x24) && decide (d.f 9 15 0 = 0))

def fabBadFmt (d : Dsc) : Bool :=
  match d.ty with
  | 0x22 => decide (5 < d.f 10 19 16)
  | 0x23 => decide (2 < d.f 10 19 16) || decide (d.f 10 23 20 < 6 ∨ 8 < d.f 10 23 20)
  | 0x25 => decide (5 < d.f 10 23 20) || !ctlValid (d.f 10 27 24)
  | _ => false

def fabBadAlign (d : Dsc) : Bool :=
  match d.ty with
  | 0x22 => decide (d.offset % 128 ≠ 0)
  | 0x23 => decide (d.offset % 256 ≠ 0) || decide (d.addr 13 % 8 ≠ 0)
  | 0x25 => decide (d.addr 2 % 8 ≠ 0) || decide (d.addr 13 % 8 ≠ 0)
  | _ => false

/-- The least scale exponent of FREDUCE_Q (R360). -/
def fabEmin (d : Dsc) : Int := signed 10 (d.f 10 9 0) - signed 8 (d.f 11 15 8) + siltQG ((d.fdfmt.map (·.elem)).getD .f4)

def fabBadLimit (d : Dsc) : Bool :=
  d.cut || (decide (d.ty ∈ [0x20, 0x21, 0x22, 0x23, 0x25]) && decide (d.count 7 = 0)) || (decide (d.ty = 0x23) && decide (31 < fabEmin d))

/-- The local operands of a descriptor: first byte, length, whether it is read, whether it is written (R432). -/
def fabOperands (d : Dsc) : List (Nat × Nat × Bool × Bool) :=
  let n := d.count 7
  let plane (f : Option Fmt) : Nat := (f.map (·.rowBytes n)).getD 0
  match d.ty with
  | 0x20 => [(d.addr 2, n, true, false)]
  | 0x21 => [(d.addr 2, n, false, true)]
  | 0x22 => [(d.addr 2, plane d.fsfmt, true, false)]
  | 0x23 => [(d.addr 2, plane d.fsfmt, true, false), (d.addr 13, 8 * n, false, true)]
  | 0x25 => [(d.addr 2, 8 * n, true, bitOf (d.w 1) 29), (d.addr 13, plane d.fdfmt, false, true)]
  | _ => []

namespace State

/-- The DPA of a local operand that lies wholly within one FLAT_DPA segment that grants its access (R432). -/
def flatAt (s : State) (x : Nat) (o : Nat × Nat × Bool × Bool) : Option Nat :=
  let g := s.seg x (o.1 / 2 ^ 44 % 16)
  let off := o.1 % 2 ^ 44
  if g.valid ∧ g.type = 0 ∧ off + o.2.1 ≤ g.bytes ∧ (g.rd ∨ !o.2.2.1) ∧ (g.wr ∨ !o.2.2.2) then some (g.base + off) else none

/-- NO_CONN: not OPEN, of another region, or of another partition (R433). -/
def connUsable (s : State) (r x c : Nat) : Bool :=
  decide ((s.conn c).state = .opened) && (s.conn c).close.isNone && decide (c / 1024 = r) && decide (s.connPart c = (s.context x).part)

/-- The status of the rule that a fabric descriptor breaks with the lowest code, or 0. -/
def fabCheck (s : State) (r : Nat) (l : CList) (d : Dsc) : Nat :=
  if d.poison then 0xA
  else if !decide (d.ty ∈ [0, 1, 0x20, 0x21, 0x22, 0x23, 0x24, 0x25]) then 1
  else if fabReserved d then 2
  else if fabBadFmt d then 3
  else if s.pegBad l.ctx d then 4
  else if fabBadAlign d then 5
  else if fabBadLimit d then 7
  else if (fabOperands d).any fun o => (s.flatAt l.ctx o).isNone then 0xE
  else if d.ty ∈ [0x20, 0x21, 0x22, 0x23, 0x24] ∧ !s.connUsable r l.ctx d.connNo then 0x10
  else 0

/-- The local operands' DPAs, as long as every one is still granted. -/
def fabBases (s : State) (x : Nat) (d : Dsc) : Option (Nat × Nat) :=
  match (fabOperands d).map fun o => s.flatAt x o with
  | [] => some (0, 0)
  | [some a] => some (a, 0)
  | [some a, some b] => some (a, b)
  | _ => none

/-- Pieces of a DPA run. -/
def dpaRun (a n : Nat) : List (Phys × Nat × Nat) := (linesOf a n).map fun q => (Phys.dpa q.1, q.2, 0)

/-- Read local bytes: all or nothing; poison aborts. -/
def fabRead (s : State) (w : Who) (hint a n : Nat) : Chunk (List Byte) × State :=
  let ps := dpaRun a n
  if s.allReady w false ps then
    let d := s.readRun w [] hint ps
    if d.1.poison then (.stop 0xA, d.2) else (.ok d.1.data, d.2)
  else (.wait, s)

/-- Write local runs: all or nothing. -/
def fabWrite (s : State) (w : Who) (hint : Nat) (runs : List (Nat × List Byte)) : Chunk Unit × State :=
  if runs.all fun t => s.allReady w true (dpaRun t.1 t.2.length) then
    (.ok (), runs.foldl (fun s t => s.writeRun w hint t.2 (t.2.map fun _ => false) (dpaRun t.1 t.2.length)) s)
  else (.wait, s)

end State

/-- What a chunk of a fabric descriptor comes to: where it has come to, its flags, and its packet. -/
structure TxOk where
  off : Nat
  rng : Nat := 0
  flags : Flags := 0
  pkt : Option Pkt := none
  tag : Option (Nat × RdTag) := none
  deriving DecidableEq, Repr

/-- What a chunk of a fabric descriptor needs to know: its list's key, list, descriptor, requester, and operands. -/
structure TxEnv where
  k : Nat
  l : CList
  d : Dsc
  w : Who
  a : Nat
  b : Nat
  deriving DecidableEq, Repr

namespace State

/-- The last packet of a descriptor carries RSIG where it asks for one. -/
def txLast (d : Dsc) (off : Nat) : Bool := bitOf (d.w 1) 28 && decide (d.count 7 ≤ off)

/-- FSEND: one WRITE of at most 576 bytes. -/
def sendChunk (s : State) (v : TxEnv) : Chunk TxOk × State :=
  let d := v.d
  let n := min 576 (d.count 7 - v.l.off)
  Chunk.bind (s.fabRead v.w d.shint (v.a + v.l.off) n) fun bs s =>
    let r := txLast d (v.l.off + n)
    let op := opHandle (d.w 4) (d.offset + v.l.off) ((if r then d.f 9 30 16 * 2 ^ 13 else 0) + padFor n * 2 ^ 9)
    (.ok { off := v.l.off + n, pkt := some (s.mkPkt d.connNo 1 op r (padded bs)) }, s)

/-- A free READ_REQ tag of a region (R428). -/
def freeTag (s : State) (r : Nat) : Option Nat :=
  (List.range 1024).find? fun t => (tfind s.fab.tags (1024 * r + t)).isNone

/-- FGET: one READ_REQ of at most 32 KiB. -/
def getChunk (s : State) (v : TxEnv) : Chunk TxOk × State :=
  let d := v.d
  let n := min 32768 (d.count 7 - v.l.off)
  let r := v.k / 64 - 16
  match s.freeTag r with
  | none => (.wait, s)
  | some t =>
    let op := opHandle (d.w 4) (d.offset + v.l.off) (t * 2 ^ 12 + ((n + 127) / 128 - 1) * 2 ^ 4)
    let tag : RdTag :=
      { list := v.k, desc := v.l.desc, spos := v.l.off, ctx := v.l.ctx, conn := d.connNo, dpa := v.a + v.l.off, size := n }
    (.ok { off := v.l.off + n, pkt := some (s.mkPkt d.connNo 2 op false []), tag := some (1024 * r + t, tag) }, s)

/-- FREDUCE: up to 64 elements entered at E and H, the last line padded with zeros. -/
def reduceChunk (s : State) (v : TxEnv) : Chunk TxOk × State :=
  let d := v.d
  match d.fsfmt with
  | none => (.stop 3, s)
  | some f =>
    let n := min 64 (d.count 7 - v.l.off)
    Chunk.bind (s.fabRead v.w d.shint (v.a + v.l.off * f.elem.bits / 8) (f.rowBytes n)) fun bs s =>
      let es := (decodeRow f (signed 8 (d.f 11 7 0)) n bs []).map (fixEnter (signed 10 (d.f 10 9 0)) (d.f 10 15 11))
      let pay := es.flatMap fun e => leBytes 8 e.1
      let pay := pay ++ List.replicate ((n + 15) / 16 * 128 - 8 * n) 0#8
      let r := txLast d (v.l.off + n)
      let op := opHandle (d.w 4) (d.offset + 8 * v.l.off) ((if r then d.f 9 30 16 * 2 ^ 13 else 0) + d.f 10 9 0 * 2 ^ 3)
      (.ok { off := v.l.off + n, flags := es.foldl (fun g e => g ||| e.2) 0, pkt := some (s.mkPkt d.connNo 4 op r pay) }, s)

/-- FREDUCE_Q: as many whole blocks as 36 slots hold, each encoded with its residuals. -/
def reduceQChunk (s : State) (v : TxEnv) : Chunk TxOk × State :=
  let d := v.d
  match d.fsfmt, d.fdfmt with
  | some f, some g =>
    let n := min (32 * (576 / qBytes (d.f 10 23 20))) (d.count 7 - v.l.off)
    Chunk.bind (s.fabRead v.w d.shint (v.a + v.l.off * f.elem.bits / 8) (f.rowBytes n)) fun es s =>
      Chunk.bind (s.fabRead v.w d.shint (v.b + 8 * v.l.off) (8 * n)) fun rs s =>
        let vals := chunk32 ((n + 31) / 32) (decodeRow f 0 n es [])
        let res := chunk32 ((n + 31) / 32) (elemsOf 8 n rs)
        let bl := (vals.zip res).map fun q => siltQBlock g.elem (signed 10 (d.f 10 9 0)) (signed 8 (d.f 11 15 8)) q.1 q.2
        Chunk.bind (s.fabWrite v.w d.dhint [(v.b + 8 * v.l.off, (bl.flatMap (·.residuals)).flatMap (leBytes 8))]) fun _ s =>
          let r := txLast d (v.l.off + n)
          let op := opHandle (d.w 4) (d.offset + 8 * v.l.off)
            ((if r then d.f 9 30 16 * 2 ^ 13 else 0) + d.f 10 23 20 * 2 ^ 9 + d.f 11 15 8 * 2)
          (.ok { off := v.l.off + n, flags := bl.foldl (fun g b => g ||| b.flags) 0,
                 pkt := some (s.mkPkt d.connNo 5 op r (padded (bl.flatMap (·.bytes)))) }, s)
  | _, _ => (.stop 3, s)

/-- FSIG: one PEG_SIG. -/
def sigChunk (s : State) (v : TxEnv) : Chunk TxOk × State :=
  let d := v.d
  (.ok { off := 1, pkt := some (s.mkPkt d.connNo 6 (d.f 9 15 0 * 2 ^ 80 + d.f 9 30 16 * 2 ^ 65) false []) }, s)

/-- FFINISH: 32 elements leave the reduction; CLR writes zero elements back. -/
def finishChunk (s : State) (v : TxEnv) : Chunk TxOk × State :=
  let d := v.d
  match d.fdfmt with
  | none => (.stop 3, s)
  | some g =>
    let n := min 32 (d.count 7 - v.l.off)
    let rng := if v.l.off = 0 then lfsrSeed (d.w 12) else v.l.rng
    Chunk.bind (s.fabRead v.w d.shint (v.a + 8 * v.l.off) (8 * n)) fun qs s =>
      let vs := (elemsOf 8 n qs).map (fixExit (signed 10 (d.f 10 9 0)))
      let o := encodeRow g (Ctl.ofCode (d.f 10 27 24)) (signed 8 (d.f 11 15 8)) rng vs
      let out := packElems g.elem (o.elems.map (·.code))
      let clr := if bitOf (d.w 1) 29 then [(v.a + 8 * v.l.off, List.replicate (8 * n) 0#8)] else []
      Chunk.bind (s.fabWrite v.w d.dhint ((v.b + v.l.off * g.elem.bits / 8, out) :: clr)) fun _ s =>
        (.ok { off := v.l.off + n, rng := o.rng, flags := orFlags o.elems }, s)

def fabChunk (s : State) (v : TxEnv) : Chunk TxOk × State :=
  match v.d.ty with
  | 0x20 => s.sendChunk v
  | 0x21 => s.getChunk v
  | 0x22 => s.reduceChunk v
  | 0x23 => s.reduceQChunk v
  | 0x24 => s.sigChunk v
  | _ => s.finishChunk v

end State

/-- Where a fabric descriptor's last packet or chunk ends. -/
def Dsc.fabExtent (d : Dsc) : Nat := if d.ty < 2 then 0 else if d.ty = 0x24 then 1 else d.count 7

namespace State

/-- Form up to `n` packets of the descriptor that a running list has reached. A packet is formed while its connection
has a credit for it. -/
def fabRun (k : Nat) : Nat → State → State
  | 0, s => s
  | n + 1, s =>
    match s.list k with
    | none => s
    | some l =>
      let d := descAt true l.units l.unit
      let c := d.connNo
      let loc := decide (d.ty = 0x25)
      if l.st ≠ .running ∨ !l.open_ ∨ d.fabExtent ≤ l.off then s
      else if l.hold ∧ !(s.fabOpen k).isEmpty then s
      else if !loc ∧ (s.conn c).credit ≤ (s.conn c).ready.length then s
      else
        match s.fabBases l.ctx d with
        | none => s.listAbort k 0xE
        | some (a, b) =>
          let cls := if loc then s.ctxCls l.ctx else s.connPart c
          let w : Who := ⟨.fabric (Fin.ofNat 4 (k / 64 - 16)), some l.ctx, cls, none, .bittern⟩
          let o := s.fabChunk ⟨k, l, d, w, a, b⟩
          match o.1 with
          | .wait => s
          | .fault f => o.2.xfault f
          | .stop st => o.2.listAbort k st
          | .ok r =>
            let l' := { l with hold := false, off := r.off, rng := r.rng, flags := l.flags ||| r.flags, issued := l.issued + 1,
                               done := if loc then l.done + 1 else l.done }
            let s := match r.tag with
              | some (i, t) => o.2.setFab { o.2.fab with tags := tput i t o.2.fab.tags }
              | none => o.2
            let s := if d.fabExtent ≤ r.off then s.descIssued k l' d else s.setList k l'
            let s := match r.pkt with
              | some p => s.queuePkt c { pkt := p, list := some k, desc := l.desc, spos := d.srcPos l.off l.enc }
              | none => s
            if d.fabExtent ≤ r.off then s else fabRun k n s

/-- A descriptor command at a list of a transmit path: where the descriptor reached has its TYPE, it is opened or its
packets go on. A TYPE that no row names is met by the FSEND command. -/
def fabDesc (s : State) (r list ty chunks : Nat) : State :=
  let k := listKey (16 + r) list
  match s.list k with
  | none => s
  | some l =>
    let d := descAt true l.units l.unit
    let known := decide (d.ty ∈ [0, 1, 0x20, 0x21, 0x22, 0x23, 0x24, 0x25])
    if l.st ≠ .running ∨ l.units.length ≤ l.unit ∨ s.sump.fatal ∨ !(d.ty = ty ∨ (!known ∧ ty = 0x20)) then s
    else if !l.open_ then s.descOpen k l d (s.fabCheck r l d)
    else if d.fabExtent = 0 then s.descIssued k { l with hold := l.hold || decide (d.ty = 1) } d
    else fabRun k chunks s

end State

/-- NOP_DESCRIPTOR: nothing, and it is complete at once (R344, R430). -/
def execNopDescriptor (engine : Fin 20) (list : Fin 64) (s : State) : Res :=
  done (if h : engine.val < 16 then s.ceDesc ⟨engine, h⟩ list 0x00 1 [] else s.fabDesc (engine - 16) list 0x00 1)

/-- FENCE_DESCRIPTOR: later writes of the list wait until those before it are complete (R344, R430). -/
def execFenceDescriptor (engine : Fin 20) (list : Fin 64) (s : State) : Res :=
  done (if h : engine.val < 16 then s.ceDesc ⟨engine, h⟩ list 0x01 1 [] else s.fabDesc (engine - 16) list 0x01 1)

/-- FSEND (R431). -/
def execFsend (region : Fin 4) (list : Fin 64) (chunks : Nat) (s : State) : Res := done (s.fabDesc region list 0x20 chunks)

/-- FGET (R431). -/
def execFget (region : Fin 4) (list : Fin 64) (chunks : Nat) (s : State) : Res := done (s.fabDesc region list 0x21 chunks)

/-- FREDUCE (R431). -/
def execFreduce (region : Fin 4) (list : Fin 64) (chunks : Nat) (s : State) : Res := done (s.fabDesc region list 0x22 chunks)

/-- FREDUCE_Q (R431). -/
def execFreduceQ (region : Fin 4) (list : Fin 64) (chunks : Nat) (s : State) : Res := done (s.fabDesc region list 0x23 chunks)

/-- FSIG (R431). -/
def execFsig (region : Fin 4) (list : Fin 64) (chunks : Nat) (s : State) : Res := done (s.fabDesc region list 0x24 chunks)

/-- FFINISH (R431). -/
def execFfinish (region : Fin 4) (list : Fin 64) (chunks : Nat) (s : State) : Res := done (s.fabDesc region list 0x25 chunks)

end Sys2Proof.Machine
end

