-- ==== Sys2Proof/Machine/HostLink.lean ====
section
/-!
DEFINITION. The host link: R443 to R469. CXL.mem, configuration space, HDM decoders, interrupts, power, the attach
states, abandonment and the lost-write log, and placement windows (R440).
-/
namespace Sys2Proof.Machine

/-! ### CXL.mem (R451, R461, R462) -/

namespace State

/-- The bytes of a line as they stand, wherever its current copy is. -/
def lineNow (s : State) (line : Nat) : List Byte :=
  match (s.mHolder line).bind fun c => (s.core c).ccLine line with
  | some l => l.data
  | none =>
    match s.sLine line with
    | some l => l.data
    | none => (s.hbmRead line).1

/-- Whether half `h` of a line holds poison. -/
def halfPoison (s : State) (line h : Nat) : Bool :=
  match (s.mHolder line).bind fun c => (s.core c).ccLine line with
  | some l => bitOf l.poison h
  | none =>
    match s.sLine line with
    | some l => bitOf l.poison h
    | none => s.halfBad (2 * line + h)

/-- The HBM line and the half that a 64-byte host line names, through a committed decoder; D0 only (R460). -/
def hdmLine (s : State) (line : Nat) : Option (Nat × Nat) :=
  if s.inD3 then none else (s.dpaOf (64 * line)).map fun a => (a / 128, a / 64 % 2)

/-- MetaValue returned: Invalid (0) in DEVICE bias and while the granule leaves HOST bias, else as asked (R451, R452). -/
def metaOf (s : State) (line asked : Nat) : Nat :=
  let leaving := match s.hl.bias with
    | some b => !b.host && decide (b.first ≤ granuleOf line) && decide (granuleOf line < b.first + b.count)
    | none => false
  if s.hostBias line && !leaving then asked else 0

/-- Whether a home can serve a host request now; one that completes a request of the block does not wait for BLK. -/
def hostReady (s : State) (line : Nat) (wait : Bool) : Bool :=
  !(wait && s.blocked line) && s.admits (homeOf line) 8 false
    && ((s.sKey line).isSome || (s.hbmServes line && s.admits (homeOf line) 8 true))

/-- A read of the host: in the fatal state and after viral it returns poison and touches nothing. -/
def hostMemRead (s : State) (line asked : Nat) (wait : Bool) : State :=
  if s.sump.fatal ∨ s.hl.viralRx then s.send (.memRsp line (List.replicate 64 0#8) true 0)
  else
    match s.hdmLine line with
    | none => s
    | some (l, h) =>
      if !s.hostReady l wait then s
      else
        let bad := s.halfPoison l h
        let m := s.metaOf l asked
        let d := s.ncRead l 0 8
        d.2.send (.memRsp line ((d.1.1.drop (64 * h)).take 64) bad m)

/-- A write of the host: bytes `bs` at an offset of the 64-byte line. In the fatal state it is discarded; after viral it
is discarded and counted. -/
def hostMemWrite (s : State) (line off : Nat) (bs : List Byte) (wait : Bool) : State :=
  if s.sump.fatal then s.send (.memRsp line [] false 0)
  else if s.hl.viralRx then (s.bump Reg.HL_BADREQ_CNT).send (.memRsp line [] false 0)
  else
    match s.hdmLine line with
    | none => s
    | some (l, h) =>
      if !s.hostReady l wait then s
      else (s.ncWrite l 0 8 (64 * h + off) bs).send (.memRsp line [] false 0)

/-- The span of bytes a mask enables: its first byte, and its bytes, the ones between that are not enabled as they stand. -/
def maskedSpan (s : State) (line h : Nat) (be : BitVec 64) (bytes : List Byte) : Option (Nat × List Byte) :=
  let on := (List.range 64).filter fun i => be.getLsbD i
  match on.head?, on.getLast? with
  | some lo, some hi =>
    let now := (s.lineNow line).drop (64 * h)
    some (lo, (List.range (hi + 1 - lo)).map fun i =>
      if be.getLsbD (lo + i) then bytes.getD (lo + i) 0#8 else now.getD (lo + i) 0#8)
  | _, _ => none

end State

/-- MEMRD (R451). -/
def execMemrd (line : Fin 70368744177664) (meta_ : Fin 4) (s : State) : Res :=
  when s.hl.up (fun s => s.hostMemRead line meta_ true) s

/-- MEMRDDATA (R451). -/
def execMemrddata (line : Fin 70368744177664) (meta_ : Fin 4) (s : State) : Res :=
  when s.hl.up (fun s => s.hostMemRead line meta_ true) s

/-- MEMRDFWD: completes a request of the block and does not wait for BLK (R451). -/
def execMemrdfwd (line : Fin 70368744177664) (meta_ : Fin 4) (s : State) : Res :=
  when s.hl.up (fun s => s.hostMemRead line meta_ false) s

/-- MEMWR: a write-back to a granule in HOST bias does not wait for BLK (R451). -/
def execMemwr (line : Fin 70368744177664) (bytes : List Byte) (s : State) : Res :=
  let bs := (bytes ++ List.replicate 64 0#8).take 64
  when s.hl.up (fun s => s.hostMemWrite line 0 bs (!((s.hdmLine line).any fun l => s.hostBias l.1))) s

/-- MEMWRPTL: a masked write; one that enables no byte changes nothing and is completed (R451). -/
def execMemwrptl (line : Fin 70368744177664) (be : BitVec 64) (bytes : List Byte) (s : State) : Res :=
  when s.hl.up (fun s =>
    match (s.hdmLine line).bind fun l => s.maskedSpan l.1 l.2 be bytes with
    | some (o, bs) => s.hostMemWrite line o bs true
    | none => if s.sump.fatal ∨ s.hl.viralRx ∨ (s.hdmLine line).isNone then s.hostMemWrite line 0 [] true else s.send (.memRsp line [] false 0)) s

/-- MEMWRFWD: completes a request of the block and does not wait for BLK (R451). -/
def execMemwrfwd (line : Fin 70368744177664) (bytes : List Byte) (s : State) : Res :=
  let bs := (bytes ++ List.replicate 64 0#8).take 64
  when s.hl.up (fun s => s.hostMemWrite line 0 bs false) s

/-- A MemInv or MemInvNT moves no data (R451). -/
def State.hostMemInv (s : State) (line asked : Nat) : State :=
  if s.sump.fatal ∨ s.hl.viralRx then s.send (.memRsp line [] false 0)
  else
    match s.hdmLine line with
    | some (l, _) => s.send (.memRsp line [] false (s.metaOf l asked))
    | none => s

/-- MEMINV (R451). -/
def execMeminv (line : Fin 70368744177664) (meta_ : Fin 4) (s : State) : Res :=
  when s.hl.up (fun s => s.hostMemInv line meta_) s

/-- MEMINVNT (R451). -/
def execMeminvnt (line : Fin 70368744177664) (meta_ : Fin 4) (s : State) : Res :=
  when s.hl.up (fun s => s.hostMemInv line meta_) s

/-- MEMSPECRD: dropped (R451). -/
def execMemspecrd (_line : Fin 70368744177664) (s : State) : Res :=
  when s.hl.up (fun s => { s with hl := { s.hl with l1 := false } }) s

/-- UNSUPPORTED_REQUEST: counted; no state of the block changes (R443). -/
def execUnsupportedRequest (s : State) : Res := when s.hl.up (fun s => s.bump Reg.HL_BADREQ_CNT) s

/-! ### Interrupts (R459) -/

/-- Send the messages of pending vectors that nothing holds back any more. -/
def State.flushIrqs (s : State) : State :=
  s.hl.pendIrq.foldl (fun s v =>
    if s.irqEnabled && !s.irqMasked v then
      { s with hl := { s.hl with pendIrq := s.hl.pendIrq.filter (· ≠ v) } }.hostWrite (.msi v)
    else s) s

/-- VECTOR_UNMASK: the vector's mask bit clears; its pending event is sent (R459). -/
def execVectorUnmask (vector : Fin 2048) (s : State) : Res :=
  when (s.hl.up && !s.inD3 && !s.sump.fatal) (fun s =>
    let v := vector.val
    let w := tget State.msixReset s.hl.msix (4 * v + 3)
    let s := if s.msixEnable then
        { s with hl := { s.hl with msix := tset State.msixReset s.hl.msix (4 * v + 3) (putBits w 0 0 0) } }
      else { s with hl := { s.hl with conf := tset State.confReset s.hl.conf 0x18 (putBits (s.confWord 0x18) (v % s.msiGranted) (v % s.msiGranted) 0) } }
    s.flushIrqs) s

/-! ### The lost-write log (R466) -/

/-- The requester code and unit of a write's owner. -/
def WtOwner.lwl : WtOwner → Nat × Nat
  | .stream c => (0, c)
  | .copy e _ => (1, 2 * (e / 4) + e % 2)
  | .bittern => (2, 0)

namespace State

/-- Enter an abandoned line in the log: merged into the newest entry where it continues it, a new entry, or an
overflow. -/
def lwlLog (s : State) (w : Wt) : State :=
  let o := w.owner.lwl
  let part := decide (w.data.length < 64)
  let fits (e : LwlEnt) : Bool := decide (e.ctx = w.ctx) && decide (e.req = o.1) && decide (e.unit = o.2)
    && decide (e.first + e.lines = w.line) && decide (e.lines < 65536)
  match s.hl.newest.bind fun i => (tfind s.hl.lwl i).bind fun e => if fits e then some (i, e) else none with
  | some (i, e) =>
    { s with hl := { s.hl with lwl := tput i { e with lines := e.lines + 1, part := e.part || part } s.hl.lwl } }
  | none =>
    match (List.range 512).find? fun i => (tfind s.hl.lwl i).isNone with
    | some i =>
      { s with hl := { s.hl with lwl := tput i ⟨o.1, part, w.ctx, o.2, w.gen, w.line, 1⟩ s.hl.lwl, newest := some i } }
    | none =>
      let s := (s.setBit Reg.HL_LWL_STS 31 true).bump Reg.HL_LWL_DROP_CNT
      match w.ctx with
      | some x => s.setBit (if x < 32 then Reg.HL_LWL_OVF_LO else Reg.HL_LWL_OVF_HI) (x % 32) true
      | none => s

/-- A write-through entry is freed as abandoned: logged, counted, its list stopped there. -/
def wtLost (s : State) (w : Wt) : State :=
  let s := s.setDc { s.dc with wt := s.dc.wt.filter fun v => decide (v.id ≠ w.id) }
  let s := (s.lwlLog w).bump Reg.HL_ABANDON_CNT
  let s := match w.owner with
    | .copy e n => s.chunkLost e n w.id
    | _ => s
  match s.dc.op with
  | some o => s.setDc { s.dc with op := some { o with wts := o.wts.filter (· ≠ w.id) } }
  | none => s

/-! ### Rings and abandonment (R463 to R467, R498) -/

/-- Every ring is destroyed: reads of slots end, commands that waited behind a BARRIER have not started, and a
RING_DESTROY that drained is done. -/
def dropRings (s : State) : State :=
  let closing := s.vci.sq.filterMap (·.2.closing)
  let s := { s with vci := { s.vci with sq := [], cq := [], rrSq := [], dbSq := [], dbCq := [] }, hl := { s.hl with reads := [] } }
  closing.foldl (fun s c => s.complete c 0) s

/-- The contexts for which an agent works. -/
def agentCtxs (s : State) : Agent → List Nat
  | .stream c => (s.core c).ctx.toList
  | .copy e => ((s.engLists e).filter fun l => decide (l.2.st = .running)).map (·.2.ctx)
  | _ => []

/-- Contexts that name host memory: a FLAT_HPA segment, or a PAGED one with HOST set (R467). -/
def hostCtx (s : State) (x : Nat) : Bool :=
  decide ((s.context x).state ≠ .free) && (List.range 16).any fun i =>
    let g := s.seg x i
    g.valid && (decide (g.type = 1) || (decide (g.type = 2) && g.host))

/-- Every granule returns to DEVICE bias (R450). -/
def biasClear (s : State) : State :=
  { s with reg := { s.reg with cfg := tkeep (fun a => !(decide (Reg.HL_BIAS 0 ≤ a) && decide (a < Reg.HL_BIAS 6144))) s.reg.cfg } }

/-- Abandonment (R465): every held or outstanding request toward the host ends; the contexts of R467 are suspended. -/
def abandon (s : State) : State :=
  let xs := (s.dc.wt.filterMap (·.ctx)) ++ (s.dc.fills.filterMap (·.agent)).flatMap s.agentCtxs
    ++ (List.range 64).filter s.hostCtx
  let s := (s.dc.wt.foldl (fun s w => s.wtLost w) s).raise (srcDevice 1) 0x303 none 0 0 s.dc.wt.length
  let s := s.setDc { s.dc with fills := [], evb := [], state := .init, set := 0 }
  let s := { s with hl := { s.hl with held := [], attach := .detached, hr := false } }
  let s := s.dropRings.biasClear
  let s := match s.hl.bias with
    | some b => ({ s with hl := { s.hl with bias := none } }).complete b.cmd 0x11
    | none => s
  s.suspendAll .host xs.eraseDups

/-- A link event while ATTACHED: HOLD, or abandonment at once where HOLD is 0 (R463, R464). -/
def linkHold (s : State) : State :=
  if s.hl.attach ≠ .attached then s
  else
    let s := { s with hl := { s.hl with attach := .hold, hr := false } }.bump Reg.HL_HOLD_CNT
    if s.fld Reg.HL_CTL 15 0 = 0 then s.abandon else s

/-- Held traffic leaves in its order (R464). -/
def release (s : State) : State :=
  let held := s.hl.held
  (held.foldl (fun (s : State) w => s.deliver w) { s with hl := { s.hl with attach := .attached, held := [], hr := false } }).dcOpStep

/-- Release without a command: HOLD, no reset of the configuration space, the link in L0 and both enables set. -/
def mayRelease (s : State) : State :=
  if s.hl.attach = .hold ∧ !s.hl.hr ∧ s.hl.up ∧ s.busMaster ∧ s.cacheEnable then s.release else s

/-- A Hot Reset or a link down resets what R463 names. -/
def confClear (s : State) : State :=
  { s with hl := { s.hl with conf := [], msix := [], pendIrq := [], dec := [], hr := s.hl.attach == .hold, viralRx := false } }

end State

/-- Sets of modules a link may use (R445). -/
def modsOk (m : Nat) : Bool := decide (m ∈ [0xF, 0x3, 0xC, 0x1, 0x2, 0x4, 0x8])

/-- A link event (R445, R463); a second one during HOLD changes nothing of it (R468). -/
def State.linkEvent (s : State) (kind : LinkKind) : State :=
  let s := if s.sump.fatal then s else s.linkHold
  match kind with
  | .retrain mods =>
    let s := { s with hl := { s.hl with up := false, mods := if modsOk mods then mods else s.hl.mods } }
    (s.bump Reg.HL_RETRAIN_CNT).raise (srcDevice 1) 0x304
  | .down => { s with hl := { s.hl with up := false, mods := 0 } }.confClear
  | .hotReset => { s with hl := { s.hl with up := false } }.confClear

/-- LINK_EVENT: a retrain, link down or a Hot Reset. -/
def execLinkEvent (kind : LinkKind) (s : State) : Res := when s.hl.up (fun s => s.linkEvent kind) s

/-- LINK_RETURN: the link is in L0 on its modules; what R464 lets go is released. -/
def execLinkReturn (mods : Fin 16) (s : State) : Res :=
  when (!s.hl.up && modsOk mods && s.vci.up) (fun s =>
    let s := { s with hl := { s.hl with up := true, mods := mods } }
    if s.sump.fatal then s else s.mayRelease) s

/-- HOST_LOSS: a host complex reset on the sideband (R463). -/
def execHostLoss (s : State) : Res := when (s.hl.attach != .detached && !s.sump.fatal) (fun s => s.abandon) s

/-- VIRAL_RECEIVED: recorded, and treated as a host loss (R462). -/
def execViralReceived (s : State) : Res :=
  when (s.hl.up && !s.sump.fatal) (fun s =>
    let s := { s with hl := { s.hl with viralRx := true } }
    if s.hl.attach = .detached then s else s.abandon) s

/-- HOLD_TIMEOUT (R464). -/
def execHoldTimeout (s : State) : Res := when (s.hl.attach == .hold && !s.sump.fatal) (fun s => s.abandon) s

/-! ### Configuration space (R446, R460) -/

/-- The bits of a double word that a write changes, each where its standard puts it (PRESUMED, the standards' layout). -/
def confMask (i : Nat) : Nat :=
  match i with
  | 0x01 => 0x0546 | 0x03 => 0xFF | 0x04 => 0xFC000000 | 0x05 => 0xFFFFFFFF | 0x06 => 0xF0000000 | 0x07 => 0xFFFFFFFF
  | 0x08 => 0xFFFE0000 | 0x09 => 0xFFFFFFFF | 0x0F => 0xFF | 0x14 => 0x00710000 | 0x15 => 0xFFFFFFFC
  | 0x16 => 0xFFFFFFFF | 0x17 => 0xFFFF | 0x18 => 0xFFFFFFFF | 0x1E => 0x79FF | 0x20 => 0x3 | 0x26 => 0x130F
  | 0x2C => 0xC0000000 | 0x42 => 0x07FFF030 | 0x43 => 0x07FFF030 | 0x45 => 0xF1C1 | 0x53 => 0x4005
  | 0x58 => 0xFFFFFFFF | 0x59 => 0xF0000000
  | _ => 0

/-- The status bits of a double word that a written 1 clears: AER's, and Viral_Status of the CXL Device DVSEC (PRESUMED, the
standards' layout). -/
def confClears (i : Nat) : Nat :=
  match i with
  | 0x41 => 0xFFFFFFFF | 0x44 => 0xFFFFFFFF | 0x53 => 0x40000000
  | _ => 0

/-- A mask of the enabled bytes. -/
def beMask (be : BitVec 4) : Nat := (List.range 4).foldl (fun a i => if be.getLsbD i then a + 0xFF * 256 ^ i else a) 0

namespace State

/-- No context exists (R460). -/
def noContexts (s : State) : Bool := (List.range 64).all fun x => decide ((s.context x).state = .free)

/-- A write of PowerState: D0 at once, D3hot only while no context exists, D1 and D2 never (R460). -/
def setPower (s : State) (v : Nat) : State :=
  let old := s.confWord 0x11
  if v = 0 ∨ (v = 3 ∧ s.noContexts) then
    { s with hl := { s.hl with conf := tset confReset s.hl.conf 0x11 (putBits old 1 0 v) } }
  else s

/-- What a read of a double word returns: MSI's pending bits come from the vectors, the Device Serial Number from the option
bytes. -/
def confView (s : State) (i : Nat) : Word :=
  if i = 0xB9 then BitVec.ofNat 32 s.heron.serial
  else if i = 0xBA then BitVec.ofNat 32 (s.heron.serial / 2 ^ 32)
  else if i = 0x19 then
    if s.msiEnable && !s.msixEnable then
      BitVec.ofNat 32 (s.hl.pendIrq.foldl (fun a v => a ||| 2 ^ (v % s.msiGranted)) 0)
    else 0#32
  else s.confWord i

end State

/-- CONFIG_REQUEST: a read is answered; a write changes the bits it may, and what they control follows (R446, R459,
R463). -/
def execConfigRequest (dw : Fin 1024) (write : Option Word) (be : BitVec 4) (s : State) : Res :=
  when s.hl.up (fun s =>
    match write with
    | none => s.send (.confData dw (s.confView dw))
    | some w =>
      let m := confMask dw.val &&& beMask be
      let gone := confClears dw.val &&& beMask be &&& w.toNat
      let old := (s.confWord dw).toNat
      let on := s.busMaster && s.cacheEnable
      let s := if dw.val = 0x11 then (if be.getLsbD 0 then s.setPower (w.toNat % 4) else s)
        else { s with hl := { s.hl with conf := tset State.confReset s.hl.conf dw (BitVec.ofNat 32 ((old &&& (0xFFFFFFFF - m) &&& (0xFFFFFFFF - gone)) ||| (w.toNat &&& m))) } }
      if s.sump.fatal then s
      else if on ∧ !(s.busMaster && s.cacheEnable) then s.linkHold
      else s.mayRelease.flushIrqs) s

/-- D3HOT_WRITE (R460). -/
def execD3hotWrite (s : State) : Res := when (s.hl.up && !s.sump.fatal) (fun s => s.setPower 3) s

/-! ### HDM decoders (R448, R449) -/

/-- DECODER_COMMIT: decoder `n` with what the host has programmed commits, or reports Error Not Committed. One already
committed keeps its values. -/
def execDecoderCommit (n : Fin 8) (base size skip : DWord) (ways : Fin 16) (lock : Bool) (s : State) : Res :=
  let old := tget (fun _ => ({} : Decoder)) s.hl.dec n
  when (s.hl.up && !s.inD3 && !old.committed && !s.sump.fatal) (fun s =>
    let before := (List.range n).all fun i => (tget (fun _ => ({} : Decoder)) s.hl.dec i).committed
    let db := (match (s.windowsFrom n 0 0).getLast? with
      | some w => w.1 + w.2.1
      | none => 0) + skip.toNat
    let m := 2 ^ 28
    let ok := before && decide (base.toNat % m = 0 ∧ size.toNat % m = 0 ∧ skip.toNat % m = 0 ∧ size.toNat ≠ 0) && ways == 0
      && decide (db < 2 ^ 39) && decide (db % 2 ^ 36 + size.toNat ≤ 0xC00000000)
    let d : Decoder := { base := base.toNat, size := size.toNat, skip := skip.toNat, ways := ways, committed := ok, error := !ok, lockOn := lock }
    { s with hl := { s.hl with dec := tset (fun _ => {}) s.hl.dec n d } }) s

/-! ### L1 (R460) -/

/-- L1_ENTRY: nothing outstanding for L1_IDLE µs. -/
def execL1Entry (s : State) : Res :=
  when (s.aspmL1 && s.hl.up && !s.hl.l1 && s.hl.attach != .hold && s.dc.wt.isEmpty && s.dc.fills.isEmpty && s.dc.evb.isEmpty
      && s.hl.reads.isEmpty && s.hl.held.isEmpty && s.hl.bias.isNone && !s.sump.fatal)
    (fun s => { s with hl := { s.hl with l1 := true } }.bump Reg.HL_L1_CNT) s

/-! ### Placement windows (R440) -/

namespace State

/-- The registered window that holds a run of bytes and belongs to a requester. -/
def placeWindow (s : State) (req dpa n : Nat) : Option Nat :=
  (List.range 16).find? fun i =>
    let a := s.fld (Reg.FAB_PLACE_W1 0 i) 23 0 * 65536
    let z := (s.fld (Reg.FAB_PLACE_W2 0 i) 23 0 + 1) * 65536
    s.bit (Reg.FAB_PLACE_W0 0 i) 31 && decide (s.fld (Reg.FAB_PLACE_W0 0 i) 15 0 = req) && decide (a ≤ dpa)
      && decide (dpa + n ≤ a + z)

/-- Write a run of bytes line by line as a non-caching agent of a class. -/
def placeBytes (s : State) (cls : Nat) : List (Nat × Nat) → List Byte → State
  | [], _ => s
  | (a, n) :: l, bs => placeBytes (s.ncWrite (a / 128) 0 cls (a % 128) (bs.take n)) cls l (bs.drop n)

end State

/-- PLACEMENT_WRITE: accepted only within a window of its requester; its doorbell line signals the window's peg (R440). -/
def execPlacementWrite (req : Half) (hpa : BitVec 52) (bytes : List Byte) (s : State) : Res :=
  when (s.hl.up && !s.inD3 && !s.sump.fatal && !bytes.isEmpty) (fun s =>
    match (s.dpaOf hpa.toNat).bind fun a => (s.placeWindow req.toNat a bytes.length).map fun i => (a, i) with
    | none => s.bump (Reg.FAB_PLACE_REFUSE_CNT 0)
    | some (a, i) =>
      let p := s.fld (Reg.FAB_PLACE_W0 0 i) 30 28
      let ls := linesOf a bytes.length
      if !ls.all fun q => !s.blocked (q.1 / 128) && s.admits (homeOf (q.1 / 128)) p false
          && ((s.sKey (q.1 / 128)).isSome || (s.hbmServes (q.1 / 128) && s.admits (homeOf (q.1 / 128)) p true)) then s
      else
        let top := (s.fld (Reg.FAB_PLACE_W1 0 i) 23 0 + s.fld (Reg.FAB_PLACE_W2 0 i) 23 0 + 1) * 65536
        let s := s.placeBytes p ls bytes
        if top - 128 < a + bytes.length then
          match s.pegOfPart p (s.fld (Reg.FAB_PLACE_W3 0 i) 14 0) with
          | some d => s.pegDo d (.signal 1)
          | none => s
        else s) s

/-! ### The fatal safe state (R461) -/

/-- Set a status bit of the configuration space. -/
def State.confRaise (s : State) (i n : Nat) : State :=
  { s with hl := { s.hl with conf := tset State.confReset s.hl.conf i (putBits (s.confWord i) n n 1) } }

/-- What the fatal report does to the host link: viral where it is enabled, with its status in the DVSEC; an uncorrectable
internal error in AER; and held and unsent writes go without a log entry. -/
def State.linkFatal (s : State) : State :=
  let s := (if s.viralEnable then s.confRaise 0x53 30 else s).confRaise 0x41 22
  { s with
    hl := { s.hl with viralTx := s.viralEnable, held := [] }
    dc := { s.dc with wt := [] } }

end Sys2Proof.Machine
end

