-- ==== Sys2Proof/Machine/Rings.lean ====
section
/-!
DEFINITION. Rings, the mailbox and the commands about the device: R454, R455, R470 to R476, R495 to R500.
-/
namespace Sys2Proof.Machine

namespace State

/-- A CXL.io request of the host reaches a BAR: the link is up, the function is in D0, and the block is not in the
fatal safe state (R460, R461). -/
def hostOpen (s : State) : Bool := s.hl.up && !s.inD3 && !s.sump.fatal

/-! ### Doorbells and the mailbox (R471) -/

/-- The TDISP interface of a partition (R628). -/
def tdiOf (s : State) (p : Nat) : Tdi := tget (fun _ => {}) s.sedge.tdi p

/-- Whether a doorbell write of a class may come on an IDE stream (0: none, or the link stream): in RUN only the bound one
counts (R628). -/
def onStream (s : State) (cls stream : Nat) : Bool :=
  let t := s.tdiOf cls
  decide (7 < cls) || t.state != .run || decide (t.stream = stream)

/-- Whether Bittern fetches for a class: not while its interface is in ERROR or stops (R628). -/
def tdiFetches (s : State) (cls : Nat) : Bool :=
  let t := s.tdiOf cls
  decide (7 < cls) || (t.state != .error && !t.stopping)

/-- A doorbell write that is ignored. -/
def dbIgnored (s : State) : State := { s with vci := { s.vci with dbErr := BitVec.ofNat 32 (min 0xFFFFFFFF (s.vci.dbErr.toNat + 1)) } }

def sqDb (s : State) (q index stream : Nat) : State :=
  match s.sqAt q with
  | some r =>
    if index < 2 ^ r.log2 ∧ s.hl.attach = .attached ∧ s.onStream r.cls stream then
      let s := s.setSq q { r with tail := index }
      { s with vci := { s.vci with dbSq := tset (fun _ => 0) s.vci.dbSq q index } }
    else s.dbIgnored
  | none => s.dbIgnored

/-- The host has consumed records: held events move in (R474). -/
def cqDb (s : State) (c index stream : Nat) : State :=
  match s.cqAt c with
  | some r =>
    if index < 2 ^ r.log2 ∧ s.hl.attach = .attached ∧ s.onStream r.cls stream then
      let s := s.setCq c { r with head := index }
      State.flushEvents c 300 { s with vci := { s.vci with dbCq := tset (fun _ => 0) s.vci.dbCq c index } }
    else s.dbIgnored
  | none => s.dbIgnored

/-- GO runs the slot in the mailbox, unless BUSY is 1. -/
def mboxGo (s : State) : State :=
  if s.vci.mbusy then s
  else
    let bytes := (List.range 64).flatMap fun w => leBytes 4 (tget (fun _ => 0#32) s.vci.mslot w).toNat
    let c : Cmd := { id := s.vci.nextCmd, src := ⟨0xFFFF, 0⟩, cls := 15, head := 0, bytes := bytes }
    { s with vci := { s.vci with mbusy := true, mdone := false, nextCmd := s.vci.nextCmd + 1 } }.startCmd c

end State

/-- SQ_DB (R471). -/
def execSqDb (q : Fin 256) (value : Word) (stream : Fin 9) (s : State) : Res :=
  when s.hostOpen (fun s => s.sqDb q (value.toNat % 65536) stream) s

/-- CQ_DB (R471, R474). -/
def execCqDb (c : Fin 256) (value : Word) (stream : Fin 9) (s : State) : Res :=
  when s.hostOpen (fun s => s.cqDb c (value.toNat % 65536) stream) s

/-- MBOX_GO (R471). -/
def execMboxGo (s : State) : Res := when (s.hostOpen && s.vci.up) (fun s => s.mboxGo) s

/-! ### Fetch (R473 to R475) -/

/-- The code of the class at place `i` of the round: partitions 0 to 7, then the admin class. -/
def clsAt (i : Nat) : Nat := if i = 8 then 15 else i

/-- `n` places of a round, from the one after `last`. -/
def turn (n last : Nat) : List Nat := (List.range n).map fun i => (last + 1 + i) % n

/-- A started command that may wait on another without holding its ring: lists and FENCE (R494), partition commands
(R513). -/
def Cmd.waits (c : Cmd) : Bool := decide (c.opcode ∈ [0x100, 0x101, 0x102, 0x300, 0x301, 0x303, 0x304])

namespace State

/-- Whether a ring's next command may be fetched (R475). The commands of a ring start in order: the effect of the one
before has begun (DEDUCED). -/
def eligible (s : State) (q : Nat) : Bool :=
  match s.sqAt q with
  | none => false
  | some r =>
    decide (r.head ≠ r.tail) && r.barrier.isNone && r.closing.isNone && (s.cqAt r.cq).any (·.room)
      && s.hl.reads.all (fun e => decide (e.sq ≠ q)) && (decide (r.cls = 15) || s.partActive r.cls) && s.tdiFetches r.cls
      && s.vci.cmds.all fun c => decide (c.src.sq ≠ q) || c.ran || c.waits

/-- Whether Bittern fetches at all. -/
def fetches (s : State) : Bool :=
  s.bitternUp && s.hl.attach == .attached && s.hl.up && !s.inD3 && s.vci.detach.isNone && !s.sump.fatal
    && decide (s.vci.cmds.length < 16384) && decide (s.hl.reads.length < 16)

/-- The next ring to serve: classes in turn, then the rings of the class in turn. -/
def nextRing (s : State) : Option (Nat × Nat) :=
  (turn 9 s.vci.rrCls).findSome? fun k =>
    ((turn 256 (tget (fun _ => 255) s.vci.rrSq k)).find? fun q =>
      s.eligible q && (s.sqAt q).any fun r => decide (r.cls = clsAt k)).map fun q => (k, q)

/-- The CQ entry reserved for a command that has not started is free again. -/
def unreserve (s : State) (q : Nat) : State :=
  match s.sqAt q with
  | none => s
  | some r =>
    match s.cqAt r.cq with
    | none => s
    | some k => s.setCq r.cq { k with reserved := k.reserved - 1 }

/-- A slot arrives, or its read ends without data: then the command has not started and has no record (R498). -/
def slotIn (s : State) (q slot : Nat) (d : SlotRead) : State :=
  match s.sqAt q with
  | none => s
  | some r =>
    match d with
    | .ended => (s.unreserve q).ringIdle q
    | .data bs =>
      let c : Cmd := { id := s.vci.nextCmd, src := ⟨q, slot⟩, cls := r.cls, head := (slot + 1) % 2 ^ r.log2
                       bytes := (bs ++ List.replicate 256 0#8).take 256 }
      let busy := c.barrier && s.ringBusy q
      let s := { s with vci := { s.vci with nextCmd := s.vci.nextCmd + 1 } }
      if busy then s.setSq q { r with barrier := some c } else s.startCmd c

/-- The lowest tag that no read of Bittern holds, within the limit of R454. -/
def freeReadTag (s : State) : Option Nat :=
  let mods := ((List.range 4).filter fun m => bitOf s.hl.mods m).length
  let per := if bitOf (s.confWord 0x26).toNat 12 then 256 else 64
  (List.range (min 1024 (per * mods))).find? fun t => s.hl.reads.all fun e => decide (e.tag ≠ t)

end State

/-- COMMAND_FETCH: the next eligible ring's slot is read; its bytes come with the event, or the read is issued and its
completion follows (R475). -/
def execCommandFetch (slot : Option SlotRead) (s : State) : Res :=
  match s.nextRing with
  | none => done s
  | some (k, q) =>
    match s.sqAt q with
    | none => done s
    | some r =>
      when (s.fetches && (slot.isSome || s.freeReadTag.isSome)) (fun s =>
        let s := s.setSq q { r with head := (r.head + 1) % 2 ^ r.log2 }
        let s := match s.cqAt r.cq with
          | some e => s.setCq r.cq { e with reserved := e.reserved + 1 }
          | none => s
        let s := { s with vci := { s.vci with rrCls := k, rrSq := tset (fun _ => 255) s.vci.rrSq k q } }
        match slot, s.freeReadTag with
        | some d, _ => s.slotIn q r.head d
        | none, some t =>
          let s := { s with hl := { s.hl with reads := s.hl.reads ++ [(⟨t, q, r.head⟩ : HostRd)] } }
          s.hostWrite (.read t (r.base + 256 * r.head) 256)
        | none, none => s) s

/-- HOST_COMPLETION: a completion ends the read that holds its tag; any other is unexpected, counted and reported as
advisory, at the place AER gives it (R455). -/
def execHostCompletion (tag : Fin 1024) (slot : SlotRead) (s : State) : Res :=
  when (s.hl.up && !s.sump.fatal) (fun s =>
    match s.hl.reads.find? fun e => decide (e.tag = tag.val) with
    | some e =>
      { s with hl := { s.hl with reads := s.hl.reads.filter fun e => decide (e.tag ≠ tag.val) } }.slotIn e.sq e.slot slot
    | none =>
      let s := s.bump Reg.HL_UNEXP_CNT
      { s with hl := { s.hl with conf := tset State.confReset s.hl.conf 0x44 (s.confWord 0x44 ||| 0x2000#32) } }) s

/-- COMPLETION_TIMEOUT: the request ends without data; the timers stand still in HOLD (R455, R468). -/
def execCompletionTimeout (req : CplReq) (s : State) : Res :=
  let out (s : State) (x : Option Nat) : State := (s.bump Reg.HL_CTO_CNT).raise (srcDevice 1) 0x302 x
  when (s.hl.attach == .attached && !s.sump.fatal) (fun s =>
    match req with
    | .io tag =>
      match s.hl.reads.find? fun e => decide (e.tag = tag.val) with
      | some e =>
        let s := { s with hl := { s.hl with reads := s.hl.reads.filter fun e => decide (e.tag ≠ tag.val) } }
        (out s none).slotIn e.sq e.slot .ended
      | none => s
    | .fill line =>
      match s.dc.fills.find? fun f => decide (f.line = line.val) with
      | some f =>
        let s := s.setDc { s.dc with fills := s.dc.fills.erase f }
        match f.agent with
        | some a => (out s (s.agentCtxs a).head?).send (.memData a line [] true)
        | none => out s none
      | none => s
    | .evict line => if line.val ∈ s.dc.evb then out ((s.setDc { s.dc with evb := s.dc.evb.filter (· ≠ line.val) }).dcInstall.dcOpStep) none else s
    | .write line =>
      match s.dc.wt.find? fun w => decide (w.line = line.val) with
      | some w =>
        let s := (out (s.wtLost w) w.ctx).dcOpStep
        match w.ctx with
        | some x => s.suspend x .host
        | none => s
      | none => s) s

/-! ### NOP and CAP_QUERY (R480, R500) -/

/-- NOP_COMMAND. -/
def execNopCommand (src : CmdSrc) (s : State) : Res := done (s.withCmd src 0x0000 fun c s => s.complete c 0)

namespace State

/-- Whether a partition owns a logical core. -/
def ownsCore (s : State) (p l : Nat) : Bool := s.bit (Reg.PART_CORES p (l / 32)) (l % 32)

/-- The active logical cores of a group: those a partition owns, or all (R500). -/
def capCores (s : State) (part : Option Nat) (g : Nat) : Nat :=
  ((List.range 24).filter fun i =>
    !s.withdrawn (24 * g + i) && (part.all fun p => s.ownsCore p (24 * g + i))).length

/-- The period code a command may rely on: none in OFF or ACQUIRE. -/
def roundPeriod (s : State) : Nat :=
  if s.round.state = .off ∨ s.round.state = .acquire then 0xFF else s.round.period

/-- Whether a stack is in service. -/
def stackUp (s : State) (n : Nat) : Bool :=
  let k := tget (fun _ => ({} : Hbm)) s.hctl n
  decide (k.state = .run ∨ k.state = .repair)

/-- The capability descriptor: a partition's view, or the admin view (R500). -/
def capability (s : State) (part : Option Nat) : List Byte :=
  let vec := (List.range 64).foldl (fun a f => if (VecFn.ofCode f).isSome then a + 2 ^ f else a) 0
  let stackMap := (List.range 8).foldl (fun a n => if s.stackUp n then a + 2 ^ n else a) 0
  let base := match part with
    | some p => s.fld (Reg.PEG_PART 0 p) 14 0
    | none => 0
  let size := match part with
    | some p => s.fld (Reg.PEG_PART 0 p) 31 16
    | none => 32768
  leBytes 2 3 ++ leBytes 2 0 ++ leBytes 2 256 ++ leBytes 2 4 ++ leBytes 4 0x3FF ++ leBytes 4 (s.cfg (Reg.FAB_ID 0)).toNat
    ++ ((List.range 8).flatMap fun g => leBytes 2 (if g < 4 then s.capCores part g else 0))
    ++ leBytes 4 16384 ++ leBytes 4 8388608 ++ leBytes 2 2048 ++ leBytes 1 8 ++ leBytes 1 8 ++ leBytes 1 8 ++ leBytes 1 128
    ++ leBytes 1 4 ++ leBytes 1 2 ++ leBytes 2 0x3FF ++ leBytes 6 0 ++ leBytes 8 vec ++ leBytes 4 base ++ leBytes 4 size
    ++ leBytes 2 64 ++ leBytes 1 8 ++ leBytes 1 0x22 ++ leBytes 2 256 ++ leBytes 2 256 ++ leBytes 2 192 ++ leBytes 2 1024
    ++ leBytes 4 65536 ++ leBytes 1 s.roundPeriod ++ leBytes 1 stackMap ++ leBytes 2 48 ++ leBytes 4 10551296 ++ leBytes 160 0

end State

/-- CAP_QUERY: the view is written where the link may write; without an address, or DETACHED, nothing is. -/
def execCapQuery (src : CmdSrc) (s : State) : Res :=
  done (s.withCmd src 0x0001 fun c s =>
    let a := c.par 0 8
    if a % 64 ≠ 0 ∨ 2 ^ 52 ≤ a then s.complete c 0xA
    else if a = 0 ∨ s.hl.attach = .detached then s.complete c 0
    else (s.hostWrite (.write a (s.capability (if c.cls = 15 then none else some c.cls)))).complete c 0 0 0 256)

/-! ### Rings (R472, R495) -/

namespace State

/-- Records held for a class go to its EVENT ring (R498). -/
def postOrphans (s : State) (cls c : Nat) : State :=
  let mine := s.vci.orphans.filter fun o => decide (o.1 = cls)
  mine.foldl (fun s o => s.postEventRec c o.2)
    { s with vci := { s.vci with orphans := s.vci.orphans.filter fun o => decide (o.1 ≠ cls) } }

/-- What refuses a ring: its status and detail. -/
def ringBad (s : State) (c : Cmd) : Option (Nat × Nat) :=
  let ring := c.par 0 2
  let kind := c.par 2 1
  let cls := c.par 4 1
  let link := c.par 6 2
  let base := c.par 8 8
  if 255 < ring ∨ c.par 3 1 < 4 ∨ 16 < c.par 3 1 ∨ base % 4096 ≠ 0 ∨ 2 ^ 52 ≤ base ∨ (7 < cls ∧ cls ≠ 15) then some (0xA, 0)
  else if cls < 8 ∧ !s.partActive cls then some (4, 0)
  else if kind = 0 then
    match s.sqAt ring with
    | some r => if r.closing.isSome then some (7, 0) else some (6, 1)
    | none =>
      match s.cqAt link with
      | some q => if q.event ∨ q.cls ≠ cls then some (0xA, 0) else none
      | none => some (0xA, 0)
  else if (s.cqAt ring).isSome then some (6, 1)
  else if 2047 < link then some (0xA, 0)
  else if kind = 2 ∧ (s.eventRing cls).isSome then some (6, 1)
  else none

end State

/-- RING_CREATE: a ring of the kind named becomes usable. -/
def execRingCreate (src : CmdSrc) (s : State) : Res :=
  done (s.withCmd src 0x0004 fun c s =>
    match s.ringBad c with
    | some (st, d) => s.complete c st d
    | none =>
      let n := c.par 0 2
      if c.par 2 1 = 0 then
        (s.setSq n { cls := c.par 4 1, log2 := c.par 3 1, base := c.par 8 8, cq := c.par 6 2, since := s.vci.nextCmd }).complete c 0
      else
        let event := decide (c.par 2 1 = 2)
        let s := s.setCq n { event := event, cls := c.par 4 1, log2 := c.par 3 1, vec := c.par 6 2, base := c.par 8 8 }
        let s := if event then s.postOrphans (c.par 4 1) n else s
        s.complete c 0)

/-- RING_DESTROY: a submission ring goes once every command fetched from it has completed; another at once, unless a
submission ring names it. -/
def execRingDestroy (src : CmdSrc) (s : State) : Res :=
  done (s.withCmd src 0x0005 fun c s =>
    let n := c.par 0 2
    if 255 < n then s.complete c 0xA
    else if c.par 2 1 = 0 then
      match s.sqAt n with
      | none => s.complete c 6
      | some r =>
        if r.closing.isSome then s.complete c 7
        else ((s.running c).setSq n { r with closing := some c }).ringIdle n
    else
      match s.cqAt n with
      | none => s.complete c 6
      | some q =>
        if q.event ≠ decide (c.par 2 1 = 2) then s.complete c 6
        else if s.vci.sq.any fun e => decide (e.2.cq = n) then s.complete c 6 1
        else { s with vci := { s.vci with cq := tdel n s.vci.cq } }.complete c 0)

/-! ### The lost-write log and the device identifier (R466, R409) -/

/-- LWL_ACK. -/
def execLwlAck (src : CmdSrc) (s : State) : Res :=
  done (s.withCmd src 0x0006 fun c s =>
    let a := c.par 0 2
    let z := a + c.par 2 2
    if 512 < z then s.complete c 0xA
    else
      let hit (i : Nat) : Bool := decide (a ≤ i) && decide (i < z)
      let s := { s with hl := { s.hl with
        lwl := s.hl.lwl.filter fun e => !hit e.1
        newest := s.hl.newest.filter fun i => !hit i } }
      let s := if bitOf (c.par 4 1) 0 then
          ((s.setBit Reg.HL_LWL_STS 31 false).setCfg Reg.HL_LWL_OVF_LO 0#32).setCfg Reg.HL_LWL_OVF_HI 0#32
        else s
      s.complete c 0)

/-- DEV_ID_SET: refused while a connection is OPEN. -/
def execDevIdSet (src : CmdSrc) (s : State) : Res :=
  done (s.withCmd src 0x0007 fun c s =>
    if 2 ^ 18 ≤ c.par 0 4 then s.complete c 0xA
    else if s.fab.conns.any fun e => decide (e.2.state = .opened) then s.complete c 6 1
    else (s.setCfg (Reg.FAB_ID 0) (BitVec.ofNat 32 (2 ^ 31 + c.par 0 4 * 256 + c.par 4 1))).complete c 0)

end Sys2Proof.Machine
end

