-- ==== Sys2Proof/Machine/Context.lean ====
section
/-!
DEFINITION. Contexts, segments and hands as commands change them: R200 to R206, R213, R221, R255, R261 to R263, R282 to
R287, R481 to R492, R495, R499.
-/
namespace Sys2Proof.Machine

namespace State

/-! ### Core power on Bittern's binding (R155, R150) -/

/-- A core enters OFF: its cache is written back, and nothing it held survives. -/
def coreOff (s : State) (c : Nat) : State :=
  let k := s.core c
  if k.pwr = .off then s
  else
    let s := (s.ccFlush c).trcMark c true .off
    (s.setCore c { lcore := k.lcore, isolated := k.isolated }).setFld (Reg.CSTORE_STS (c / 26) (c % 26)) 11 8 0

/-- A core leaves OFF: hardware clears its core store and its spare map. -/
def coreOn (s : State) (c : Nat) : State :=
  let k := s.core c
  if k.pwr ≠ .off then s
  else
    let s := s.setCore c { lcore := k.lcore, isolated := k.isolated, pwr := .init }
    ((s.setBit (Reg.CSTORE_STS (c / 26) (c % 26)) 5 false).setFld (Reg.CSTORE_SPARE (c / 26) (c % 26)) 10 0 0).trcMark c false .init

/-! ### Use of the tiers (R255, R488, R512) -/

end State

/-- Bytes in units of 2 MiB, rounded up. -/
def units2M (n : Nat) : Nat := (n + 0x1FFFFF) / 0x200000

/-- What a segment charges to stack n, and to tier 1. -/
def Seg.tier0 (g : Seg) (n : Nat) : Nat :=
  if g.valid && ((decide (g.type = 0) && decide (g.base / 2 ^ 36 = n)) || (decide (g.type = 2) && bitOf g.inStacks n)) then units2M g.bytes else 0

def Seg.tier1 (g : Seg) : Nat :=
  if g.valid && (decide (g.type = 1) || (decide (g.type = 2) && g.host)) then units2M g.bytes else 0

/-- A save image, and how many of a context's logical cores lie in region r. -/
def imageBytes : Nat := 0xA10000
def Ctx.coresIn (k : Ctx) (r : Nat) : Nat := ((List.range 24).filter fun i => bitOf k.cores (24 * r + i)).length

/-- The save areas of a context: first byte and length. -/
def Ctx.areas (k : Ctx) : List (Nat × Nat) :=
  (List.range 4).filterMap fun r => if k.coresIn r = 0 then none else some (k.save.getD r 0, k.coresIn r * imageBytes)

/-- What its save areas charge to stack n. -/
def Ctx.tier0 (k : Ctx) (n : Nat) : Nat :=
  k.areas.foldl (fun a e => if e.1 / 2 ^ 36 = n then a + units2M e.2 else a) 0

/-- The handle table's 2 MiB of stack 0, which Bittern reserves at start-up; where it lies is not stated (DESIGN
CHOICE: the last of the populated range). -/
def handleArea : Nat × Nat := (0xBFFE00000, 0x200000)

/-- Whether two runs of bytes meet. -/
def meets (a b : Nat × Nat) : Bool := decide (0 < a.2) && decide (0 < b.2) && decide (a.1 < b.1 + b.2) && decide (b.1 < a.1 + a.2)

/-- Whether a run lies wholly in the populated range of one stack. -/
def inStack (a n : Nat) : Bool := decide (0 < n) && populated a && populated (a + n - 1) && decide (a / 2 ^ 36 = (a + n - 1) / 2 ^ 36)

namespace State

/-- The contexts of a partition that exist. -/
def ctxsOf (s : State) (p : Nat) : List Nat :=
  (List.range 64).filter fun x => decide ((s.context x).state ≠ .free) && decide ((s.context x).part = p)

/-- Use of stack n, and of tier 1, by a partition, leaving out segment `but` of a context. -/
def useT0 (s : State) (p n : Nat) (but : Option (Nat × Nat) := none) : Nat :=
  (s.ctxsOf p).foldl (fun a x =>
    (List.range 16).foldl (fun a i => if but = some (x, i) then a else a + (s.seg x i).tier0 n) (a + (s.context x).tier0 n)) 0

def useT1 (s : State) (p : Nat) (but : Option (Nat × Nat) := none) : Nat :=
  (s.ctxsOf p).foldl (fun a x => (List.range 16).foldl (fun a i => if but = some (x, i) then a else a + (s.seg x i).tier1) a) 0

/-- Handles held by a partition. -/
def useT2 (s : State) (p : Nat) : Nat := (s.fab.handles.filter fun h => decide (h.2.part = p)).length

def limT0 (s : State) (p n : Nat) : Nat := s.fld (Reg.PART_T0 p n) 31 16
def limT1 (s : State) (p : Nat) : Nat := (s.cfg (Reg.PART_T1_LIMIT p)).toNat
def limT2 (s : State) (p : Nat) : Nat := s.fld (Reg.PART_T2_LIMIT p) 16 0

/-- The save areas of every context, and the registered placement windows. -/
def saveAreas (s : State) : List (Nat × Nat) :=
  (List.range 64).flatMap fun x => if (s.context x).state = .free then [] else (s.context x).areas

def placeAreas (s : State) : List (Nat × Nat) :=
  (List.range 16).filterMap fun i =>
    if s.bit (Reg.FAB_PLACE_W0 0 i) 31 then
      some (s.fld (Reg.FAB_PLACE_W1 0 i) 23 0 * 65536, (s.fld (Reg.FAB_PLACE_W2 0 i) 23 0 + 1) * 65536)
    else none

/-- The flat device segments of every context. -/
def segAreas (s : State) : List (Nat × Nat) :=
  (List.range 64).flatMap fun x => (List.range 16).filterMap fun i =>
    let g := s.seg x i
    if g.valid && decide (g.type = 0) then some (g.base, g.bytes) else none

/-! ### CTX_CREATE (R481, R488, R509) -/

/-- What refuses a new context. A save area that is misplaced is an address out of range (DEDUCED). -/
def ctxBad (s : State) (k : Ctx) (n cbase csize : Nat) : Option (Nat × Nat) :=
  let old := s.context n
  let size := s.fld (Reg.PEG_PART 0 k.part) 31 16
  if old.state = .destroying ∨ old.destroy.isSome then some (7, 0)
  else if old.state ≠ .free then some (6, old.state.code)
  else if s.fld (Reg.PART_STS k.part) 22 16 ≤ (s.ctxsOf k.part).length then some (8, 0)
  else
    match (List.range 96).find? fun l => bitOf k.cores l && (!s.ownsCore k.part l || s.withdrawn l) with
    | some l => some (0xF, l)
    | none =>
      if cbase % 64 ≠ 0 ∨ csize % 64 ≠ 0 ∨ size < cbase + csize then some (0xA, 0)
      else if (List.range 4).any (fun r => decide (k.coresIn r = 0) && decide (k.save.getD r 0 ≠ 0))
          || k.areas.any (fun e => decide (e.1 % 65536 ≠ 0) || !inStack e.1 e.2) then some (0xA, 0)
      else if (k.areas.zipIdx.any fun e => (s.saveAreas ++ s.placeAreas ++ s.segAreas ++ [handleArea] ++ k.areas.drop (e.2 + 1)).any
          (meets e.1)) then some (0x12, 0)
      else if (List.range 8).any fun i => decide (s.limT0 k.part i < s.useT0 k.part i + k.tier0 i) && decide (0 < k.tier0 i) then some (9, 0)
      else none

/-- Clear the registers of a context. -/
def ctxRegs (s : State) (x : Nat) : State :=
  let s := (List.range 16).foldl (fun s i =>
    (((s.setCfg (Reg.XLAT_SEG_W0 x i) 0#32).setCfg (Reg.XLAT_SEG_W1 x i) 0#32).setCfg (Reg.XLAT_SEG_W2 x i) 0#32).setCfg (Reg.XLAT_SEG_W3 x i) 0#32) s
  ((s.setCfg (Reg.XLAT_CTX x) 0#32).setCfg (Reg.PEG_CTX 0 x) 0#32).setBit (Reg.XLAT_FLT_W0 x) 31 false

end State

/-- CTX_CREATE. -/
def execCtxCreate (src : CmdSrc) (s : State) : Res :=
  done (s.withCmd src 0x0200 fun c s =>
    let k : Ctx := { state := .empty, part := c.part, cores := c.par 0 12, save := (List.range 4).map fun r => c.par (0x10 + 8 * r) 8 }
    match s.ctxBad k c.ctx (c.par 0xC 2) (c.par 0xE 2) with
    | some (st, d) => s.complete c st d
    | none =>
      let s := (s.ctxRegs c.ctx).setCtx c.ctx k
      let s := s.setCfg (Reg.XLAT_CTX c.ctx) (BitVec.ofNat 32 (2 ^ 31 + k.part * 2 ^ 24))
      (s.setCfg (Reg.PEG_CTX 0 c.ctx) (BitVec.ofNat 32 (c.par 0xE 2 * 65536 + c.par 0xC 2))).complete c 0)

/-! ### Segments (R263, R284) -/

namespace State

/-- Whether a flat device range lies where R263 allows it: in one stack, or in core stores the partition owns. -/
def flatDpaOk (s : State) (p a n : Nat) : Bool :=
  inStack a n ||
    match coreStoreAt a, coreStoreAt (a + n - 1) with
    | some (l, _), some (m, _) => (List.range (m + 1 - l)).all fun i => s.ownsCore p (l + i)
    | _, _ => false

/-- What refuses a segment descriptor for a context: the rows of R263 and the overlaps of R488. -/
def segBad (s : State) (x i : Nat) (g : Seg) : Option (Nat × Nat) :=
  let p := (s.context x).part
  let flat := decide (g.type < 2)
  let but := some (x, i)
  if 2 < g.type ∨ g.adv = 3 ∨ bitsOf g.w0 21 9 ≠ 0 ∨ bitsOf g.w1 31 28 ≠ 0 ∨ bitsOf g.w3 31 4 ≠ 0 ∨ !(g.rd || g.wr || g.atomics)
      ∨ (flat ∧ (g.host ∨ g.inStacks ≠ 0)) then some (0xB, 1)
  else if (List.range 8).any fun n => decide (0 < g.tier0 n) && decide (s.limT0 p n < s.useT0 p n but + g.tier0 n) then some (9, 0)
  else if 0 < g.tier1 ∧ s.limT1 p < s.useT1 p but + g.tier1 then some (9, 1)
  else if g.type = 0 ∧ !s.flatDpaOk p g.base g.bytes then some (0xB, 2)
  else if g.type = 2 ∧ (g.base % 0x20000 ≠ 0 ∨ !inStack g.base 0x20000 ∨ (g.inStacks = 0 ∧ !g.host)) then some (0xB, 4)
  else if g.type = 0 ∧ (handleArea :: s.saveAreas).any (meets (g.base, g.bytes)) then some (0x12, 0)
  else none

def putSeg (s : State) (x i : Nat) (g : Seg) : State :=
  (((s.setCfg (Reg.XLAT_SEG_W0 x i) (BitVec.ofNat 32 g.w0)).setCfg (Reg.XLAT_SEG_W1 x i) (BitVec.ofNat 32 g.w1)).setCfg
    (Reg.XLAT_SEG_W2 x i) (BitVec.ofNat 32 g.w2)).setCfg (Reg.XLAT_SEG_W3 x i) (BitVec.ofNat 32 g.w3)

/-- First and last DVA of a segment. -/
def segLo (i : Nat) : Nat := i * 2 ^ 44
def segHi (i : Nat) : Nat := i * 2 ^ 44 + 2 ^ 44 - 1

end State

/-- A descriptor's W0 without ADV and PIN, whose change alone needs no drain (R284). -/
def Seg.core0 (g : Seg) : Nat := g.w0 - bitsOf g.w0 24 22 * 2 ^ 22

/-- SEG_MAP: written; a change of a mapped segment has the mark and drain. -/
def execSegMap (src : CmdSrc) (s : State) : Res :=
  done (s.withCmd src 0x0202 fun c s =>
    let i := c.par 0 1
    let g : Seg := ⟨c.par 0x10 4, c.par 0x14 4, c.par 0x18 4, c.par 0x1C 4⟩
    if 15 < i then s.complete c 0xA
    else
      match s.segBad c.ctx i g with
      | some (st, d) => s.complete c st d
      | none =>
        let old := s.seg c.ctx i
        let s := s.putSeg c.ctx i g
        if old.valid ∧ !(old.core0 = g.core0 ∧ old.w1 = g.w1 ∧ old.w2 = g.w2 ∧ old.w3 = g.w3) then
          (s.running c).invalidate (some c) c.ctx (State.segLo i) (State.segHi i)
        else s.complete c 0)

/-- SEG_UNMAP: the segment is invalid at once, and the command completes after the mark and drain. -/
def execSegUnmap (src : CmdSrc) (s : State) : Res :=
  done (s.withCmd src 0x0203 fun c s =>
    let i := c.par 0 1
    if 15 < i then s.complete c 0xA
    else ((s.putSeg c.ctx i ⟨0, 0, 0, 0⟩).running c).invalidate (some c) c.ctx (State.segLo i) (State.segHi i))

/-- INVALIDATE: the whole context, one segment or a range (R282). -/
def execInvalidate (src : CmdSrc) (s : State) : Res :=
  done (s.withCmd src 0x0204 fun c s =>
    let i := c.par 1 1
    let a := c.par 8 8
    let n := c.par 0x10 8
    let go (lo hi : Nat) : State := (s.running c).invalidate (some c) c.ctx lo hi
    if c.par 0 1 = 0 then go 0 (2 ^ 48 - 1)
    else if c.par 0 1 = 1 then (if 15 < i then s.complete c 0xA else go (State.segLo i) (State.segHi i))
    else if n = 0 ∨ 2 ^ 48 < a + n then s.complete c 0xA
    else go a (a + n - 1))

namespace State

/-- Walk the pages of a range in order, in every region named; whether the 257th was reached. -/
def walkPages (regions x hi : Nat) : Nat → Nat → State → Bool × State
  | 0, a, s => (decide (a < hi), s)
  | n + 1, a, s =>
    if hi ≤ a then (false, s)
    else
      let rs := (List.range 4).filter fun r => bitOf regions r
      let m := s.pageSize (rs.headD 0) x a
      walkPages regions x hi n (a - a % m + m) (rs.foldl (fun s r => s.xprefetch r x a) s)

end State

/-- PREFETCH_XLAT (R287). -/
def execPrefetchXlat (src : CmdSrc) (s : State) : Res :=
  done (s.withCmd src 0x0205 fun c s =>
    let a := c.par 8 8
    let n := c.par 0x10 8
    if n = 0 ∨ 2 ^ 48 < a + n then s.complete c 0xA
    else
      let o := State.walkPages (c.par 0 1) c.ctx (a + n) 256 a s
      o.2.complete c (if o.1 then 0xA else 0))

/-- ADVISE: ADV and PIN of a mapped segment, for requests translated after it (R284, R287). -/
def execAdvise (src : CmdSrc) (s : State) : Res :=
  done (s.withCmd src 0x0206 fun c s =>
    let i := c.par 0 1
    let g := s.seg c.ctx i
    if 15 < i then s.complete c 0xA
    else if !g.valid then s.complete c 6
    else (s.setFld (Reg.XLAT_SEG_W0 c.ctx i) 24 22 (c.par 1 1 + 4 * b2n (bitOf (c.par 2 1) 0))).complete c 0)

end Sys2Proof.Machine
end

