-- ==== Sys2Proof/Machine/LineCode.lean ====
section
/-!
DEFINITION. What the lanes of a lode carry: R382 to R384, R388, R394. The symbols of a block from its 645 information
bytes, the lane and place of each, the symbols of a marker and of a fill.
-/
namespace Sys2Proof.Machine

/-! ### The field GF(2^10) and the code RS(272,258) (R382) -/

/-- Twice an element: one shift, reduced by x^10 + x^3 + 1. -/
def gfTwice (a : Nat) : Nat := if a * 2 < 1024 then a * 2 else Nat.xor (a * 2) 0x409

/-- The product of two elements, by the low `n` bits of the second. -/
def gfMulBits : Nat → Nat → Nat → Nat
  | 0, _, _ => 0
  | n + 1, a, b => Nat.xor (if b % 2 = 1 then a else 0) (gfMulBits n (gfTwice a) (b / 2))

def gfMul (a b : Nat) : Nat := gfMulBits 10 a b

/-- A polynomial, highest degree first, times x - r. -/
def polyByRoot (p : List Nat) (r : Nat) : List Nat := (p ++ [0]).zipWith Nat.xor (0 :: p.map (gfMul r))

/-- (x - r)(x - α r) and so on, `n` factors. -/
def rootsPoly : Nat → Nat → List Nat
  | 0, _ => [1]
  | n + 1, r => polyByRoot (rootsPoly n (gfTwice r)) r

/-- The generator polynomial without its leading 1. -/
def rsGen : List Nat := (rootsPoly 14 1).drop 1

/-- The remainder kept after one more information symbol. -/
def rsNext (reg : List Nat) (sym : Nat) : List Nat :=
  let f := Nat.xor (reg.headD 0) sym
  (reg.drop 1 ++ [0]).zipWith Nat.xor (rsGen.map (gfMul f))

/-- The 14 parity symbols of a codeword's information symbols, highest degree first. -/
def rsParity (info : List Nat) : List Nat := info.foldl rsNext (List.replicate 14 0)

/-- A polynomial, highest degree first, at a point. -/
def gfEval (p : List Nat) (x : Nat) : Nat := p.foldl (fun v c => Nat.xor (gfMul v x) c) 0

/-! ### Blocks (R383, R384) -/

/-- Symbols of 10 bits, the lower position in bit 0. -/
def symbolsOf : Nat → Nat → List Nat
  | 0, _ => []
  | n + 1, v => v % 1024 :: symbolsOf n (v / 1024)

/-- Every second element. -/
def everySecond : List Nat → List Nat
  | [] => []
  | [a] => [a]
  | a :: _ :: l => a :: everySecond l

/-- The elements of two lists in turn. -/
def inTurn : List Nat → List Nat → List Nat
  | a :: as, b :: bs => a :: b :: inTurn as bs
  | as, bs => as ++ bs

/-- The 544 channel symbols of a block's 645 information bytes. -/
def blockSymbols (info : List Byte) : List Nat :=
  let s := symbolsOf 516 (ofLe info)
  s ++ inTurn (rsParity (everySecond s)) (rsParity (everySecond (s.drop 1)))

/-- A block's information bytes: header, body and the 16 bytes of its tag. -/
def blockBytes (header : Nat) (body tag : List Byte) : List Byte := leBytes 5 header ++ body ++ tag

/-! ### Lanes (R383, R394, R395) -/

/-- Lanes of a width code. -/
def lanesOf (w : Nat) : Nat := if w = 0 then 8 else if w = 1 then 4 else 2

/-- The lane that carries channel symbol `i` at a width and group, and the symbol's number on that lane. -/
def laneOf (w g i : Nat) : Nat := lanesOf w * g + i / 2 % lanesOf w
def laneSlot (w i : Nat) : Nat := 2 * (i / (2 * lanesOf w)) + i % 2

/-- The 64 channel symbols of a lane marker. -/
def markerSymbols (lane w g : Nat) : List Nat :=
  (List.range 62).map (fun k => if k % 2 = 0 then 0x3C5 else 0x23A) ++ [lane % 8, w % 4 * 256 + g % 8]

/-- The channel symbols of a fill on each lane (R388). -/
def fillSymbols (fill : Nat) : List Nat := (List.replicate fill [0x155, 0x2AA]).flatten

end Sys2Proof.Machine
end

