-- ==== Sys2Proof/Machine/Hand.lean ====
section
/-!
DEFINITION. Hands: their containers and loading (R200 to R206), LAUNCH, CANCEL, PREEMPT, RESUME and QUERY (R482 to R492,
R499), and what a Round boundary and a peg's readiness do for them.
-/
namespace Sys2Proof.Machine

/-! ### Reads that a command makes (R337, R479) -/

/-- What a command's read brought: its bytes with their poison, and whether a read of host memory ended without data. -/
structure CmdRead where
  bytes : List (Byte × Bool)
  hostEnd : Bool
  deriving DecidableEq, Repr

namespace State

/-- Read a translated run line by line. -/
def readPieces (s : State) (w : Who) (fills : List HostFill) : List (Phys × Nat × Nat) → CmdRead × State
  | [] => (⟨[], false⟩, s)
  | (p, n, adv) :: l =>
    let d := s.readRun w fills 0 [(p, n, adv)]
    let e := d.2.readPieces w fills l
    let host := match p with
      | .hpa _ => d.1.quiet
      | .dpa _ => false
    (⟨(d.1.data.map fun b => (b, d.1.poison)) ++ e.1.bytes, host || e.1.hostEnd⟩, e.2)

/-- Read bytes through the segments of a command's context; a fault of an earlier try that is still under way holds it. -/
def readCmd (s : State) (x : Nat) (fills : List HostFill) (a n : Nat) : Except Held CmdRead × State :=
  let w : Who := ⟨.bittern, some x, s.ctxCls x, none, .bittern⟩
  if s.xl.faults.any fun f => decide (f.ctx = x) && decide (f.req = agentReq .bittern) then (.error .wait, s)
  else
    let o := s.xlateAll w x 0 0 (linesOf a n)
    match o.1 with
    | .error h => (.error h, o.2)
    | .ok ps =>
      if o.2.allReady w false ps then
        let d := o.2.readPieces w fills ps
        (.ok d.1, d.2)
      else (.error .wait, s)

end State

/-! ### The container (R200 to R203) -/

/-- `n` bytes at `o` of a container. -/
def cat (b : List Byte) (o n : Nat) : Nat := ofLe ((b.drop o).take n)

/-- A core record and a section entry. -/
structure HandCore where
  group : Nat
  entry : Nat
  rows : Nat
  data : Nat
  deriving DecidableEq, Repr

structure Section where
  type : Nat
  core : Nat
  off : Nat
  len : Nat
  dest : Nat
  deriving DecidableEq, Repr

def handCores (b : List Byte) : List HandCore :=
  (List.range (cat b 0x10 2)).map fun h =>
    let o := cat b 0x20 8 + 16 * h
    ⟨cat b o 1, cat b (o + 2) 2, cat b (o + 4) 4, cat b (o + 8) 4⟩

def handSections (b : List Byte) : List Section :=
  (List.range (cat b 0x12 2)).map fun i =>
    let o := cat b 0x28 8 + 32 * i
    ⟨cat b o 2, cat b (o + 2) 2, cat b (o + 8) 8, cat b (o + 16) 8, cat b (o + 24) 4⟩

/-- Table areas a core needs, and the bytes of its data area (R136, R205). -/
def HandCore.t (h : HandCore) : Nat := (h.rows + 2047) / 2048
def HandCore.area (h : HandCore) : Nat := 0x800000 - 0x10000 * h.t

/-- Header, integrity, capability and section rows of R203. -/
def headerOk (b : List Byte) : Bool :=
  decide (64 ≤ b.length) && decide (cat b 0 4 = 0x444E4856) && decide (cat b 4 1 = 3) && decide (cat b 5 1 = 0)
    && decide (cat b 6 2 = 64) && decide (cat b 8 8 = b.length) && decide (cat b 0x10 2 ≠ 0)
    && decide (cat b 0x20 8 + 16 * cat b 0x10 2 ≤ b.length) && decide (cat b 0x28 8 + 32 * cat b 0x12 2 ≤ b.length)
    && decide (cat b 0x15 3 = 0) && decide (cat b 0x1E 2 = 0) && decide (cat b 0x34 12 = 0)
    && (List.range (cat b 0x10 2)).all fun h =>
      decide (cat b (cat b 0x20 8 + 16 * h + 1) 1 = 0) && decide (cat b (cat b 0x20 8 + 16 * h + 12) 4 = 0)

def crcOk (b : List Byte) : Bool := decide (cat b 0x30 4 = crc32c (b.take 0x30 ++ leBytes 4 0 ++ b.drop 0x34))

def handFits (b : List Byte) (window : Nat) : Bool :=
  decide (cat b 0x1C 2 < 1024) && decide (cat b 0x18 4 ≤ window)
    && (handCores b).all fun h => decide (h.group < 4) && decide (h.rows ≤ 16384) && decide (h.data ≤ h.area) && decide (h.entry < h.rows)

def sectionOk (b : List Byte) (i : Nat) (x : Section) : Bool :=
  let o := cat b 0x28 8 + 32 * i
  let hs := handCores b
  decide (1 ≤ x.type) && decide (x.type ≤ 4) && decide (cat b (o + 4) 4 = 0) && decide (cat b (o + 28) 4 = 0)
    && decide (x.off + x.len ≤ b.length)
    && (if x.type < 3 then
        match hs[x.core]? with
        | none => false
        | some h =>
          if x.type = 1 then decide (x.len % 32 = 0) && decide (x.dest + x.len / 32 ≤ h.rows)
          else decide (x.dest + x.len ≤ h.area)
      else decide (x.core = 0) && decide (x.dest = 0) && (x.type ≠ 3 || decide (x.len % 8 = 0)))

/-- The core store run of a TABLE or DATA section, in rows or bytes. -/
def Section.run (x : Section) : Nat × Nat := (x.dest, if x.type = 1 then x.len / 32 else x.len)

def sectionsOk (b : List Byte) : Bool :=
  let xs := handSections b
  xs.zipIdx.all fun e =>
    sectionOk b e.2 e.1 && (xs.drop (e.2 + 1)).all fun y => !(decide (e.1.type < 3) && decide (y.type = e.1.type) && decide (y.core = e.1.core)
      && meets e.1.run y.run)

def sectionBytes (b : List Byte) (x : Section) : List Byte := (b.drop x.off).take x.len

/-- The core store that hand core h starts with (R205). -/
def loadStore (b : List Byte) (h : Nat) (c : HandCore) (k : Core) : Core :=
  (handSections b).foldl (fun k x =>
    if x.core ≠ h ∨ 2 < x.type then k
    else k.put (if x.type = 1 then rowOff c.t x.dest else x.dest) (sectionBytes b x)) k

/-- PEGPLAN: index and target of each entry. -/
def pegPlan (b : List Byte) : List (Nat × Nat) :=
  ((handSections b).filter fun x => decide (x.type = 3)).flatMap fun x =>
    (List.range (x.len / 8)).map fun i => (cat b (x.off + 8 * i) 4, cat b (x.off + 8 * i + 4) 4)

/-- Take each hand core's logical core from what its region has left (R204). -/
def bindCores (map : Nat → Option Nat) : List HandCore → List Nat → Option (List (Nat × HandCore))
  | [], _ => some []
  | h :: hs, free =>
    match (map h.group).bind fun r => free.find? fun l => decide (l / 24 = r) with
    | none => none
    | some l => (bindCores map hs (free.erase l)).map ((l, h) :: ·)

namespace State

/-- The first check of R203 that a container fails, by its row, or the bindings of its hand cores. -/
def handCheck (s : State) (x : Nat) (b : List Byte) (map : Nat → Option Nat) : Except Nat (List (Nat × HandCore)) :=
  let window := s.fld (Reg.PEG_CTX 0 x) 31 16
  let rowsOk : Bool := (handCores b).zipIdx.all fun e =>
    let k := loadStore b e.2 e.1 { tbl := e.1.t }
    let v : RowEnv := ⟨k, true, window, s.ownedEngines x ((map e.1.group).getD 0)⟩
    ((handSections b).filter fun y => decide (y.type = 1) && decide (y.core = e.2)).all fun y =>
      (List.range (y.len / 32)).all fun i => rowOk v (wordsOf ((b.drop (y.off + 32 * i)).take 32))
  if !headerOk b then .error 1
  else if !crcOk b then .error 2
  else if cat b 0x14 1 ≠ 0xFF ∧ cat b 0x14 1 ≠ s.roundPeriod then .error 3
  else if !handFits b window then .error 4
  else if !sectionsOk b then .error 5
  else if !rowsOk then .error 6
  else
    match bindCores map (handCores b) ((List.range 96).filter fun l => bitOf (s.context x).cores l) with
    | none => .error 7
    | some bs => .ok bs

/-- A logical core that a context cannot bind: withdrawn, or held by another context. -/
def coreTaken (s : State) (x l : Nat) : Bool :=
  match s.coreOf l with
  | none => true
  | some c => match (s.core c).ctx with
    | some y => decide (y ≠ x)
    | none => false

/-- Bind one logical core and fill its core store (R205). -/
def loadCore (s : State) (x : Nat) (b : List Byte) (h : Nat) (e : Nat × HandCore) : State :=
  match s.coreOf e.1 with
  | none => s
  | some c =>
    let k := s.core c
    let k : Core := { k with
      ctx := some x, tbl := e.2.t, store := [], poison := [], wb := [], seq := .ready, row := e.2.entry, calls := [], loops := []
      window := [], parked := false, wait := none, stop := none, halt := false, enq := none, eng := [], ranges := [] }
    let s := s.setCore c (loadStore b h e.2 k)
    (s.setCfg (Reg.SEQ_FAULT (c / 26) (c % 26)) 0#32).setFld (Reg.CSTORE_STS (c / 26) (c % 26)) 11 8 e.2.t

end State

/-- HAND_LOAD: the container is read through the context's segments and checked whole; then the cores are bound and
their core stores written. A core in OFF leaves it first. -/
def execHandLoad (src : CmdSrc) (fills : List HostFill) (s : State) : Res :=
  done (s.withCmd src 0x0207 fun c s =>
    let x := c.ctx
    let k := s.context x
    let a := c.par 0 8
    let n := c.par 8 8
    let map (g : Nat) : Option Nat := if bitOf (c.at (0x40 + g) 1) 7 then some (c.at (0x40 + g) 1 % 4) else none
    if k.state ≠ .empty then s.complete c 6 k.state.code
    else if n = 0 ∨ 2 ^ 48 < a + n then s.complete c 0xA
    else
      let r := s.readCmd x fills a n
      match r.1 with
      | .error .wait => s
      | .error (.fault f) => r.2.xfault f
      | .ok g =>
        let s := r.2
        let data := g.bytes.map (·.1)
        if g.hostEnd then s.complete c 0x11
        else if g.bytes.any (·.2) then s.complete c 0xC 2
        else
          match s.handCheck x data map with
          | .error row => s.complete c 0xC row
          | .ok bs =>
            match bs.find? fun e => s.coreTaken x e.1 with
            | some e => s.complete c 0xF e.1
            | none =>
              let phys := bs.filterMap fun e => s.coreOf e.1
              if phys.any fun i => decide ((s.core i).pwr ≠ .run) then phys.foldl (fun s i => s.coreOn i) s
              else
                let s := bs.zipIdx.foldl (fun s e => s.loadCore x data e.2 e.1) s
                let hand : Hand := { period := cat data 0x14 1, plan := pegPlan data, binds := bs.map fun e => (e.1, e.2.entry) }
                (s.modCtx x fun k => { k with state := .loaded, hand := some hand, causes := [], lost := [] }).complete c 0)

/-! ### LAUNCH (R484, R485, R206) -/

namespace State

/-- The lead of a launch in Rounds. -/
def lead (s : State) (n : Nat) : Nat := 2 + (1000 * n + 65536 * 2 ^ s.round.period - 1) / (65536 * 2 ^ s.round.period)

/-- The base Round is fixed: PEGPLAN is applied and the sequencers take the base. -/
def fixBase (s : State) (x base : Nat) : State :=
  let k := s.context x
  let plan := (k.hand.map (·.plan)).getD []
  let s := s.setCtx x { k with base := some base, gate := none }
  let s := plan.foldl (fun s e =>
    match s.pegOfCtx x e.1 with
    | some p => s.pegCycle p [.reset, .arm e.2 0]
    | none => s) s
  (s.coresOf x).foldl (fun s c =>
    let s := s.modCore c fun k => { k with base := base }
    (s.setCfg (Reg.SEQ_BASE_LO (c / 26) (c % 26)) (BitVec.ofNat 32 base)).setCfg (Reg.SEQ_BASE_HI (c / 26) (c % 26))
      (BitVec.ofNat 32 (base / 2 ^ 32))) s

/-- A hand's PERIOD rules it out: the Round unit is in OFF or ACQUIRE, or another period is in force. -/
def periodBad (s : State) (x : Nat) : Bool :=
  match (s.context x).hand with
  | some h => decide (s.roundPeriod = 0xFF) || decide (h.period ≠ 0xFF ∧ h.period ≠ s.roundPeriod)
  | none => true

end State

/-- LAUNCH. -/
def execLaunch (src : CmdSrc) (s : State) : Res :=
  done (s.withCmd src 0x0208 fun c s =>
    let x := c.ctx
    let k := s.context x
    let rel := bitOf (c.par 8 1) 0
    let gate := bitOf (c.par 8 1) 1
    let hand : Hand := k.hand.getD ⟨0xFF, [], []⟩
    let lead := s.lead hand.plan.length
    let base := if rel then s.rnd + c.par 0 8 else c.par 0 8
    let armed (k : Ctx) : Ctx := { k with state := .armed, launch := some c, op := s.heron.opDef, causes := [], lastHalt := 0 }
    if k.state ≠ .loaded then s.complete c 6 k.state.code
    else if s.periodBad x then s.complete c 0xD s.round.state.code
    else
      match hand.binds.find? fun e => s.coreTaken x e.1 with
      | some e => s.complete c 0xF e.1
      | none =>
        if hand.plan.any fun e => (s.pegOfCtx x e.1).isNone then s.complete c 0xA
        else if !gate then
          if base < s.rnd + lead then s.complete c 0xE
          else (((s.running c).modCtx x armed).fixBase x base)
        else
          match s.pegOfPart k.part (c.par 0xA 2) with
          | none => s.complete c 0xA
          | some p =>
            let used := (List.range 64).filter fun y => decide (((s.context y).gate.map pegRegion) = some (pegRegion p))
            if 64 ≤ used.length then s.complete c 8
            else ((s.running c).modCtx x fun k => { armed k with gate := some p, gateRnd := c.par 0 8 }).pegDo p (.wait (.launch x)))

/-- PEG_READY_WAKE: readiness number `i` of those under way reaches its waiter (R218). A launch gate's release fixes
the base Round at the larger of RND and the lead from now. -/
def execPegReadyWake (i : Nat) (s : State) : Res :=
  match s.wakes[i]? with
  | none => done s
  | some (p, w) =>
    when (!s.sump.fatal) (fun s =>
      let s := { s with wakes := s.wakes.filter fun e => decide (e ≠ (p, w)) }
      match w with
      | .seq c => if (s.core c).seq = .wait ∧ !(s.core c).isolated ∧ (s.core c).stop = none then s.releaseWait c else s
      | .ce e => (s.engLists e).foldl (fun s l => if l.2.st = .gated then s.setList l.1 { l.2 with st := .running, open_ := true } else s) s
      | .fab r => (s.engLists (16 + r)).foldl (fun s l => if l.2.st = .gated then s.setList l.1 { l.2 with st := .running, open_ := true } else s) s
      | .launch x =>
        let k := s.context x
        if k.state = .armed ∧ k.gate = some p then
          s.fixBase x (s.rnd + max k.gateRnd (s.lead ((k.hand.map (·.plan.length)).getD 0)))
        else s) s

/-! ### Stops (R486, R487) -/

namespace State

/-- Ask every core of a context to stop for a cancel or a preemption, whatever stop it is under. -/
def stopHand (s : State) (x : Nat) (why : Stop) : State :=
  (s.coresOf x).foldl (fun s c =>
    let q := (s.core c).seq
    if q = .draining ∨ q = .suspended then s.modCore c fun k => { k with stop := some why } else s.stopCore why c) s

/-- CANCEL of a context that is PREEMPTED: its images are discarded. -/
def cancelPreempted (s : State) (x : Nat) (c : Cmd) : State := (s.complete c 0).handEnd x 0x14

/-- CANCEL of a running or suspended hand: it stops, and the command waits for its drain. -/
def cancelRunning (s : State) (x : Nat) (c : Cmd) : State :=
  ((((s.running c).modCtx x fun k => { k with cancel := some c }).stopHand x .cancel)).cancelDone x

/-- Whether a context's cores have all stopped with nothing left to drain. -/
def handStill (s : State) (x : Nat) : Bool :=
  (s.coresOf x).all fun c => let k := s.core c; k.seq == .halted || k.isolated || (k.parked && k.drained)

end State

/-- CANCEL. -/
def execCancel (src : CmdSrc) (s : State) : Res :=
  done (s.withCmd src 0x0209 fun c s =>
    let x := c.ctx
    let k := s.context x
    if k.state = .armed then
      let s := (s.unwait (.launch x)).complete c 0
      let s := s.modCtx x fun k => { k with state := .loaded, launch := none, base := none, gate := none }
      match k.launch with
      | some l => s.complete l 0x14 0 0 (k.base.getD 0)
      | none => s
    else if k.cancel.isSome then s.complete c 6 k.state.code
    else if k.state = .preempting ∨ k.state = .resuming ∨ (k.state = .suspended ∧ k.goes) then
      (s.running c).modCtx x fun k => { k with cancel := some c }
    else if k.state = .running ∨ k.state = .suspended then s.cancelRunning x c
    else if k.state = .preempted then s.cancelPreempted x c
    else s.complete c 6 k.state.code)

/-- PREEMPT: accepted in RUNNING and SUSPENDED; a context that a RESUME or a CANCEL holds is in neither for it. -/
def execPreempt (src : CmdSrc) (s : State) : Res :=
  done (s.withCmd src 0x020A fun c s =>
    let x := c.ctx
    let k := s.context x
    if (k.state ≠ .running ∧ k.state ≠ .suspended) ∨ k.goes ∨ k.cancel.isSome then s.complete c 6 k.state.code
    else ((s.running c).setCtx x { k with state := .preempting, preempt := some c }).stopHand x .preempt)

namespace State

/-- A core's image (R198): what it holds, and its four flag words. -/
def imageOf (s : State) (c : Nat) : Image :=
  ⟨(s.core c).lcore.getD 0, s.core c, [s.cfg (Reg.ARITH_FLAGS_ME (c / 26) (c % 26)), s.cfg (Reg.ARITH_FLAGS_VE (c / 26) (c % 26)),
    s.cfg (Reg.ARITH_FLAGS_TU (c / 26) (c % 26)), s.cfg (Reg.ARITH_FLAGS_SE (c / 26) (c % 26))]⟩

end State

/-- A core with the state of an image: what belongs to the physical core stays. -/
def Core.restored (k : Core) (x : Nat) (m : Core) : Core :=
  { k with
    ctx := some x, tbl := m.tbl, store := m.store, poison := m.poison, seq := if m.seq = .halted then .halted else .suspended
    row := m.row, calls := m.calls, loops := m.loops, base := m.base, window := [], parked := true, wait := none, stop := none
    halt := m.halt, enq := none, eng := m.eng, nextId := m.nextId, ranges := m.ranges, acc := m.acc }

/-- PREEMPT_SAVE_DONE: every image of the context is written; the cores are released and the command completes. A CANCEL
or a CTX_DESTROY that waited then acts (R487, R499). -/
def execPreemptSaveDone (ctx : Fin 64) (s : State) : Res :=
  let x := ctx.val
  let k := s.context x
  when (k.state == .preempting && s.handStill x && !s.sump.fatal) (fun s =>
    let cs := s.coresOf x
    let images := (cs.filter fun c => !(s.core c).isolated).map s.imageOf
    let s := s.releaseCores x
    let s := s.setCtx x { k with state := .preempted, preempt := none, cancel := none, images := images }
    let s := match k.preempt with
      | some c => s.complete c 0
      | none => s
    match k.cancel with
    | some c => s.cancelPreempted x c
    | none => s) s

/-! ### RESUME (R490, R491, R199) -/

namespace State

/-- What a suspension cause still forbids: the status and detail of R491. -/
def persists (s : State) (x : Nat) : Option (Nat × Nat) :=
  let k := s.context x
  if Cause.thermal ∈ k.causes ∧ k.thermal ≠ [] then some (6, 5)
  else if Cause.round ∈ k.causes ∧ s.periodBad x then some (0xD, s.round.state.code)
  else if Cause.core ∈ k.causes then some (0xF, k.lost.headD 0)
  else none

/-- Clear what RESUME clears; the context goes on at the next boundary at which it is ready. -/
def clearCauses (s : State) (x : Nat) : State :=
  (s.clearFault x).modCtx x fun k => { k with causes := [], thermal := [], goes := true }

end State

/-- RESUME. -/
def execResume (src : CmdSrc) (s : State) : Res :=
  done (s.withCmd src 0x020B fun c s =>
    let x := c.ctx
    let k := s.context x
    if k.goes ∨ k.cancel.isSome then s.complete c 6 k.state.code
    else if k.state = .suspended then
      match s.persists x with
      | some (st, d) => s.complete c st d
      | none => ((s.running c).clearCauses x).modCtx x fun k => { k with resume := some c }
    else if k.state = .preempted then
      let binds := (k.hand.map (·.binds)).getD []
      match k.lost.head?.or ((binds.find? fun e => s.coreTaken x e.1).map (·.1)) with
      | some l => s.complete c 0xF l
      | none =>
        if s.periodBad x then s.complete c 0xD s.round.state.code
        else
          let s := (s.running c).setCtx x { k with state := .resuming, resume := some c }
          (binds.filterMap fun e => s.coreOf e.1).foldl (fun s i => (s.coreOn i).modCore i fun q => { q with ctx := some x }) s
    else s.complete c 6 k.state.code)

/-- RESUME_RESTORE_DONE: every image is read back and checked; `bad` names a logical core whose image fails its CRC, and
the context stays PREEMPTED. A cause that came meanwhile is cleared or persists as for SUSPENDED (R490, R499). -/
def execResumeRestoreDone (ctx : Fin 64) (bad : Option (Fin 96)) (s : State) : Res :=
  let x := ctx.val
  let k := s.context x
  let cs := s.coresOf x
  when (k.state == .resuming && !k.goes && !s.sump.fatal && cs.all (fun c => (s.core c).pwr == .run)) (fun s =>
    match bad with
    | some l =>
      let s := (s.releaseCores x).modCtx x fun k => { k with state := .preempted, resume := none, cancel := none }
      let s := match k.resume with
        | some c => s.complete c 0x15 l
        | none => s
      match k.cancel with
      | some c => s.cancelPreempted x c
      | none => s
    | none =>
      let s := cs.foldl (fun s c =>
        match k.images.find? fun m => decide (some m.lcore = (s.core c).lcore) with
        | none => s
        | some m =>
          let r := c / 26
          let i := c % 26
          let s := s.setCore c ((s.core c).restored x m.core)
          let s := (((s.setCfg (Reg.ARITH_FLAGS_ME r i) (m.flags.getD 0 0#32)).setCfg (Reg.ARITH_FLAGS_VE r i) (m.flags.getD 1 0#32)).setCfg
            (Reg.ARITH_FLAGS_TU r i) (m.flags.getD 2 0#32)).setCfg (Reg.ARITH_FLAGS_SE r i) (m.flags.getD 3 0#32)
          let s := (s.setCfg (Reg.SEQ_BASE_LO r i) (BitVec.ofNat 32 m.core.base)).setCfg (Reg.SEQ_BASE_HI r i)
            (BitVec.ofNat 32 (m.core.base / 2 ^ 32))
          s.setFld (Reg.CSTORE_STS r i) 11 8 m.core.tbl) s
      let s := s.modCtx x fun k => { k with images := [] }
      match s.persists x with
      | some (st, d) =>
        let s := s.modCtx x fun k => { k with state := .suspended, resume := none, cancel := none }
        let s := match k.resume with
          | some c => s.complete c st d
          | none => s
        match k.cancel with
        | some c => s.cancelRunning x c
        | none => s
      | none => s.clearCauses x) s

/-! ### Round boundaries (R206, R490, R254) -/

namespace State

/-- The cores of a context start or go on. -/
def goCores (s : State) (x : Nat) : State :=
  (s.coresOf x).foldl (fun s c => s.modCore c fun k =>
    if k.seq = .halted then { k with stop := none, parked := false }
    else
      let k := match k.queue 7 with
        | t :: rest => k.setQueue 7 ({ t with stopped := false } :: rest)
        | [] => k
      { k with seq := .run, stop := none, parked := false, wait := none }) s

/-- The hand of a context that has reached its boundary runs (RESUME completes in that cycle, or an automatic resume is
posted); what met it meanwhile then acts. -/
def goOn (s : State) (x : Nat) : State :=
  let k := s.context x
  let s := (s.setCtx x { k with state := .running, goes := false, resume := none, causes := [], cancel := none }).goCores x
  let s := match k.resume with
    | some c => s.complete c 0
    | none => s.event k.part 2 0 x
  match k.cancel with
  | some c => s.cancelRunning x c
  | none => k.causes.foldl (fun s c => s.suspend x c) (s.handDone x)

/-- Whether every core of a context stands ready at its resume row. -/
def resumeReady (s : State) (x : Nat) : Bool :=
  (s.coresOf x).all fun c =>
    let k := s.core c
    k.seq == .halted || (k.seq == .suspended && k.parked && k.drained && k.windowFull)

/-- What a Round boundary does for one context: a launch whose base Round has come starts, and a resume whose cores are
ready takes effect. -/
def startHand (s : State) (x : Nat) : State :=
  let k := s.context x
  if k.state = .armed then
    match k.base with
    | some b => if b ≤ s.rnd then
        (s.setCtx x { k with state := .running }).goCores x
      else s
    | none => s
  else if (k.state = .suspended ∨ k.state = .resuming) ∧ k.goes ∧ s.resumeReady x then s.goOn x
  else s

def startHands (s : State) : State := (List.range 64).foldl (fun s x => s.startHand x) s

/-- A region has left throttle level 3: a context with no other cause goes on by itself (R491, R254). -/
def thermalOver (s : State) (r : Nat) : State :=
  (List.range 64).foldl (fun s x =>
    let k := s.context x
    if r ∈ k.thermal then
      let rest := k.thermal.filter (· ≠ r)
      let s := s.setCtx x { k with thermal := rest }
      if rest = [] ∧ k.causes = [.thermal] ∧ k.state = .suspended ∧ !k.goes ∧ k.cancel = none then s.clearCauses x else s
    else s) s

end State

/-! ### QUERY (R492) -/

/-- The cores a context has bound: the logical cores of its hand while it holds them, a withdrawn one among them (R482,
R484). -/
def State.boundCores (s : State) (x : Nat) : Nat :=
  let k := s.context x
  match k.state with
  | .loaded | .armed | .running | .suspended | .preempting | .resuming => k.hand.elim 0 fun h => h.binds.length
  | .free | .empty | .preempted | .destroying => 0

/-- QUERY_CONTEXT. -/
def execQueryContext (src : CmdSrc) (s : State) : Res :=
  done (s.withCmd src 0x020C fun c s =>
    if c.par 0 1 ≠ 0 then s
    else
      let k := s.context c.ctx
      let cs := s.coresOf c.ctx
      let halted := (cs.filter fun i => (s.core i).seq == .halted).length
      s.complete c 0 0 0 (k.state.code + s.boundCores c.ctx * 256 + halted * 65536 + ((k.causes.head?.map (·.code)).getD 0) * 2 ^ 24)
        (k.base.getD 0))

namespace State

/-- The list that a command submitted, the newest first. -/
def listOfCmd (s : State) (src : CmdSrc) : Option (Nat × CList) :=
  (s.lists.filter fun e => decide (e.2.cmd.map (·.src) = some src)).foldl (fun o e =>
    match o with
    | some f => if f.2.id < e.2.id then some e else o
    | none => some e) none

end State

def LState.code : LState → Nat
  | .accepted => 0 | .running => 1 | .gated => 2 | .stopped => 3 | .ending => 4

/-- QUERY_LIST: a list of another partition is out of reach (DEDUCED). -/
def execQueryList (src : CmdSrc) (s : State) : Res :=
  done (s.withCmd src 0x020C fun c s =>
    if c.par 0 1 ≠ 1 then s
    else
      match s.listOfCmd ⟨c.par 2 2, c.par 4 2⟩ with
      | none => s.complete c 0xA
      | some (k, l) =>
        if c.cls ≠ 15 ∧ (s.context l.ctx).part ≠ c.cls then s.complete c 3
        else
          let s1 := s.listPos k l
          s.complete c 0 0 l.flags.toNat s1 (l.permille (decide (16 ≤ k / 64)) + l.st.code * 2 ^ 10 + l.status * 2 ^ 13))

end Sys2Proof.Machine
end

