-- ==== Sys2Proof/Machine/UnitCmds.lean ====
section
/-!
DEFINITION. Commands on the device cache, the bias table, lists, pegs, connections, handles and placement windows: R211,
R306, R307, R337, R366, R367, R411 to R414, R425 to R427, R440, R441, R450, R452, R480, R494.
-/
namespace Sys2Proof.Machine

/-! ### Device-cache maintenance (R306, R307) -/

namespace State

/-- Start one maintenance operation of a DC_MAINT command, where the row's OP is the command's. While another runs, in INIT,
or while the link is in HOLD, it waits (R306, R575). -/
def dcCmd (s : State) (src : CmdSrc) (op : Nat) : State :=
  s.withCmd src 0x0008 fun c s =>
    let hpa := c.par 8 8
    let bySet := decide (c.par 1 1 = 1)
    if c.par 0 1 ≠ op ∨ 1 < c.par 1 1 then s
    else if (bySet ∧ (c.par 6 2 = 0 ∨ 16384 < c.par 4 2 + c.par 6 2)) ∨ hpa % 64 ≠ 0 ∨ 2 ^ 52 ≤ hpa then s.complete c 0xA
    else if s.dc.op.isSome ∨ (s.dc.state ≠ .run ∧ s.dc.state ≠ .maint) ∨ s.hl.attach = .hold then s
    else (s.running c).dcOpStart op bySet (hpa / 64) (c.par 4 2) (c.par 6 2) (c.par 2 2) (some c)

/-- Move the device cache between RUN and MAINT (R305). -/
def dcMode (s : State) (src : CmdSrc) (scope : Nat) (old new : DcState) : State :=
  s.withCmd src 0x0008 fun c s =>
    if c.par 1 1 ≠ scope then s
    else if s.dc.op.isSome ∨ s.dc.state = .init then s
    else if s.dc.state ≠ old then s.complete c 6 s.dc.state.code
    else (s.setDc { s.dc with state := new }).complete c 0

end State

/-- DC_CLEAN. -/
def execDcClean (src : CmdSrc) (s : State) : Res := done (s.dcCmd src 1)

/-- DC_INVALIDATE. -/
def execDcInvalidate (src : CmdSrc) (s : State) : Res := done (s.dcCmd src 2)

/-- DC_CLEAN_INVALIDATE. -/
def execDcCleanInvalidate (src : CmdSrc) (s : State) : Res := done (s.dcCmd src 3)

/-- ENTER_MAINT. -/
def execEnterMaint (src : CmdSrc) (s : State) : Res := done (s.dcMode src 2 .run .maint)

/-- LEAVE_MAINT. -/
def execLeaveMaint (src : CmdSrc) (s : State) : Res := done (s.dcMode src 3 .maint .run)

/-! ### Bias (R450, R452) -/

namespace State

/-- Whether a granule lies wholly within a committed decoder. -/
def granuleInHdm (s : State) (g : Nat) : Bool :=
  let a := 128 * granuleLine g
  s.windows.any fun w => decide (w.1 ≤ a) && decide (a + 0x200000 ≤ w.1 + w.2.1)

def setBias (s : State) (first count : Nat) (host : Bool) : State :=
  (List.range count).foldl (fun s i => s.setBit (Reg.HL_BIAS ((first + i) / 32)) ((first + i) % 32) host) s

/-- The lines of a run of granules that a core cache holds. -/
def biasLines (s : State) (first count : Nat) : List Nat :=
  (s.cores.flatMap fun e => e.2.cc.filterMap fun l =>
    let g := granuleOf l.2.line
    if l.2.line < hostName 0 ∧ first ≤ g ∧ g < first + count then some l.2.line else none).eraseDups

end State

/-- BIAS_SET. To HOST, the core caches give up their lines and the bits are set. To DEVICE, the host is asked to flush every
half; a second event of the command is its last GO, and the bits are cleared. -/
def execBiasSet (src : CmdSrc) (s : State) : Res :=
  match s.hl.bias with
  | some b =>
    when (decide (b.cmd.src = src) && s.hl.attach == .attached && !s.sump.fatal) (fun s =>
      (({ s with hl := { s.hl with bias := none } }).setBias b.first b.count false).complete b.cmd 0) s
  | none =>
    done (s.withCmd src 0x0009 fun c s =>
      let first := c.par 0 4
      let n := c.par 4 4
      let host := bitOf (c.par 8 1) 0
      let gs := (List.range n).map (· + first)
      if n = 0 ∨ 196608 < first + n then s.complete c 0xA
      else if host ∧ !gs.all s.granuleInHdm then s.complete c 0xA
      else if (s.coh.open_ ++ s.coh.waiting).any fun t => decide (first ≤ granuleOf t.line ∧ granuleOf t.line < first + n) then s
      else if host then (((s.biasLines first n).foldl (fun s l => s.pull l true) s).setBias first n true).complete c 0
      else
        let away := gs.filter s.granuleHost
        if away.isEmpty then s.complete c 0
        else if s.hl.attach ≠ .attached then s
        else
          let s := { (s.running c) with hl := { s.hl with bias := some ⟨first, n, false, c⟩ } }
          away.foldl (fun s g => s.send (.flush (granuleLine g) 16384)) s)

/-! ### Lists that commands deliver (R337, R480, R494) -/

/-- Commands that submit lists. -/
def Cmd.submits (c : Cmd) : Bool := decide (c.opcode ∈ [0x0300, 0x0301, 0x0304])

namespace State

/-- Whether two commands came from one submission ring as it stands. -/
def sameRing (s : State) (a b : Cmd) : Bool :=
  let since := ((s.sqAt a.src.sq).map (·.since)).getD 0
  decide (a.src.sq = b.src.sq) && (decide (since ≤ a.id) == decide (since ≤ b.id))

/-- Whether a FENCE of its ring holds back a list submission (R494). -/
def fenced (s : State) (c : Cmd) : Bool :=
  s.vci.cmds.any fun d => decide (d.opcode = 0x0303) && s.sameRing c d && decide (d.id < c.id)

/-- Deliver a list to an engine of the context's partition, or say why not. -/
def submit (s : State) (c : Cmd) (e : Nat) (units : List (List Byte × Bool)) : State :=
  match s.listRoom e c.ctx units.length with
  | none => s.complete c 8
  | some i => (s.running c).acceptList e i c.ctx units none (some c)

/-- The units of a list of `n`: in the slot, or read from memory. -/
def submitFrom (s : State) (c : Cmd) (fills : List HostFill) (e : Nat) : State :=
  let n := c.par 2 2 + 1
  let inline := decide (c.par 1 1 = 1)
  let a := c.par 8 8
  let chop (bs : List (Byte × Bool)) : List (List Byte × Bool) :=
    (rowsOf 32 n bs).map fun u => (u.map (·.1), u.any (·.2))
  if (if inline then decide (6 < n) else decide (256 < n) || decide (2 ^ 48 < a + 32 * n)) then s.complete c 0xA
  else if s.fenced c then s
  else if inline then s.submit c e (chop ((c.bytes.drop 0x40).map fun b => (b, false)))
  else if (s.listRoom e c.ctx n).isNone then s.complete c 8
  else
    let r := s.readCmd c.ctx fills a (32 * n)
    match r.1 with
    | .error .wait => s
    | .error (.fault f) => r.2.xfault f
    | .ok g => if g.hostEnd then r.2.complete c 0x11 else r.2.submit c e (chop g.bytes)

/-- The copy engine of an ENGINE field, and whether its owner is the partition. -/
def engineOwned (s : State) (p f : Nat) : Bool := s.bit (Reg.PART_CE p) (8 * (f / 8 % 2) + f % 8)

end State

/-- The list table of an ENGINE field: host-bound engines first in their region. -/
def engineIndex (f : Nat) : Nat := 4 * (f % 8 / 2) + 2 * (f / 8 % 2) + f % 2

/-- LIST_SUBMIT. -/
def execListSubmit (src : CmdSrc) (fills : List HostFill) (s : State) : Res :=
  done (s.withCmd src 0x0300 fun c s =>
    if !s.engineOwned (s.context c.ctx).part (c.par 0 1) then s.complete c 3
    else s.submitFrom c fills (engineIndex (c.par 0 1)))

/-- The units of the one INLINE descriptor of a COPY_INLINE (R341, R342). -/
def inlineUnits (c : Cmd) : List (List Byte × Bool) :=
  let sig := b2n (bitOf (c.par 4 1) 0)
  let n := c.par 1 1 + 1
  let head := leBytes 4 (0x04 + sig * 256 + sig * c.par 2 2 * 65536) ++ leBytes 4 ((n - 1) * 65536) ++ leBytes 8 0 ++ leBytes 8 (c.par 8 8) ++ leBytes 8 0
  let data := (c.bytes.drop 0x40).take n
  ((head ++ data ++ List.replicate (32 * ((n + 31) / 32) - n) 0#8) |> rowsOf 32 (1 + (n + 31) / 32)).map fun u => (u, false)

/-- COPY_INLINE. -/
def execCopyInline (src : CmdSrc) (s : State) : Res :=
  done (s.withCmd src 0x0301 fun c s =>
    if !s.engineOwned (s.context c.ctx).part (c.par 0 1) then s.complete c 3
    else if 191 < c.par 1 1 ∨ 2 ^ 15 ≤ c.par 2 2 ∨ 2 ^ 48 ≤ c.par 8 8 then s.complete c 0xA
    else if s.fenced c then s
    else s.submit c (engineIndex (c.par 0 1)) (inlineUnits c))

/-- FLIST_SUBMIT: a partition without a share of the region's list table owns nothing of its transmit path (DEDUCED). -/
def execFlistSubmit (src : CmdSrc) (fills : List HostFill) (s : State) : Res :=
  done (s.withCmd src 0x0304 fun c s =>
    if 3 < c.par 0 1 then s.complete c 0xA
    else if s.partRec (s.context c.ctx).part (0x40 + 32 * c.par 0 1 + 0x12) 1 = 0 then s.complete c 3
    else s.submitFrom c fills (16 + c.par 0 1))

/-- LIST_CANCEL: the list issues no more and ends as CANCELLED, and the command with it; a list that has ended keeps its
status, and one not yet accepted is withdrawn with its command (R367, R499). -/
def execListCancel (src : CmdSrc) (s : State) : Res :=
  done (s.withCmd src 0x0302 fun c s =>
    let of_ : CmdSrc := ⟨c.par 0 2, c.par 2 2⟩
    let other (x : Nat) : Bool := decide (c.cls ≠ 15) && decide ((s.context x).part ≠ c.cls)
    match s.listOfCmd of_ with
    | some (k, l) =>
      if other l.ctx then s.complete c 3
      else if l.st = .ending then s.complete c 0 1
      else
        let s := (s.running c).listStop k 0xD
        if (s.listOfCmd of_).isNone then s.complete c 0 else s
    | none =>
      match s.vci.cmds.find? fun d => decide (d.src = of_) && d.submits && !d.ran with
      | some d => if other d.ctx then s.complete c 3 else (s.complete d 0x14).complete c 0
      | none => s.complete c 0 1)

/-- FENCE completes once every list that an earlier command of its ring submitted has ended (R494). -/
def execFence (src : CmdSrc) (s : State) : Res :=
  done (s.withCmd src 0x0303 fun c s =>
    if s.vci.cmds.any fun d => d.submits && s.sameRing c d && decide (d.id < c.id) then s else s.complete c 0)

/-! ### Pegs (R211, R213) -/

namespace State

/-- Apply one operation of Bittern to a peg of the command's partition. -/
def pegCmd (s : State) (src : CmdSrc) (opcode : Nat) (op : Cmd → PegOp) (ok : Cmd → Bool) : State :=
  s.withCmd src opcode fun c s =>
    match s.pegOfPart c.part (c.par 0 2) with
    | none => s.complete c 0xA
    | some p => if ok c then (s.pegCycle p [op c]).complete c 0 else s.complete c 0xA

end State

/-- PEG_SIGNAL: an AMOUNT of 0 is out of range. -/
def execPegSignal (src : CmdSrc) (s : State) : Res :=
  done (s.pegCmd src 0x0400 (fun c => .signal (c.par 2 2)) fun c => decide (c.par 2 2 ≠ 0))

/-- PEG_ARM. -/
def execPegArm (src : CmdSrc) (s : State) : Res := done (s.pegCmd src 0x0401 (fun c => .arm (c.par 4 4) 0) fun _ => true)

/-- PEG_RESET. -/
def execPegReset (src : CmdSrc) (s : State) : Res := done (s.pegCmd src 0x0402 (fun _ => .reset) fun _ => true)

/-- PEG_QUERY. -/
def execPegQuery (src : CmdSrc) (s : State) : Res :=
  done (s.withCmd src 0x0403 fun c s =>
    match s.pegOfPart c.part (c.par 0 2) with
    | none => s.complete c 0xA
    | some p =>
      let g := s.peg p
      s.complete c 0 0 0 (g.count + g.target * 2 ^ 32)
        (s.waiters p * 256 + b2n g.poison * 8 + b2n g.sat * 4 + b2n g.ready * 2 + b2n g.armed))

/-! ### Connections (R411 to R414, R441) -/

namespace State

/-- CREDIT_INIT over the OPEN connections that satisfy `p`. -/
def creditSum (s : State) (p : Nat → Bool) : Nat :=
  (s.fab.conns.filter fun e => decide (e.2.state = .opened) && p e.1).foldl (fun a e => a + s.creditInit e.1) 0

/-- FCREDIT of a partition in a region (R506). -/
def fcredit (s : State) (p r : Nat) : Nat := s.partRec p (0x40 + 32 * r + 0x0C) 2

end State

/-- CONN_OPEN. -/
def execConnOpen (src : CmdSrc) (s : State) : Res :=
  done (s.withCmd src 0x0500 fun c s =>
    let n := c.par 0 2
    let r := n / 1024
    let k := s.conn n
    let init := c.par 0xC 2
    let lodes := c.par 0xA 2
    if 4095 < n ∨ 4095 < c.par 2 2 ∨ 2 ^ 18 ≤ c.par 4 4 ∨ 2047 < init ∨ lodes % 2 ^ (4 * r) ≠ 0 ∨ 2 ^ (4 * r + 4) ≤ lodes then s.complete c 0xA
    else if k.close.isSome then s.complete c 7
    else if k.state ≠ .closed then s.complete c 6 k.state.code
    else if (List.range 16).any fun l => bitOf lodes l && decide (1536 < init + s.creditSum fun e => bitOf (s.connLodes e) l) then s.complete c 9 2
    else if s.fcredit c.part r < init + s.creditSum (fun e => decide (e / 1024 = r) && decide (s.connPart e = c.part)) then s.complete c 9 2
    else
      let s := s.setCfg (connReg n 0) (BitVec.ofNat 32 (c.part * 2 ^ 27 + c.par 9 1 * 65536 + lodes))
      let s := s.setCfg (connReg n 1) (BitVec.ofNat 32 (c.par 4 4 * 256 + c.par 8 1))
      let s := s.setCfg (connReg n 2) (BitVec.ofNat 32 (c.par 2 2 * 65536 + init))
      let s := s.setConn n { state := .opened, credit := init }
      (s.setConn n { (s.conn n) with act := s.pickLode n }).complete c 0)

namespace State

/-- Whether a list still names a connection, in its descriptor under way or a later one. `n` bounds the descriptors. -/
def namesFrom (units : List (List Byte × Bool)) (c : Nat) : Nat → Nat → Bool
  | 0, _ => false
  | n + 1, u =>
    if units.length ≤ u then false
    else
      let d := descAt true units u
      (decide (0x20 ≤ d.ty ∧ d.ty ≤ 0x24) && decide (d.f 1 27 16 = c)) || namesFrom units c n (u + d.n)

/-- The lists that name a connection. -/
def listsNaming (s : State) (c : Nat) : List (Nat × CList) :=
  (s.engLists (16 + c / 1024)).filter fun e => s.listOn c e || namesFrom e.2.units c e.2.units.length e.2.unit

/-- Lists that wait on a closing connection end as CANCELLED. -/
def closeConn (s : State) (n : Nat) (cmd : Option Cmd) : State :=
  let s := s.setConn n { (s.conn n) with close := cmd }
  (s.listsNaming n).foldl (fun s e => if e.2.st = .ending then s else s.listStop e.1 0xD) s

/-- A connection is CLOSED; peg messages it still held are lost. -/
def connGone (s : State) (n : Nat) : State :=
  let k := s.conn n
  let s := (s.setFld (connReg n 0) 26 24 0).setConn n { state := .closed }
  ((k.held ++ k.ready).filterMap (·.msg)).foldl (fun s m => s.sigLost (n / 1024) m.1 m.2) s

end State

/-- CONN_CLOSE: DRAIN_END completes it. -/
def execConnClose (src : CmdSrc) (s : State) : Res :=
  done (s.withCmd src 0x0501 fun c s =>
    let n := c.par 0 2
    let k := s.conn n
    if 4095 < n then s.complete c 0xA
    else if k.state ≠ .closed ∧ s.connPart n ≠ c.part then s.complete c 3
    else if k.close.isSome then s.complete c 7
    else if k.state = .closed then s.complete c 6
    else (s.running c).closeConn n (some c))

/-! ### Handles (R425 to R427) -/

/-- HANDLE_REG: the KEY comes from Sedge's DRBG, and INDEX is one of those free. -/
def execHandleReg (src : CmdSrc) (s : State) : Res :=
  done (s.withCmd src 0x0502 fun c s =>
    let base := c.par 8 8
    let len := c.par 0x10 8
    let p := (s.context c.ctx).part
    let perm := c.par 0 1
    if 18 < c.par 1 1 ∨ base % 128 ≠ 0 ∨ len % 128 ≠ 0 ∨ len = 0 ∨ 2 ^ 36 < len ∨ 2 ^ 48 < base + len then s.complete c 0xA
    else if s.limT2 p ≤ s.useT2 p then s.complete c 9 2
    else
      let room := (List.range 65536).filter fun i => (tfind s.fab.handles i).isNone
      match room[s.draw (max 1 room.length)]? with
      | none => s.complete c 8
      | some i =>
        let s := s.drawn
        let key := s.draw 65536
        let s := s.drawn
        let h : Handle := { key := key, part := p, ctx := c.ctx, base := base, length := len, wr := bitOf perm 0, rd := bitOf perm 1,
                            red := bitOf perm 2, exp := c.par 2 2, h := c.par 1 1 }
        (s.setFab { s.fab with handles := tput i h s.fab.handles }).complete c 0 0 0 (key * 65536 + i))

namespace State

/-- A handle goes, and every handle cache drops it. -/
def revoke (s : State) (i : Nat) : State :=
  let caches := (s.fab.hcache.map fun e => (e.1, e.2.filter (· ≠ i))).filter fun e => !e.2.isEmpty
  s.setFab { s.fab with handles := tdel i s.fab.handles, hcache := caches }

end State

/-- HANDLE_REVOKE: a packet applies in one event, so none that looked the handle up is still under way. -/
def execHandleRevoke (src : CmdSrc) (s : State) : Res :=
  done (s.withCmd src 0x0503 fun c s =>
    let i := c.par 0 4 % 65536
    match tfind s.fab.handles i with
    | some h =>
      if h.key ≠ c.par 0 4 / 65536 then s.complete c 0xA
      else if h.part ≠ c.part then s.complete c 3
      else (s.revoke i).complete c 0
    | none => s.complete c 0xA)

/-! ### Placement windows (R440) -/

/-- PLACE_REG. -/
def execPlaceReg (src : CmdSrc) (s : State) : Res :=
  done (s.withCmd src 0x0504 fun c s =>
    let i := c.par 0 1
    let a := c.par 8 8
    let n := (c.par 0x10 4 + 1) * 65536
    if 15 < i ∨ a % 65536 ≠ 0 ∨ 2 ^ 24 ≤ c.par 0x10 4 ∨ !inStack a n ∨ (s.pegOfPart c.part (c.par 4 2)).isNone then s.complete c 0xA
    else if !s.windows.any fun w => decide (w.1 ≤ a) && decide (a + n ≤ w.1 + w.2.1) then s.complete c 0xA
    else if s.bit (Reg.FAB_PLACE_W0 0 i) 31 then s.complete c 6 1
    else if (handleArea :: s.saveAreas).any (meets (a, n)) then s.complete c 0x12
    else
      let s := s.setCfg (Reg.FAB_PLACE_W0 0 i) (BitVec.ofNat 32 (2 ^ 31 + c.part * 2 ^ 28 + c.par 2 2))
      let s := s.setCfg (Reg.FAB_PLACE_W1 0 i) (BitVec.ofNat 32 (a / 65536))
      let s := s.setCfg (Reg.FAB_PLACE_W2 0 i) (BitVec.ofNat 32 (c.par 0x10 4))
      (s.setCfg (Reg.FAB_PLACE_W3 0 i) (BitVec.ofNat 32 (c.par 4 2))).complete c 0)

namespace State

def unplace (s : State) (i : Nat) : State :=
  [Reg.FAB_PLACE_W0 0 i, Reg.FAB_PLACE_W1 0 i, Reg.FAB_PLACE_W2 0 i, Reg.FAB_PLACE_W3 0 i].foldl (fun s a => s.setCfg a 0#32) s

end State

/-- PLACE_UNREG: an accepted write is complete in the event that accepts it, so the window goes at once. -/
def execPlaceUnreg (src : CmdSrc) (s : State) : Res :=
  done (s.withCmd src 0x0505 fun c s =>
    let i := c.par 0 1
    if 15 < i then s.complete c 0xA
    else if !s.bit (Reg.FAB_PLACE_W0 0 i) 31 then s.complete c 6
    else if s.fld (Reg.FAB_PLACE_W0 0 i) 30 28 ≠ c.part then s.complete c 3
    else (s.unplace i).complete c 0)

end Sys2Proof.Machine
end

