-- ==== Sys2Proof/Machine/Partition.lean ====
section
/-!
DEFINITION. Partitions, shutdown and attachment: R463, R464, R495, R497, R498, R502 to R513.
-/
namespace Sys2Proof.Machine

/-! ### The record (R505 to R508) -/

/-- A field of a partition record. -/
def rec_ (b : List Byte) (o n : Nat) : Nat := ofLe ((b.drop o).take n)
/-- A field of region block r. -/
def recR (b : List Byte) (r o n : Nat) : Nat := rec_ b (0x40 + 32 * r + o) n

def popcount (n w : Nat) : Nat := ((List.range w).filter fun i => bitOf n i).length

/-- Step 3 of R508: a field out of its range. -/
def recordRange (b : List Byte) (host : Bool) : Bool :=
  let regions := (List.range 4).any fun r =>
    decide (popcount (recR b r 0 2) 16 < recR b r 2 1) || decide (8191 < recR b r 4 2) || decide (8191 < recR b r 8 2)
  let own := decide (64 < rec_ b 0x0E 1) || decide (rec_ b 0x10 2 % 64 ≠ 0) || decide (rec_ b 0x12 2 % 64 ≠ 0)
    || decide (32768 < rec_ b 0x10 2 + rec_ b 0x12 2) || decide (65536 < rec_ b 0x1C 4)
    || ((List.range 8).any fun n => decide ((if n = 0 then 24575 else 24576) < rec_ b (0x20 + 2 * n) 2))
    || ((List.range 4).any fun r => (decide (recR b r 0 2 = 0) && decide (bitsOf (rec_ b 0 12) (24 * r + 23) (24 * r) ≠ 0))
      || decide (64 < recR b r 0x12 1) || decide (2048 < recR b r 0x14 2))
    || (decide (rec_ b 0x14 2 = 0) && decide (rec_ b 0 12 ≠ 0))
  regions || (!host && own)

namespace State

def part (s : State) (p : Nat) : Part := tget (fun _ => {}) s.parts p
def setPart (s : State) (p : Nat) (v : Part) : State := { s with parts := tset (fun _ => {}) s.parts p v }

/-- Step 4 of R508: the first core that stands against the record. -/
def recordCore (s : State) (p : Nat) (b : List Byte) (modify : Bool) : Option Nat :=
  let new := rec_ b 0 12
  (List.range 96).find? fun l =>
    (bitOf new l && (s.withdrawn l || (List.range 8).any fun q => decide (q ≠ p) && s.ownsCore q l))
      || (modify && !bitOf new l && s.ownsCore p l && (s.ctxsOf p).any fun x => bitOf (s.context x).cores l)

/-- The sum over the other classes of what a register function gives. -/
def others (p n : Nat) (f : Nat → Nat) : Nat := ((List.range n).filter (· ≠ p)).foldl (fun a q => a + f q) 0

/-- Step 5 of R508: an overlap or a sum beyond its limit. -/
def recordSpace (s : State) (p : Nat) (b : List Byte) : Bool :=
  let host := decide (p = 8)
  let clash (n : Nat) (f : Nat → Nat) (v : Nat) : Bool := (List.range n).any fun q => decide (q ≠ p) && decide (f q &&& v ≠ 0)
  let peg := (rec_ b 0x10 2, rec_ b 0x12 2)
  ((List.range 4).any fun r => clash 9 (fun q => s.fld (Reg.SC_WAYMASK r q) 15 0) (recR b r 0 2))
    || clash 9 (fun q => s.fld (Reg.DC_WAYMASK q) 15 0) (rec_ b 0x14 2)
    || ((List.range 4).any fun r => decide (6144 < recR b r 4 2 + others p 9 fun q => s.fld (Reg.SC_REG_SC r q) 12 0)
      || decide (2048 < recR b r 8 2 + others p 9 fun q => s.fld (Reg.SC_REG_HBM r q) 12 0))
    || (!host && (((List.range 8).any fun q => decide (q ≠ p) && meets peg (s.fld (Reg.PEG_PART 0 q) 14 0, s.fld (Reg.PEG_PART 0 q) 31 16))
      || clash 8 (fun q => (s.cfg (Reg.PART_CE q)).toNat) (rec_ b 0x0C 1 + rec_ b 0x0D 1 * 256)
      || decide (64 < rec_ b 0x0E 1 + others p 8 fun q => s.fld (Reg.PART_STS q) 22 16)
      || decide (65536 < rec_ b 0x1C 4 + others p 8 s.limT2)
      || ((List.range 8).any fun n => decide ((if n = 0 then 24575 else 24576) < rec_ b (0x20 + 2 * n) 2 + others p 8 fun q => s.limT0 q n))
      || ((List.range 4).any fun r =>
        let sum (o k : Nat) : Nat := recR b r o k + others p 8 fun q => s.partRec q (0x40 + 32 * r + o) k
        decide (6144 < sum 0x0C 2) || decide (64 < sum 0x12 1) || decide (2048 < sum 0x14 2))))

/-- Lists of a partition on an engine, and their units. -/
def partLists (s : State) (p e : Nat) : List (Nat × CList) := (s.engLists e).filter fun l => decide ((s.context l.2.ctx).part = p)

/-- Step 6 of R508: a limit below present use (R512). -/
def recordUse (s : State) (p : Nat) (b : List Byte) : Option (Nat × Nat) :=
  let gone (f : Nat) : Bool := s.engineOwned p f && !bitOf (rec_ b (0x0C + f / 8) 1) (f % 8) && !(s.partLists p (engineIndex f)).isEmpty
  let beyond (x : Nat) : Bool := decide (rec_ b 0x12 2 < s.fld (Reg.PEG_CTX 0 x) 14 0 + s.fld (Reg.PEG_CTX 0 x) 31 16)
  if (List.range 16).any gone then some (6, 1)
  else if rec_ b 0x0E 1 < (s.ctxsOf p).length then some (6, 1)
  else if rec_ b 0x10 2 ≠ s.fld (Reg.PEG_PART 0 p) 14 0 ∧ s.ctxsOf p ≠ [] then some (6, 1)
  else if (s.ctxsOf p).any beyond then some (6, 1)
  else if (List.range 8).any fun n => decide (rec_ b (0x20 + 2 * n) 2 < s.useT0 p n) then some (9, 0)
  else if rec_ b 0x18 4 < s.useT1 p then some (9, 1)
  else if rec_ b 0x1C 4 < s.useT2 p then some (9, 2)
  else if (List.range 4).any fun r => decide (recR b r 0x0C 2 < s.creditSum fun c => decide (c / 1024 = r) && decide (s.connPart c = p)) then some (9, 2)
  else if (List.range 4).any fun r =>
      let ls := s.partLists p (16 + r)
      decide (recR b r 0x12 1 < ls.length) || decide (recR b r 0x14 2 < ls.foldl (fun a l => a + l.2.units.length) 0) then some (6, 1)
  else if !bitOf (rec_ b 0x0F 1) 0 ∧ (List.range 16).any fun i =>
      s.bit (Reg.FAB_PLACE_W0 0 i) 31 && decide (s.fld (Reg.FAB_PLACE_W0 0 i) 30 28 = p) then some (6, 1)
  else none

/-! ### Writing the registers (R506, R520) -/

/-- The shares of a class: ways, prefetch and regulators. -/
def writeShares (s : State) (n : Nat) (b : List Byte) : State :=
  let s := s.setCfg (Reg.DC_WAYMASK n) (BitVec.ofNat 32 (rec_ b 0x14 2 + 65536 * rec_ b 0x16 1))
  (List.range 4).foldl (fun s r =>
    let s := s.setCfg (Reg.SC_WAYMASK r n) (BitVec.ofNat 32 (recR b r 0 2 + 65536 * recR b r 2 1))
    let bw (o i : Nat) : Word := BitVec.ofNat 32 (recR b r o 2 + 32768 * b2n (bitOf (recR b r 3 1) i) + 65536 * recR b r (o + 2) 2)
    (s.setBucket r n false (bw 4 0)).setBucket r n true (bw 8 1)) s

/-- The registers of a partition. -/
def writePart (s : State) (p : Nat) (b : List Byte) : State :=
  let s := s.writeShares p b
  let s := (List.range 4).foldl (fun s r =>
    let k := 8 * r + p
    let s := s.setCfg (Reg.FAB_TXRATE r p) (BitVec.ofNat 32 (recR b r 0x0E 2 + 65536 * recR b r 0x10 2))
    s.setFab { s.fab with txtok := tset (fun _ => 0) s.fab.txtok k (min (tget (fun _ => 0) s.fab.txtok k) (recR b r 0x10 2)) }) s
  let s := s.setCfg (Reg.PEG_PART 0 p) (BitVec.ofNat 32 (rec_ b 0x10 2 + 65536 * rec_ b 0x12 2))
  let s := s.setCfg (Reg.PART_STS p) (BitVec.ofNat 32 (rec_ b 0x0F 1 % 2 * 2 ^ 29 + rec_ b 0x0E 1 * 65536))
  let s := (List.range 3).foldl (fun s w => s.setCfg (Reg.PART_CORES p w) (BitVec.ofNat 32 (rec_ b (4 * w) 4))) s
  let s := s.setCfg (Reg.PART_CE p) (BitVec.ofNat 32 (rec_ b 0x0C 2))
  let s := (s.setCfg (Reg.PART_T1_LIMIT p) (BitVec.ofNat 32 (rec_ b 0x18 4))).setCfg (Reg.PART_T2_LIMIT p) (BitVec.ofNat 32 (rec_ b 0x1C 4))
  (List.range 8).foldl (fun s n => s.setCfg (Reg.PART_T0 p n) (BitVec.ofNat 32 (rec_ b (0x20 + 2 * n) 2 * 65536))) s

/-- Logical cores that a partition gives up enter OFF. -/
def coresOff (s : State) (ls : List Nat) : State := (ls.filterMap s.coreOf).foldl (fun s c => s.coreOff c) s

/-! ### PART_CREATE and PART_MODIFY -/

/-- Whether a partition command's turn has come (R513). -/
def partTurn (s : State) (c : Cmd) : Bool :=
  s.vci.cmds.all fun d => !decide (d.opcode ∈ [0x0100, 0x0101, 0x0102]) || decide (d.id = c.id) || (!d.ran && decide (c.id < d.id))

end State

def PartState.code : PartState → Nat
  | .free => 0 | .active => 1 | .destroying => 2

/-- PART_CREATE. -/
def execPartCreate (src : CmdSrc) (s : State) : Res :=
  done (s.withCmd src 0x0100 fun c s =>
    let p := c.par 0 1
    let b := c.bytes.drop 0x40
    if !s.partTurn c then s
    else if 7 < p then s.complete c 0xA
    else if (s.part p).state = .active then s.complete c 6 1
    else if (s.part p).state = .destroying then s.complete c 7
    else if recordRange b false then s.complete c 0xA
    else
      match s.recordCore p b false with
      | some l => s.complete c 0xF l
      | none =>
        if s.recordSpace p b then s.complete c 8
        else ((s.writePart p b).setPart p { state := .active, record := b }).complete c 0)

/-- PART_MODIFY: class 8 takes ways and regulators only (R507). -/
def execPartModify (src : CmdSrc) (s : State) : Res :=
  done (s.withCmd src 0x0101 fun c s =>
    let p := c.par 0 1
    let b := c.bytes.drop 0x40
    if !s.partTurn c then s
    else if 8 < p then s.complete c 0xA
    else if p = 8 then
      if recordRange b true then s.complete c 0xA
      else if s.recordSpace 8 b then s.complete c 8
      else (s.writeShares 8 b).complete c 0
    else if (s.part p).state ≠ .active then s.complete c 6 (s.part p).state.code
    else if (s.tdiOf p).stream ≠ 0 then s.complete c 6 2
    else if recordRange b false then s.complete c 0xA
    else
      match s.recordCore p b true with
      | some l => s.complete c 0xF l
      | none =>
        if s.recordSpace p b then s.complete c 8
        else
          match s.recordUse p b with
          | some (st, d) => s.complete c st d
          | none =>
            let away := (List.range 96).filter fun l => s.ownsCore p l && !bitOf (rec_ b 0 12) l
            (((s.coresOff away).writePart p b).setPart p { (s.part p) with record := b }).complete c 0)

/-! ### Destroying a context (R495, R221, R369, R427) -/

namespace State

/-- A resume or preemption under way holds a destruction back (R499). -/
def ctxBusy (k : Ctx) : Bool := decide (k.state = .preempting ∨ k.state = .resuming) || k.goes

/-- Commands that have not begun and name what goes end with a status. -/
def endCmds (s : State) (p : Cmd → Bool) (status : Nat) : State :=
  (s.vci.cmds.filter fun c => !c.ran && p c).foldl (fun s c => s.complete c status) s

/-- Begin to destroy a context: its hand is cancelled and its lists with it. -/
def ctxStop (s : State) (x : Nat) : State :=
  let k := s.context x
  if k.state = .free ∨ k.state = .destroying ∨ ctxBusy k then s
  else
    let s := s.endCmds (fun c => (c.info.map (·.ctx)).getD false && decide (c.ctx = x) && decide (c.opcode ≠ 0x0200)) 5
    let s := (s.unwait (.launch x)).setCtx x { (s.context x) with state := .destroying }
    let s := (s.lists.filter fun e => decide (e.2.ctx = x) && decide (e.2.st ≠ .ending)).foldl (fun s e => s.listStop e.1 0xD) s
    if (k.state = .running ∨ k.state = .suspended) ∧ s.coresOf x ≠ [] then (s.stopHand x .cancel).cancelDone x
    else s.handEnd x 0x14

/-- Unmap a destroyed context: its handles and segments go, and an invalidation of all of it is asked for. -/
def ctxUnmap (s : State) (x : Nat) : State :=
  let s := (s.fab.handles.filter fun h => decide (h.2.ctx = x)).foldl (fun s h => s.revoke h.1) s
  let s := (List.range 16).foldl (fun s i => s.putSeg x i ⟨0, 0, 0, 0⟩) s
  (s.modCtx x fun k => { k with drained := true }).invalidate none x 0 (2 ^ 48 - 1)

/-- Pegs of a destroyed context's window that no other live context's window covers are reset. -/
def ctxPegs (s : State) (x : Nat) : State :=
  let win (y : Nat) : Nat × Nat :=
    (s.fld (Reg.PEG_PART 0 (s.context y).part) 14 0 + s.fld (Reg.PEG_CTX 0 y) 14 0, s.fld (Reg.PEG_CTX 0 y) 31 16)
  let live := ((List.range 64).filter fun y => decide (y ≠ x) && decide ((s.context y).state ≠ .free)).map win
  let inside (p : Nat) (w : Nat × Nat) : Bool := decide (w.1 ≤ p) && decide (p < w.1 + w.2)
  { s with pegs := tkeep (fun p => !inside p (win x) || live.any (inside p)) s.pegs }

/-- Go on destroying a context as far as its drain has come; a FREE context is done. -/
def ctxDrain (s : State) (x : Nat) : State :=
  let s := s.ctxStop x
  let k := s.context x
  if k.state ≠ .destroying ∨ s.coresOf x ≠ [] ∨ k.launch.isSome then s
  else if s.lists.any fun e => decide (e.2.ctx = x) then s
  else if !k.drained then s.ctxUnmap x
  else if s.xl.invs.any fun v => decide (v.ctx = x) then s
  else
    let s := ((s.ctxPegs x).ctxRegs x).setCtx x {}
    match k.destroy with
    | some c => s.complete c 0
    | none => s

end State

/-- CTX_DESTROY: DRAIN_END completes it. -/
def execCtxDestroy (src : CmdSrc) (s : State) : Res :=
  done (s.withCmd src 0x0201 fun c s =>
    ((s.running c).modCtx c.ctx fun k => { k with destroy := some c }).ctxStop c.ctx)

/-! ### Destroying a partition (R510, R511) -/

namespace State

/-- The rings of a partition go; a RING_DESTROY that drained one of them is done. -/
def dropClass (s : State) (p : Nat) : State :=
  let mine := s.vci.sq.filter fun e => decide (e.2.cls = p)
  let closing := mine.filterMap (·.2.closing)
  let s := { s with
    vci := { s.vci with sq := s.vci.sq.filter fun e => decide (e.2.cls ≠ p), cq := s.vci.cq.filter fun e => decide (e.2.cls ≠ p) }
    hl := { s.hl with reads := s.hl.reads.filter fun r => mine.all fun e => decide (e.1 ≠ r.sq) } }
  closing.foldl (fun s c => s.complete c 0) s

/-- An interface that is locked or runs goes to ERROR (R628). -/
def tdiError (s : State) (p : Nat) : State :=
  let t := s.tdiOf p
  if t.state = .unlocked then s
  else { s with sedge := { s.sedge with tdi := tset (fun _ => {}) s.sedge.tdi p { t with state := .error } } }

/-- Begin to destroy a partition. -/
def partStop (s : State) (p : Nat) (c : Cmd) : State :=
  let s := (s.tdiError p).setPart p { (s.part p) with state := .destroying, destroy := some c }
  s.endCmds (fun d => decide (d.part = p) && decide (d.opcode ≥ 0x0200)) 4

/-- Connections of a partition close; those whose lists have ended are CLOSED. -/
def partConns (s : State) (p : Nat) (c : Cmd) : State :=
  (s.fab.conns.filter fun e => decide (e.2.state ≠ .closed) && decide (s.connPart e.1 = p)).foldl (fun s e =>
    let s := if (s.conn e.1).close.isNone then s.closeConn e.1 (some c) else s
    if (s.listsNaming e.1).isEmpty then
      let s := s.connGone e.1
      match e.2.close with
      | some d => s.complete d 0
      | none => s
    else s) s

/-- Go on destroying a partition in the order of R511. -/
def partDrain (s : State) (p : Nat) (c : Cmd) : State :=
  if (s.part p).state ≠ .destroying then s
  else
    let s := (s.ctxsOf p).foldl (fun s x => s.ctxDrain x) s
    if s.ctxsOf p ≠ [] then s
    else
      let s := s.partConns p c
      if s.fab.conns.any fun e => decide (e.2.state ≠ .closed) && decide (s.connPart e.1 = p) then s
      else
        let s := (List.range 16).foldl (fun s i =>
          if s.bit (Reg.FAB_PLACE_W0 0 i) 31 ∧ s.fld (Reg.FAB_PLACE_W0 0 i) 30 28 = p then s.unplace i else s) s
        let s := s.dropClass p
        let lo := s.fld (Reg.PEG_PART 0 p) 14 0
        let hi := lo + s.fld (Reg.PEG_PART 0 p) 31 16
        let s := { s with pegs := tkeep (fun i => decide (i < lo) || decide (hi ≤ i)) s.pegs }
        let s := s.coresOff ((List.range 96).filter (s.ownsCore p))
        (s.writePart p (List.replicate 192 0#8)).setPart p {}

end State

/-- PART_DESTROY: DRAIN_END completes it. -/
def execPartDestroy (src : CmdSrc) (s : State) : Res :=
  done (s.withCmd src 0x0102 fun c s =>
    let p := c.par 0 1
    if !s.partTurn c then s
    else if 7 < p then s.complete c 0xA
    else if (s.part p).state ≠ .active then s.complete c 6 (s.part p).state.code
    else (s.running c).partStop p c)

/-! ### Attaching and detaching (R497, R498) -/

namespace State

/-- ATTACH is accepted: held traffic leaves, a new token is issued and the mode is set; a log that holds entries is
announced (R463, R466). -/
def attachNow (s : State) (c : Cmd) (detail : Nat) : State :=
  let token := s.draw (2 ^ 64)
  let s := s.drawn
  let s := if s.hl.attach = .hold then s.release else { s with hl := { s.hl with attach := .attached, hr := false } }
  let s := { s with vci := { s.vci with token := some token } }
  let s := s.setBit Reg.HL_STS 28 (bitOf (c.par 8 1) 0)
  let s := s.setFld Reg.HL_STS 15 8 (s.fld Reg.HL_STS 15 8 + 1)
  let s := if s.hl.lwl.isEmpty then s else (s.event 15 7 0 s.hl.lwl.length).irq 0
  s.complete c 0 detail 0 token

end State

/-- ATTACH: without FORCE it answers at once; with FORCE and a wrong token every partition is destroyed first, and
DRAIN_END completes it. -/
def execAttach (src : CmdSrc) (s : State) : Res :=
  done (s.withCmd src 0x0002 fun c s =>
    let t := c.par 0 8
    let force := bitOf (c.par 8 1) 1
    if s.vci.detach.isSome then s.complete c 7
    else if s.vci.cmds.any fun d => decide (d.opcode = 0x0002) && d.ran then s.complete c 7
    else if !(s.hl.attach = .detached ∨ (s.hl.attach = .hold ∧ s.hl.hr)) then s.complete c 6 s.hl.attach.code
    else
      match s.vci.token with
      | none => s.attachNow c (if t = 0 then 0 else 1)
      | some k =>
        if k = t then s.attachNow c 0
        else if !force then s.complete c 0x10
        else
          let s := s.running c
          let s := if s.hl.attach = .hold then s.abandon else s
          (List.range 8).foldl (fun s p => if (s.part p).state = .active then s.partStop p c else s) s)

/-- DETACH: fetching stops; DRAIN_END completes it. -/
def execDetach (src : CmdSrc) (s : State) : Res :=
  done (s.withCmd src 0x0003 fun c s =>
    if s.hl.attach = .detached then s.complete c 6 0
    else if s.vci.detach.isSome then s.complete c 7
    else { (s.running c) with vci := { s.vci with detach := some c, cmds := (s.running c).vci.cmds } })

namespace State

/-- Go on with the drain of a shutdown command as far as it has come (R495). -/
def drain (s : State) (c : Cmd) : State :=
  match c.opcode with
  | 0x0003 =>
    if s.hl.attach = .detached then ({ s with vci := { s.vci with detach := none } }).complete c 0
    else if s.dc.wt.isEmpty && s.hl.held.isEmpty then
      let s := { s with vci := { s.vci with detach := none }, hl := { s.hl with attach := .detached, hr := false } }
      (s.dropRings).complete c 0
    else s
  | 0x0002 =>
    let s := (List.range 8).foldl (fun s p => if (s.part p).destroy.map (·.id) = some c.id then s.partDrain p c else s) s
    if (List.range 8).all fun p => (s.part p).state ≠ .destroying then s.attachNow c 0 else s
  | 0x0102 =>
    let p := c.par 0 1
    let s := s.partDrain p c
    if (s.part p).state = .destroying then s else s.complete c 0
  | 0x0201 => s.ctxDrain c.ctx
  | 0x0302 =>
    if s.lists.any fun e => decide (e.2.cmd.map (·.src) = some ⟨c.par 0 2, c.par 2 2⟩) && decide (e.2.status = 0xD) then s else s.complete c 0
  | 0x0501 =>
    let n := c.par 0 2
    let s := (s.listsNaming n).foldl (fun s e => if e.2.st = .ending then s else s.listStop e.1 0xD) s
    if (s.listsNaming n).isEmpty then (s.connGone n).complete c 0 else s
  | _ => s

end State

end Sys2Proof.Machine
end

