-- ==== Sys2Proof/Machine/Power.lean ====
section
/-!
DEFINITION. Heron: rails and throttling, operating points, thermal control, the event log, firmware update and
activation, and the board controller's interface (R521 to R552, R23, R24, R583).
-/
namespace Sys2Proof.Machine

/-! ### Rails (R524, R525) -/

namespace State

def setHeron (s : State) (h : HeronSt) : State := { s with heron := h }

/-- Heron serves: it is in RUN (R521). -/
def heronRuns (s : State) : Bool := s.heron.state == .run

def rail (s : State) (n : Nat) : Rail := tget (fun _ => {}) s.heron.rails n

def setRail (s : State) (n : Nat) (x : Rail) : State :=
  s.setHeron { s.heron with rails := tset (fun _ => {}) s.heron.rails n x }

/-- A region's throttle step: the highest of its core rail's, VDD_UNC's and VDD_HPHY's. -/
def thrStep (s : State) (r : Nat) : Nat := max (s.rail r).step (max (s.rail 4).step (s.rail 5).step)

/-- A rail that throttles the region has had a step above 0 within 1 ms. -/
def railRecent (s : State) (r : Nat) : Bool := [r, 4, 5].any fun n => decide (0 < (s.rail n).step) || decide ((s.rail n).quiet < 500)

/-- One rail at the end of a window. -/
def railWindow (s : State) (n amps volts : Nat) : State :=
  let x := s.rail n
  let lim := s.heron.ilim.getD n 0
  let overAmps := decide (lim < amps)
  if n < 6 then
    let step := if overAmps then min 7 (x.step + 1) else if 8 * amps < 7 * lim then x.step - 1 else x.step
    s.setRail n { x with
      amps := amps, volts := volts, step := step, at7 := if step = 7 then min 500 (x.at7 + 1) else 0
      reported := x.reported && step == 7, quiet := if 0 < step ∨ 0 < x.step then 0 else min 500 (x.quiet + 1) }
  else
    let run := if overAmps then x.overAmps + 1 else 0
    let s := s.setRail n { x with amps := amps, volts := volts, overAmps := if run = 16 then 0 else run }
    if run = 16 then (s.raise (srcDevice 12) 0x600 none 0 0 (n + 256 * amps)).logDue 3 1 (n + 256 * amps) else s

end State

/-- RAIL_WINDOW: a 2 µs window ends with the averages of the nine rails, in 0.1 A and mV; PWR_ALERT_N follows (R594). -/
def execRailWindow (amps volts : List Half) (s : State) : Res :=
  when (s.heron.state != .boot) (fun s =>
    let s := (List.range 9).foldl (fun s n => s.railWindow n (amps.getD n 0).toNat (volts.getD n 0).toNat) s
    let above := (List.range 4).filter fun r => decide (0 < s.thrStep r)
    { s with pins := { s.pins with pwrN := above.isEmpty } }.bumpBy Reg.HERON_THR_CNT above.length) s

/-- PWR_LIMIT: a rail has stayed at step 7 for 1 ms, and the stay is reported once. -/
def execPwrLimit (rail : Fin 6) (s : State) : Res :=
  let x := s.rail rail
  when (decide (500 ≤ x.at7) && !x.reported) (fun s =>
    let s := s.setRail rail { x with reported := true }
    let d := rail.val + 256 * x.amps
    (s.raise (srcDevice 12) 0x601 none 0 0 d).logDue 3 2 (d + 2 ^ 24)) s

/-! ### Operating points (R526 to R532) -/

/-- Full-load power of each operating point, W (R526). -/
def fullLoad : List Nat := [497, 538, 585, 636, 693, 796, 916, 1000]

/-- OP_MAX of a design power (R527). -/
def opMax (w : Nat) : Nat := (fullLoad.filter fun p => decide (p ≤ w)).length - 1

namespace State

def op (s : State) (r : Nat) : OpSt := tget (fun _ => {}) s.heron.ops r

def setOp (s : State) (r : Nat) (o : OpSt) : State := s.setHeron { s.heron with ops := tset (fun _ => {}) s.heron.ops r o }

/-- A design power comes into force. -/
def setDesign (s : State) (w : Nat) : State :=
  ((s.setHeron { s.heron with dp := w, dpNext := none }).setFld Reg.HERON_STS 27 16 w).setFld Reg.HERON_STS 6 4 (opMax w)

/-- The request of a region (R528). -/
def opReq (s : State) (r : Nat) : Nat :=
  (s.ctx.filter fun e => decide (e.2.state = .armed ∨ e.2.state = .running) && decide (0 < e.2.coresIn r)).foldl
    (fun m e => max m e.2.op) 0

/-- The grant of a region (R529, R530): a new one replaces the target of a change in progress. -/
def opGrant (s : State) (r : Nat) : State :=
  let o := s.op r
  let req := s.opReq r
  let mx := opMax s.heron.dp
  let g := min req (min mx o.capT)
  let refused := decide (o.applied < g) && s.railRecent r
  let g' := if refused then o.applied else g
  let o := { o with
    grant := g', byDesign := decide (mx < req ∧ mx ≤ o.capT), byTherm := decide (o.capT < req ∧ o.capT ≤ mx)
    byRail := if o.applied < g then refused else o.byRail }
  let o :=
    if g' = o.applied then { o with target := none }
    else if o.target = some g' then o
    else { o with target := some g', pll := false, rail := false, since := s.rnd }
  (s.setOp r o).bumpIf refused Reg.HERON_REFUSE_CNT

/-- Apply a grant that is ready: a raise once the rail and the PLL are, a lowering once the PLL is and 4 µs have passed
since its grant (R530). -/
def opApply (s : State) (r : Nat) : State :=
  let o := s.op r
  match o.target with
  | none => s
  | some g =>
    let late := s.round.state == .off || decide (4000 ≤ (s.rnd - o.since) * (256 * 2 ^ s.round.period))
    if o.pll && (if o.applied < g then o.rail else late) then
      (s.setOp r { o with applied := g, target := none, pll := false, rail := false }).bump Reg.HERON_GRANT_CNT
    else s

/-- The grants of all regions, while Heron runs (R521). -/
def opGrants (s : State) : State := if s.heronRuns then (List.range 4).foldl opGrant s else s

/-- The operating points at step 2 of a Round boundary: what is ready is applied, a new design power comes into force, and
the grants are computed (R527, R529). -/
def opBoundary (s : State) : State :=
  let s := (List.range 4).foldl opApply s
  let s := match s.heron.dpNext with
    | some w => s.setDesign w
    | none => s
  s.opGrants

/-- While the Round unit is in OFF, requests are evaluated as they arrive and a grant is applied as soon as it is ready
(R529). -/
def opNow (s : State) : State := if s.round.state = .off then s.opBoundary else s

/-- The HBM level of a region caps its core clock (R253, R254): the cap, where there is one. -/
def capHbm (s : State) (r : Nat) : Option Nat :=
  match tget (fun _ => 0) s.thr r with
  | 0 => none
  | 1 => some (min (if 1 ≤ (s.ctl (2 * r)).level then s.fld (Reg.HBMC_THERM (2 * r)) 2 0 else 7)
      (if 1 ≤ (s.ctl (2 * r + 1)).level then s.fld (Reg.HBMC_THERM (2 * r + 1)) 2 0 else 7))
  | _ => some 0

/-- The operating point a region's core clock runs at (R531). -/
def opClock (s : State) (r : Nat) : Nat :=
  match s.capHbm r with
  | some c => min (s.op r).applied c
  | none => (s.op r).applied

end State

/-- PHASE: the context's requested operating point is replaced, without waiting (R186, R528). -/
def execPhase (core : Fin 104) (s : State) : Res :=
  done (s.issue core fun a _ => match a with
    | .phase n => some fun s =>
      let s := match (s.core core).ctx with
        | some x => s.modCtx x fun k => { k with op := n }
        | none => s
      ((s.issued core).nextRow core).opNow
    | _ => none)

/-- PLL_LOCK: a region's second PLL has locked to the new frequency. -/
def execPllLock (region : Fin 4) (s : State) : Res :=
  let o := s.op region
  when o.target.isSome (fun s => (s.setOp region { o with pll := true }).opNow) s

/-- RAIL_RAMP_DONE: a region's core rail stands at the new applied voltage. -/
def execRailRampDone (region : Fin 4) (s : State) : Res :=
  let o := s.op region
  when o.target.isSome (fun s => (s.setOp region { o with rail := true }).opNow) s

/-! ### Temperatures (R523, R532, R533) -/

namespace State

/-- A diode's last reading; 0xFF while it has not been read. -/
def diode (s : State) (d : Nat) : Nat := tget (fun _ => 0xFF) s.heron.diodes d

/-- The highest reading among diodes, with the lowest diode that has it. -/
def hottest (s : State) (ds : List Nat) : Option (Nat × Nat) :=
  ds.foldl (fun m d =>
    let t := s.diode d
    if t = 0xFF then m
    else match m with
      | some (_, u) => if u < t then some (d, t) else m
      | none => some (d, t)) none

/-- Tj of a region, and TJ_MAX. -/
def tj (s : State) (r : Nat) : Option Nat := (s.hottest ((List.range 16).map (16 * r + ·))).map (·.2)

def tjMax (s : State) : Option (Nat × Nat) := s.hottest (List.range 64)

/-- A sensor's threshold state reaches the board controller: one event per sensor in 100 updates, with the latest state
(R550). -/
def sensorEvent (s : State) (id st : Nat) : State :=
  if st = tget (fun _ => 0) s.heron.seen id ∨ 0 < tget (fun _ => 0) s.heron.hush id then s
  else
    (s.setHeron { s.heron with
      seen := tset (fun _ => 0) s.heron.seen id st, hush := tset (fun _ => 0) s.heron.hush id 100 }).send (.platform (.sensor id st))

end State

/-- The threshold state of a temperature: 0 normal, 1 warning, 2 critical, 3 fatal (R549). -/
def tempState (t warn crit fatal : Nat) : Nat := if fatal ≤ t then 3 else if crit ≤ t then 2 else if warn ≤ t then 1 else 0

/-- DIODE_READ: every diode's reading, in °C; THERM_ALERT_N follows (R594). -/
def execDiodeRead (temps : List Byte) (s : State) : Res :=
  when (s.heron.state != .boot) (fun s =>
    let put (t : Tbl Nat) (d : Nat) : Tbl Nat :=
      match temps[d]? with
      | some v => tset (fun _ => 0xFF) t d v.toNat
      | none => t
    let s := s.setHeron { s.heron with diodes := (List.range 64).foldl put s.heron.diodes }
    let hot := (s.tjMax.any fun e => decide (s.heron.tctl ≤ e.2)) || (List.range 8).any fun k => decide (2 ≤ (s.ctl k).level)
    { s with pins := { s.pins with thermN := !hot } }) s

/-- THERMAL_CONTROL: the thermal caps move by one point, and THERM_ALARM is reported as TJ_MAX comes to T_CTL + 10 °C. -/
def execThermalControl (s : State) : Res :=
  when s.heronRuns (fun s =>
    let t := s.heron.tctl
    let s := (List.range 4).foldl (fun s r =>
      let o := s.op r
      match s.tj r with
      | none => s
      | some j =>
        if t ≤ j then (s.setOp r { o with capT := o.capT - 1 }).bumpIf (decide (0 < o.capT)) Reg.HERON_TCAP_CNT
        else if j + 5 ≤ t then s.setOp r { o with capT := min 7 (o.capT + 1) }
        else s) s
    let s := match s.tjMax with
      | none => s
      | some (d, j) =>
        let hot := decide (t + 10 ≤ j)
        let new := hot && !s.heron.alarm
        let s := s.setHeron { s.heron with alarm := hot }
        if new then
          ((s.raise (srcDevice 13) 0x602 none 0 0 (d + 256 * j)).logDue 2 1 (d + 256 * j)).sensorEvent 1 (tempState j t (t + 10) 115)
        else s
    s.opNow) s

/-- TRIP_SAMPLE: every comparator samples its diode; `hot` lists diodes with what they read. The second sample in a row at
115 °C or more drives the diode's fatal line (R533). -/
def execTripSample (hot : List (Fin 64 × Byte)) (s : State) : Res :=
  when (s.heron.state != .boot) (fun s =>
    let now := hot.filter fun e => decide (115 ≤ e.2.toNat)
    let trips := now.filter fun e => decide (e.1.val ∈ s.heron.hot ∧ e.1.val ∉ s.heron.tripped)
    let s := s.setHeron { s.heron with hot := now.map (·.1.val), tripped := s.heron.tripped ++ trips.map (·.1.val) }
    trips.foldl (fun s e =>
      let d := e.1.val + 256 * e.2.toNat
      (s.raise (srcDevice 13) 0x603 none 0 0 d).logDue 2 3 (d + 2 ^ 16)) s) s

/-! ### Event log (R537 to R539) -/

namespace State

/-- LOG_STS and LOG_SEQ follow the log. -/
def logRegs (s : State) : State :=
  let h := s.heron
  (((s.setFld Reg.HERON_LOG_STS 31 31 (b2n h.full)).setFld Reg.HERON_LOG_STS 27 16 h.repair.length).setFld Reg.HERON_LOG_STS 14 0
    h.main.length).setCfg Reg.HERON_LOG_SEQ (BitVec.ofNat 32 h.seq)

/-- A FIRMWARE record: its event, slot and Round. -/
def fwRecord (s : State) (event slot rnd : Nat) : State := s.logDue 4 0 (event + 256 * slot + rnd % 2 ^ 64 * 2 ^ 64)

/-- What the board controller is told of a record once it is written (R550, R564). -/
def logTells (s : State) (x : LogRec) : State :=
  if x.kind = 4 then s.send (.platform (.firmware (x.data % 256) (x.data / 256 % 2)))
  else if x.kind = 1 ∧ x.sev = 3 then s.send (.platform (.fatal x.data))
  else s

end State

/-- LOG_WRITE: the oldest due record goes into its area; a repair that finds the repair area full is not recorded. -/
def execLogWrite (s : State) : Res :=
  match s.due with
  | [] => done s
  | x :: rest =>
    when (s.heronRuns && !s.rst.pulse && !s.rst.late) (fun s =>
      let s := { s with due := rest }
      let h := s.heron
      let e : LogEnt := ⟨h.seq + 1, x.kind, x.sev, x.stamp, x.data⟩
      if x.kind = 5 ∨ x.kind = 6 then
        if 2048 ≤ h.repair.length then
          let s := ((s.setHeron { h with full := true }).logRegs).raise (srcDevice 6) 0x604
          if h.full then s else s.send (.platform .repairFull)
        else ({ s with heron := { h with repair := h.repair ++ [e], seq := h.seq + 1 }, rst := { s.rst with pulse := true } }).logRegs
      else
        let kept := if 30720 ≤ h.main.length then h.main.drop 1 else h.main
        (({ s with heron := { h with main := kept ++ [e], seq := h.seq + 1 }, rst := { s.rst with pulse := true } }).logRegs).logTells x) s

/-! ### The board controller (R547 to R550) -/

namespace State

/-- The threshold state of every sensor that raises events. -/
def sensorStates (s : State) : List (Nat × Nat) :=
  let t := s.heron.tctl
  let die (v : Option Nat) : Nat := (v.map fun j => tempState j t (t + 10) 115).getD 0
  [(1, die (s.tjMax.map (·.2)))] ++ (List.range 4).map (fun r => (2 + r, die (s.tj r)))
    ++ (List.range 8).map (fun k => (6 + k, if (s.ctl k).valid then
        tempState (s.ctl k).temp (s.fld (Reg.HBMC_THERM k) 23 16) (s.fld (Reg.HBMC_THERM k) 23 16 + 5) (s.fld (Reg.HBMC_THERM k) 31 24)
      else 0))
    ++ (List.range 9).map (fun n => (20 + n, if s.heron.ilim.getD n 0 < (s.rail n).amps then 2 else 0))
    ++ [(40, if s.heron.dp < s.heron.watts then 1 else 0)] ++ (List.range 4).map (fun r => (41 + r, (s.op r).applied))

end State

/-- SENSOR_UPDATE: the sensors take their values of this ms, with the block power in W, and changes of state are told. -/
def execSensorUpdate (watts : Half) (s : State) : Res :=
  when (s.heron.state != .boot) (fun s =>
    let s := s.setHeron { s.heron with watts := watts.toNat, ms := s.heron.ms + 1, hush := (s.heron.hush.map fun e => (e.1, e.2 - 1)).filter fun e => decide (e.2 ≠ 0) }
    if s.heronRuns then s.sensorStates.foldl (fun s e => s.sensorEvent e.1 e.2) s else s) s

/-- DESIGN_POWER_EFFECTER: a value from 550 to DP_MAX takes effect at the next Round boundary. -/
def execDesignPowerEffecter (watts : Half) (s : State) : Res :=
  when s.heronRuns (fun s =>
    let w := watts.toNat
    if 550 ≤ w ∧ w ≤ s.heron.dpMax then
      (((s.setHeron { s.heron with dpNext := some w }).logDue 0xA 0 w).send (.pldm .ok)).opNow
    else s.send (.pldm .invalidData)) s

/-- LOG_READ: up to 8 records from an index of an area, counted from the oldest. -/
def execLogRead (repair : Bool) (index : Half) (s : State) : Res :=
  when s.heronRuns (fun s => s.send (.logRead (((if repair then s.heron.repair else s.heron.main).drop index.toNat).take 8))) s

/-- ENTDAA: Heron takes a dynamic address. -/
def execEntdaa (addr : BitVec 7) (s : State) : Res :=
  when (s.heronRuns && s.heron.addr.isNone) (fun s => s.setHeron { s.heron with addr := some addr.toNat }) s

/-- SETDASA: Heron takes a dynamic address where the option bytes give it the static address that is named. -/
def execSetdasa (static addr : BitVec 7) (s : State) : Res :=
  when (s.heronRuns && s.heron.addr.isNone && decide (s.heron.static ≠ 0 ∧ s.heron.static = static.toNat))
    (fun s => s.setHeron { s.heron with addr := some addr.toNat }) s

/-! ### Firmware update (R541 to R546, R626) -/

namespace State

def slotAt (s : State) (i : Nat) : FwSlot := s.heron.slots.getD i {}

def setSlot (s : State) (i : Nat) (x : FwSlot) : State := s.setHeron { s.heron with slots := s.heron.slots.set i x }

def slotState (s : State) (i : Nat) (st : FwState) : State := s.setSlot i { s.slotAt i with state := st }

/-- The active slot. -/
def activeSlot (s : State) : Nat := if (s.slotAt 1).state = .active then 1 else 0

/-- The version rules, and the digest of the named key slot's key against its fuse, which the verdict on the signature
carries (R626). -/
def setPasses (s : State) (signed digests : Bool) (svn key : Nat) : Bool :=
  signed && digests && !bitOf s.sedge.revoked key && decide (svn ≤ 64) && decide (s.sedge.minSvn ≤ svn)

/-- Sedge offers firmware authentication (R615). -/
def sedgeServes (s : State) : Bool := s.sedge.state == .approved || s.sedge.state == .nonapproved

end State

/-- A component's reserved bytes are zero (R540, R543). -/
def optReserved (b : List Byte) : Bool :=
  decide (b.length = 256) && ((List.range 11).map (0x15 + ·) ++ (List.range 202).map (0x32 + ·)).all fun i => decide (b.getD i 0 = 0)

/-- Option bytes with ACTIVE replaced, under a CRC that holds again (R545). -/
def optActive (b : List Byte) (slot : Nat) : List Byte :=
  let head := (b.set 9 (BitVec.ofNat 8 slot)).take 0xFC
  head ++ leBytes 4 (crc32c head)

/-- REQUEST_UPDATE: an update of the firmware set goes into the inactive slot, or of the option bytes. A slot that an
activation or its revert still needs is not written (DESIGN CHOICE). -/
def execRequestUpdate (options : Bool) (s : State) : Res :=
  when s.heronRuns (fun s =>
    let other := 1 - s.activeSlot
    if s.heron.update.isSome then s.send (.pldm .alreadyInUpdate)
    else if options then (s.setHeron { s.heron with update := some { comp := 2 } }).send (.pldm .ok)
    else if s.heron.act.isSome ∨ s.heron.check.isSome ∨ s.heron.revert.isSome then s.send (.pldm .refused)
    else ((s.setHeron { s.heron with update := some { comp := 1 } }).setSlot other { state := .staging }).send (.pldm .ok)) s

/-- VERIFY_COMPLETE. -/
def execVerifyComplete (img : Component) (s : State) : Res :=
  let other := 1 - s.activeSlot
  let pass (u : Update) (s : State) : State := (s.setHeron { s.heron with update := some { u with verified := true } }).send (.pldm .ok)
  let fail (s : State) : State := (s.setHeron { s.heron with update := none }).send (.pldm .verifyFailed)
  match s.heron.update with
  | none => when s.heronRuns (fun s => s.send (.pldm .notInUpdate)) s
  | some u =>
    when (s.heronRuns && !u.verified && s.sedge.state != .selftest) (fun s =>
      match img with
      | .set signed digests svn key approved raising =>
        if u.comp ≠ 1 then fail s
        else if s.sedgeServes && s.setPasses signed digests svn.toNat key then
          ((pass u s).setSlot other ⟨.staged, ⟨svn.toNat, key, approved, raising⟩⟩).fwRecord 0 other s.rnd
        else (fail s).slotState other .failed
      | .revoke signed key slots =>
        if u.comp ≠ 1 then fail s
        else if s.sedgeServes && signed && !bitOf s.sedge.revoked key then
          let keep := (s.slotAt s.activeSlot).man.key
          let mask := (List.range 4).foldl (fun m k => if slots.getLsbD k && decide (k ≠ keep) && !bitOf m k then m + 2 ^ k else m) s.sedge.revoked
          (pass u { s with sedge := { s.sedge with revoked := mask } }).slotState other .empty
        else (fail s).slotState other .failed
      | .options bytes =>
        if u.comp = 2 ∧ optReserved bytes then pass u (s.setHeron { s.heron with staged := bytes })
        else if u.comp = 1 then (fail s).slotState other .failed
        else fail s) s

/-- APPLY_COMPLETE: the update ends, and a verified option component is written. -/
def execApplyComplete (s : State) : Res :=
  match s.heron.update with
  | some ⟨comp, true⟩ =>
    when (s.heronRuns && (decide (comp = 1) || (!s.rst.pulse && !s.rst.late))) (fun s =>
      let s := s.setHeron { s.heron with update := none }
      let s := if comp = 1 then s
        else { s with heron := { s.heron with opts := s.heron.staged, staged := [] }, rst := { s.rst with pulse := true } }
      s.send (.pldm .ok)) s
  | _ => when s.heronRuns (fun s => s.send (.pldm .notInUpdate)) s

namespace State

/-- Schedule an activation: the slot is PENDING, and the record says so. -/
def schedule (s : State) (slot rnd : Nat) (cmd : Option Cmd) : State :=
  ((s.slotState slot .pending).setHeron { (s.slotState slot .pending).heron with act := some { slot := slot, rnd := rnd, cmd := cmd } }).fwRecord 1
    slot rnd

end State

/-- ACTIVATE_FIRMWARE: PLDM schedules the STAGED slot at the current Round plus 1,024. -/
def execActivateFirmware (s : State) : Res :=
  when s.heronRuns (fun s =>
    let other := 1 - s.activeSlot
    if (s.slotAt other).state = .staged ∧ s.heron.act.isNone ∧ s.heron.check.isNone ∧ s.heron.revert.isNone then
      (s.schedule other (s.rnd + 1024) none).send (.pldm .ok)
    else s.send (.pldm .refused)) s

/-- FW_ACTIVATE: schedules the activation of a STAGED slot at a named Round; the record waits for the self-checks. -/
def execFwActivate (src : CmdSrc) (s : State) : Res :=
  done (s.withCmd src 0x000B fun c s =>
    let slot := c.par 8 1
    if s.heron.act.isSome then s.complete c 6 4
    else if (s.slotAt slot).state ≠ .staged ∨ s.heron.check.isSome ∨ s.heron.revert.isSome then s.complete c 6 (s.slotAt slot).state.code
    else (s.running c).schedule slot (c.par 0 8) (some c))

namespace State

/-- Heron enters RESTART. -/
def heronRestart (s : State) (cause : Nat) : State :=
  let s := s.setHeron { s.heron with state := .restart }
  (s.setFld Reg.HERON_STS 15 8 (min 255 (s.fld Reg.HERON_STS 15 8 + 1))).logDue 8 (if cause = 0 then 2 else 0) cause

/-- Sedge restarts in a new image: its sessions end and it tests itself; ERROR and DECOMMISSIONED are not left (R545, R615,
R622). Its change of state is logged through kind 0x7F5. -/
def sedgeRestart (s : State) : State :=
  if s.sedge.state = .error ∨ s.sedge.state = .decommissioned then s
  else ({ s with sedge := { s.sedge with state := .selftest, sess := [], alias_ := 0 } }).raise (srcDevice 7) 0x7F5

/-- Sedge leaves approved mode (R617); its change of state is logged through kind 0x7F5. -/
def leaveApproved (s : State) : State :=
  if s.sedge.state = .approved then ({ s with sedge := { s.sedge with state := .nonapproved } }).raise (srcDevice 7) 0x7F5 else s

/-- The steps of R545 for a slot. -/
def swapTo (s : State) (slot : Nat) (oldState : FwState) : State :=
  let old := s.activeSlot
  let s := (s.slotState old oldState).slotState slot .active
  let s := { s with heron := { s.heron with opts := optActive s.heron.opts slot }, rst := { s.rst with pulse := true } }
  ((s.setFld Reg.HERON_STS 2 2 slot).heronRestart 1).sedgeRestart

/-- Step 2 of a Round boundary for firmware: a revert is carried out, or an activation whose Round has come, unless the
state of the Round unit defers it (R544 to R546). -/
def fwBoundary (s : State) : State :=
  if s.sump.fatal then s
  else
    match s.heron.revert with
    | some k =>
      let s := (s.setHeron { s.heron with revert := none }).swapTo k.old .failed
      let s := s.fwRecord 3 k.old s.rnd
      match k.cmd with
      | some c => s.complete c 6 5
      | none => s
    | none =>
      match s.heron.act with
      | none => s
      | some a =>
        if s.rnd < a.rnd ∨ s.rst.late then s
        else if s.round.state = .locked ∨ s.round.state = .master ∨ s.round.state = .holdover then
          let old := s.activeSlot
          let s := (s.swapTo a.slot .staged).fwRecord 2 a.slot s.rnd
          s.setHeron { s.heron with act := none, check := some { slot := a.slot, old := old, rnd := s.rnd, cmd := a.cmd } }
        else if a.deferred then s
        else ((s.setHeron { s.heron with act := some { a with deferred := true } }).fwRecord 4 a.slot a.rnd).bump Reg.HERON_DEFER_CNT

/-- MIN_SVN rises; a STAGED set below it can never be activated (R626). -/
def raiseSvn (s : State) (n : Nat) : State :=
  if n ≤ s.sedge.minSvn then s
  else
    let s := { s with sedge := { s.sedge with minSvn := n } }
    [0, 1].foldl (fun s i => if (s.slotAt i).state = .staged ∧ (s.slotAt i).man.svn < n then s.slotState i .failed else s) s

end State

/-- FIRMWARE_SELF_CHECK: the three self-checks of a new set pass, or one fails within 1 s and the previous slot comes back
at the next boundary. -/
def execFirmwareSelfCheck (pass : Bool) (s : State) : Res :=
  match s.heron.check with
  | none => done s
  | some k =>
    if pass then
      when (s.heronRuns && s.sedgeServes && s.bitternUp && !s.sump.fatal) (fun s =>
        let s := s.setHeron { s.heron with check := none }
        let m := (s.slotAt k.slot).man
        let s := if m.raising then s.raiseSvn m.svn else s
        match k.cmd with
        | some c => s.complete c 0 0 0 k.rnd
        | none => s) s
    else
      done ((s.slotState k.slot .failed).setHeron { (s.slotState k.slot .failed).heron with check := none, revert := some k })

/-! ### Restarts (R24, R521, R583) -/

/-- HERON_RESTART_DONE: RESTART ends in RUN. -/
def execHeronRestartDone (s : State) : Res :=
  when (s.heron.state == .restart) (fun s => s.setHeron { s.heron with state := .run }) s

/-- A lockstep miscompare: Heron restarts alone. -/
def State.miscompare (s : State) : State := (s.heronRestart 0).raise (srcDevice 6) 0x701

/-- HERON_LOCKSTEP. -/
def execHeronLockstep (s : State) : Res := when s.heronRuns (fun s => s.miscompare) s

/-- HERON_WATCHDOG: the watchdog forces a miscompare. -/
def execHeronWatchdog (s : State) : Res := when s.heronRuns (fun s => (s.bump Reg.RST_H_WDT_CNT).miscompare) s

/-- A Bittern core goes out of service and is reported; the rings are spread over the others. -/
def State.bitternCore (s : State) (c : Nat) : State :=
  ({ s with vci := { s.vci with dead := s.vci.dead ++ [c] } }).raise (srcDevice (2 + c)) 0x700

/-- BITTERN_CORE: a core of Bittern fails (R23). -/
def execBitternCore (core : Fin 4) (s : State) : Res :=
  when (s.vci.up && decide (core.val ∉ s.vci.dead)) (fun s => s.bitternCore core) s

/-- BITTERN_WATCHDOG: the core is reset, and its expiry is reported. -/
def execBitternWatchdog (core : Fin 4) (s : State) : Res :=
  when (s.vci.up && decide (core.val ∉ s.vci.dead)) (fun s => (s.bump Reg.RST_B_WDT_CNT).bitternCore core) s

/-- BITTERN_CORE_REJOIN: the core has passed its self-check. -/
def execBitternCoreRejoin (core : Fin 4) (s : State) : Res :=
  when (s.vci.up && decide (core.val ∈ s.vci.dead)) (fun s =>
    { s with vci := { s.vci with dead := s.vci.dead.filter (· ≠ core.val) } }) s

end Sys2Proof.Machine
end

