-- ==== Sys2Proof/Machine/Lode.lean ====
section
/-!
DEFINITION. The lodes: R372 to R408, R593. Probing and training, blocks and retry, width, keys and authentication,
quarantine, and the commands of LODE_CTL.
-/
namespace Sys2Proof.Machine

/-! ### Widths and lanes (R394 to R396) -/

/-- Groups of a width code. -/
def groupOk (w g : Nat) : Bool := decide (w < 3) && decide (g < 8 / lanesOf w)

/-- The lanes of a group. -/
def groupLanes (w g : Nat) : List Nat := (List.range (lanesOf w)).map (lanesOf w * g + ·)

/-- The widest width of at least MINW with a group whose lanes all lie in a mask, and its lowest group (R395). -/
def chooseWidth (mask minw : Nat) : Option (Nat × Nat) :=
  [(0, 0), (1, 0), (1, 1), (2, 0), (2, 1), (2, 2), (2, 3)].find? fun c =>
    decide (c.1 + minw ≤ 2) && (groupLanes c.1 c.2).all fun n => bitOf mask n

/-- The greatest FILL of a width (R386). -/
def fillMax (w : Nat) : Nat := if w = 0 then 33 else if w = 1 then 67 else 135

def setBitIn (m n : Nat) : Nat := if bitOf m n then m else m + 2 ^ n
def clearBitIn (m n : Nat) : Nat := if bitOf m n then m - 2 ^ n else m

def LodeSt.usable (k : LodeSt) : Nat := (List.range 8).foldl (fun m n => if bitOf k.lock n && !bitOf k.degraded n then m + 2 ^ n else m) 0

/-! ### Sending -/

/-- A message's 20 bytes (R387). -/
def msgBytes (m : Nat × Nat) : List Byte := leBytes 4 m.1 ++ leBytes 16 m.2

/-- 30 messages, EMPTY ones after those given. -/
def msgsBytes (ms : List (Nat × Nat)) : List Byte := (ms ++ List.replicate (30 - ms.length) (0, 0)).flatMap msgBytes

namespace State

def setLode (s : State) (l : Nat) (k : LodeSt) : State := { s with lodes := tset (fun _ => {}) s.lodes l k }

def modLode (s : State) (l : Nat) (f : LodeSt → LodeSt) : State := s.setLode l (f (s.lode l))

/-- A message to the partner in the next control or training block. -/
def lodeSay (s : State) (l ty body : Nat) : State := s.modLode l fun k => { k with msgs := k.msgs ++ [(ty, body)] }

/-- A block header (R385). -/
def lodeHeader (s : State) (l kind seq : Nat) (fill : Option Nat) : Nat :=
  let k := s.lode l
  kind * 2 ^ 38 + seq % 2 ^ 14 * 2 ^ 24 + (k.e + 16383) % 2 ^ 14 * 2 ^ 10 + b2n k.nak * 2 ^ 9 + b2n fill.isSome * 2 ^ 8
    + (fill.getD 0) % 256

/-- The key in force for a data block number, and for a CCTR (R403). -/
def txDataKey (k : LodeSt) (n : Nat) : Nat :=
  match k.txNext with
  | some x => if x.n ≤ n then x.key else k.txKey
  | none => k.txKey

def txCtlKey (k : LodeSt) (c : Nat) : Nat :=
  match k.txNext with
  | some x => if x.c ≤ c then x.key else k.txKey
  | none => k.txKey

/-- A control block leaves with messages. -/
def lodeControl (s : State) (l : Nat) (ms : List (Nat × Nat)) (fill : Option Nat) : State :=
  let k := s.lode l
  let body := leBytes 8 k.cctrTx ++ msgsBytes ms ++ List.replicate 16 0#8
  let s := s.send (.block l k.txw k.txg (s.lodeHeader l 1 k.n fill) body (txCtlKey k k.cctrTx) k.cctrTx)
  s.modLode l fun k => { k with cctrTx := k.cctrTx + 1 }

/-- The session of a lode ends (R406): its keys, numbers and held blocks go, and the fabric's packets come back to their
connections. -/
def lodeEnd (s : State) (l : Nat) : State :=
  let s := s.modLode l fun k =>
    { k with
      txKey := 0, rxKey := 0, txNext := none, rxNext := none, n := 0, replay := [], resend := [], e := 0, nak := false
      nakAgain := false, nakSeen := false, timeouts := 0, cctrTx := 0, cctrRx := none, msgs := [], inbox := [], mark := none
      setDue := false, want := none, asks := 0, authIn := [], authFrag := 0, authDone := false, authStep := 0, peer := none
      partner := none, session := false }
  s.fabLodeDown l

/-- A lode takes a state, its session ended. -/
def lodeGo (s : State) (l : Nat) (st : LodeState) : State :=
  (s.lodeEnd l).modLode l fun k => { k with state := st, infoTx := false, infoRx := false, lock := 0, degraded := 0, trying := 0 }

/-- PROBE, with the backoff from its start (R380). -/
def lodeProbe (s : State) (l : Nat) : State :=
  (s.lodeGo l .probe).modLode l fun k => { k with backoff := max 1 (s.fld (Reg.LODE_BACKOFF l) 15 0) }

/-- DARK; from OFF and DARK nothing changes. -/
def lodeDark (s : State) (l : Nat) : State :=
  if (s.lode l).state = .off ∨ (s.lode l).state = .dark then s
  else (s.lodeGo l .dark).modLode l fun k => { k with latched := false }

/-- QUARANTINE with a cause (R405). -/
def quarantine (s : State) (l cause : Nat) : State :=
  let k := s.lode l
  let s := if k.state = .active then s.lodeControl l [(8, cause * 2 ^ 125)] none else s
  let s := (s.setFld (Reg.LODE_QSTS l) 30 28 cause).bump (Reg.LODE_QUAR_CNT l)
  let n := min 255 (k.qcnt + 1)
  let s := (s.lodeGo l .quarantine).modLode l fun k =>
    { k with qcnt := n, latched := decide (s.fld (Reg.LODE_QCTL1 l) 7 4 < n), ue := 0, tag := 0, bad := 0, retrains := 0, authFails := 0 }
  s.raise (srcRegion (l / 4) (4 + l % 4)) 0x400 none 0 0 cause

def lodeLit (s : State) (l : Nat) : Bool :=
  let st := (s.lode l).state
  st == .train || st == .auth || st == .active

/-- Quarantine when a window's count has passed its threshold. -/
def overLimit (s : State) (l n limit cause : Nat) : State := if s.lodeLit l && decide (limit < n) then s.quarantine l cause else s

/-- A discarded block, message or marker. -/
def lodeBad (s : State) (l : Nat) : State :=
  let s := (s.bump (Reg.LODE_BAD_CNT l)).modLode l fun k => { k with bad := k.bad + 1 }
  s.overLimit l (s.lode l).bad (s.fld (Reg.LODE_QCTL1 l) 23 16) 3

/-- NAK is set in the headers that follow (R391). -/
def lodeNak (s : State) (l : Nat) : State :=
  s.modLode l fun k => if k.nak then k else { k with nak := true, nakAgain := false }

/-- A failure of the exchange (R402): DARK and then PROBE, or quarantine. -/
def authFail (s : State) (l : Nat) : State :=
  let s := (s.bump (Reg.LODE_AUTH_FAIL_CNT l)).modLode l fun k => { k with authFails := k.authFails + 1 }
  if max 1 (s.fld (Reg.LODE_QCTL1 l) 3 0) ≤ (s.lode l).authFails then s.quarantine l 5 else s.lodeProbe l

/-- A retrain is counted; past the window's threshold the lode is quarantined, otherwise it goes on. -/
def retrainCount (s : State) (l : Nat) (go : State → State) : State :=
  let s := (s.bump (Reg.LODE_RETRAIN_CNT l)).modLode l fun k => { k with retrains := k.retrains + 1 }
  if s.fld (Reg.LODE_QCTL1 l) 15 8 < (s.lode l).retrains then s.quarantine l 4 else go s

/-- An in-session retrain (R399): keys, counters, replay buffer and E are kept. -/
def lodeRetrain (s : State) (l : Nat) : State :=
  if (s.lode l).state ≠ .active then s
  else s.retrainCount l fun s => s.modLode l fun k =>
    { k with state := .train, fresh := false, infoTx := false, infoRx := false, lock := 0, degraded := 0, want := none, asks := 0
             trying := 0, inbox := [], mark := none }

/-- Every held block is to be sent again. -/
def lodeResend (s : State) (l : Nat) : State := s.modLode l fun k => { k with resend := k.replay.map (·.n) }

/-- Training is complete once both ends have exchanged TRAIN_INFO (R381). -/
def trained (s : State) (l : Nat) : State :=
  let k := s.lode l
  if k.state ≠ .train ∨ !k.infoTx ∨ !k.infoRx then s
  else if k.fresh then s.setLode l { k with state := .auth, msgs := [] }
  else (s.setLode l { k with state := .active, timeouts := 0 }).lodeResend l

/-- The transmitter takes a width and group, and a marker set precedes the next block. -/
def txWidth (s : State) (l w g : Nat) : State :=
  let k := s.lode l
  let s := s.setLode l { k with txw := w, txg := g, setDue := true }
  if k.state ≠ .active then s
  else if k.txw < w then (s.bump (Reg.LODE_NARROW_CNT l)).lodeResend l
  else s.bumpIf (decide (w < k.txw)) (Reg.LODE_WIDEN_CNT l)

/-- The receiver asks for a width (R396, R397). -/
def askWidth (s : State) (l w g : Nat) : State :=
  let k := s.lode l
  (s.setLode l { k with want := some (w, g), asks := 1 }).lodeSay l 4 (w * 2 ^ 126 + g * 2 ^ 124 + k.lock % 256 * 2 ^ 116)

/-- A receive lane has stopped being usable (R396). -/
def laneLost (s : State) (l lane : Nat) : State :=
  let k := s.lode l
  if k.state ≠ .active then s
  else if k.lock = 0 then s.lodeRetrain l
  else if lane ∈ groupLanes k.rxw k.rxg then
    match chooseWidth k.usable (s.fld (Reg.LODE_CTL l) 5 4) with
    | some (w, g) => (s.lodeNak l).askWidth l w g
    | none => s.lodeRetrain l
  else s

/-- What a lode event may act in. -/
def lodeEvent (s : State) (l : Nat) (sts : List LodeState) (f : State → State) : Res :=
  when (!s.sump.fatal && decide ((s.lode l).state ∈ sts)) f s

end State

/-! ### Probing and training (R379 to R381, R593) -/

/-- PROBE_BURST: the interval doubles, up to MAX. -/
def execProbeBurst (lode : Fin 16) (s : State) : Res :=
  s.lodeEvent lode [.probe] fun s =>
    let lo := max 1 (s.fld (Reg.LODE_BACKOFF lode) 15 0)
    let hi := max lo (s.fld (Reg.LODE_BACKOFF lode) 31 16)
    ((s.modLode lode fun k => { k with backoff := min hi (2 * k.backoff) }).bump (Reg.LODE_PROBE_CNT lode)).send (.burst lode)

/-- LIGHT_DETECT: a probing lode meets light and trains, unless Sedge holds it in PROBE (R616). -/
def execLightDetect (lode : Fin 16) (s : State) : Res :=
  s.lodeEvent lode [.probe] fun s =>
    if s.sedge.state = .error ∨ s.sedge.state = .decommissioned then s
    else s.modLode lode fun k => { k with state := .train, fresh := true, txw := 0, txg := 0, rxw := 0, rxg := 0 }

/-- RECEIVE_LANE_LOCK: a lane's clock recovery and deskew are done. -/
def execReceiveLaneLock (lode : Fin 16) (lane : Fin 8) (s : State) : Res :=
  s.lodeEvent lode [.train, .auth, .active] fun s =>
    { s with rst := { s.rst with badClk := s.rst.badClk.filter (· ≠ lode.val) } }.modLode lode fun k => { k with lock := setBitIn k.lock lane }

/-- TRAIN_INFO: the transmitter takes the width that the partner's message names. -/
def execTrainInfo (lode : Fin 16) (s : State) : Res :=
  s.lodeEvent lode [.train] fun s =>
    match (s.lode lode).inbox with
    | (6, b) :: rest =>
      (s.modLode lode fun k => { k with inbox := rest, infoRx := true, txw := bitsOf b 119 118, txg := bitsOf b 117 116, setDue := true }).trained lode
    | _ => s

/-- TRAIN_TIMEOUT: 4 ms have passed in TRAIN. -/
def execTrainTimeout (lode : Fin 16) (s : State) : Res :=
  s.lodeEvent lode [.train] fun s => s.retrainCount lode fun s => s.lodeProbe lode

/-- LODE_DOMAIN_ON: the domain of an enabled lode is powered; OFF ends in DARK, and then PROBE. -/
def execLodeDomainOn (lode : Fin 16) (s : State) : Res :=
  s.lodeEvent lode [.off] fun s => if s.rst.ready && s.bit (Reg.LODE_CTL lode) 0 then s.lodeProbe lode else s

/-- LODE_POWER_DOWN: after 1 s in DARK with ENABLE 0. -/
def execLodePowerDown (lode : Fin 16) (s : State) : Res :=
  s.lodeEvent lode [.dark] fun s => if s.bit (Reg.LODE_CTL lode) 0 then s else s.modLode lode fun k => { k with state := .off }

/-! ### Blocks that arrive (R382 to R391, R401) -/

namespace State

/-- The codewords of a block are decoded: up to 7 errors in each are corrected and counted against their lanes (R383, R390).
Whether the block can be read. -/
def rsDecode (s : State) (l : Nat) (errs : List (Fin 544)) : Bool × State :=
  let es := (errs.map (·.val)).eraseDups
  let a := (es.filter fun i => decide (i % 2 = 0)).length
  let b := es.length - a
  if 7 < a ∨ 7 < b then
    let s := (s.bump (Reg.LODE_UE_BLK_CNT l)).modLode l fun k => { k with ue := k.ue + 1 }
    let s := if (s.lode l).state = .active then s.lodeNak l else s
    (false, s.overLimit l (s.lode l).ue (s.fld (Reg.LODE_QCTL0 l) 31 16) 1)
  else
    let w := (s.lode l).rxw
    let g := (s.lode l).rxg
    let s := s.bumpBy (Reg.LODE_CORR_CW_CNT l) (b2n (decide (0 < a)) + b2n (decide (0 < b)))
    (true, es.foldl (fun s i => s.bump (Reg.LODE_LSYM l (lanesOf w * g + i / 2 % lanesOf w))) s)

/-- Whether a header can be taken in the lode's state (R386). -/
def headerOk (s : State) (l : Nat) (h : BitVec 40) : Bool :=
  let k := s.lode l
  let kind := bitsOf h.toNat 39 38
  decide (bitsOf h.toNat 7 0 ≤ fillMax k.rxw)
    && (if k.state = .active then decide (kind = 0 ∨ kind = 1) else decide (k.state = .train ∨ k.state = .auth) && decide (kind = 2))

/-- A tag failure (R401). -/
def tagFail (s : State) (l : Nat) : State :=
  let s := (s.bump (Reg.LODE_TAG_FAIL_CNT l)).modLode l fun k => { k with tag := k.tag + 1 }
  s.overLimit l (s.lode l).tag (s.fld (Reg.LODE_QCTL1 l) 31 24) 2

/-- The ACK and NAK of a verified header: blocks it covers leave the replay buffer, and a NAK that may be acted on sends
the others again (R391). `due`: RTT_MAX has passed since a NAK was acted on. -/
def ackIn (s : State) (l : Nat) (h : Nat) (due : Bool) : State :=
  let k := s.lode l
  let k := match k.replay.find? fun b => decide (b.n % 2 ^ 14 = bitsOf h 23 10) with
    | some b =>
      let k := { k with replay := k.replay.filter fun c => decide (b.n < c.n), resend := k.resend.filter fun n => decide (b.n < n), timeouts := 0 }
      match k.txNext with
      | some x => if x.n ≤ b.n then { k with txKey := x.key, txNext := none } else k
      | none => k
    | none => k
  if bitOf h 9 && (!k.nakSeen || due) then ((s.setLode l { k with nakSeen := true }).lodeResend l).bump (Reg.LODE_RETRY_CNT l)
  else s.setLode l k

/-- Whether a message is well-formed and its type has a place in a block of this kind; `first`: it stands in slot 0 (R387). -/
def msgOk (control first : Bool) (h : Word) (b : QWord) : Bool :=
  let b := b.toNat
  match h.toNat with
  | 0 => decide (b = 0)
  | 1 => control && first
  | 2 => control && decide (b % 2 ^ 112 = 0)
  | 3 => control
  | 4 => decide (b % 2 ^ 116 = 0) && groupOk (bitsOf b 127 126) (bitsOf b 125 124)
  | 5 => control
  | 6 => !control && decide (b % 2 ^ 115 = 0) && groupOk (bitsOf b 119 118) (bitsOf b 117 116)
  | 7 => !control
  | 8 => control && decide (b % 2 ^ 125 = 0)
  | _ => false

/-- The messages of an accepted block: those that are well-formed wait to be processed, each other one is discarded. -/
def msgsIn (s : State) (l : Nat) (control : Bool) (ms : List (Word × QWord)) : State :=
  let es := (ms.take 30).zipIdx
  let good := es.filter fun e => msgOk control (decide (e.2 = 0)) e.1.1 e.1.2
  let s := s.modLode l fun k => { k with inbox := k.inbox ++ (good.filter fun e => decide (e.1.1 ≠ 0#32)).map fun e => (e.1.1.toNat, e.1.2.toNat) }
  (es.filter fun e => !msgOk control (decide (e.2 = 0)) e.1.1 e.1.2).foldl (fun s _ => s.lodeBad l) s

end State

/-- DATA_BLOCK: accepted in order; a duplicate is discarded; everything else asks for a resend (R391). -/
def execDataBlock (lode : Fin 16) (header : BitVec 40) (errs : List (Fin 544)) (tagOk nakDue : Bool) (slots : List Byte) (s : State) : Res :=
  let kind := bitsOf header.toNat 39 38
  when (!s.sump.fatal && s.lodeLit lode && decide (kind = 0 ∨ kind = 3)) (fun s =>
    let d := s.rsDecode lode errs
    if !d.1 then d.2
    else if !d.2.headerOk lode header then d.2.lodeBad lode
    else
      let s := d.2
      let k := s.lode lode
      let off := (bitsOf header.toNat 37 24 + 2 ^ 14 - k.e % 2 ^ 14) % 2 ^ 14
      if off = 0 then
        if tagOk then
          let ps := pktsOf 39 (slots.take 624)
          let key := match k.rxNext with
            | some x => if x.n ≤ k.e then x.key else k.rxKey
            | none => k.rxKey
          let s := s.setLode lode { k with e := k.e + 1, nak := false, nakAgain := false, rxKey := key }
          let s := s.ackIn lode header.toNat nakDue
          let s := ps.1.foldl (fun s p => s.arrive (some lode) p) s
          s.bumpIf ps.2 (Reg.FAB_FRAME_CNT (lode / 4))
        else (s.tagFail lode).lodeNak lode
      else if 2 ^ 14 - 8191 ≤ off then s.bump (Reg.LODE_DUP_CNT lode)
      else s.lodeNak lode) s

/-- CONTROL_BLOCK: a CCTR that does not rise is discarded, and so is a block whose tag fails (R401). -/
def execControlBlock (lode : Fin 16) (header : BitVec 40) (errs : List (Fin 544)) (tagOk nakDue : Bool) (cctr : DWord)
    (msgs : List (Word × QWord)) (s : State) : Res :=
  when (!s.sump.fatal && s.lodeLit lode && decide (bitsOf header.toNat 39 38 = 1)) (fun s =>
    let d := s.rsDecode lode errs
    if !d.1 then d.2
    else if !d.2.headerOk lode header ∨ 2 ^ 63 ≤ cctr.toNat then d.2.lodeBad lode
    else
      let s := d.2
      let k := s.lode lode
      if k.cctrRx.any fun c => decide (cctr.toNat ≤ c) then s.bump (Reg.LODE_DUP_CNT lode)
      else if !tagOk then s.tagFail lode
      else
        let s := s.setLode lode { k with cctrRx := some cctr.toNat }
        (s.ackIn lode header.toNat nakDue).msgsIn lode true msgs) s

/-- TRAINING_BLOCK. -/
def execTrainingBlock (lode : Fin 16) (header : BitVec 40) (errs : List (Fin 544)) (msgs : List (Word × QWord)) (s : State) : Res :=
  when (!s.sump.fatal && s.lodeLit lode && decide (bitsOf header.toNat 39 38 = 2)) (fun s =>
    let d := s.rsDecode lode errs
    if !d.1 then d.2
    else if !d.2.headerOk lode header then d.2.lodeBad lode
    else d.2.msgsIn lode false msgs) s

/-! ### Blocks that leave (R388, R392, R415) -/

namespace State

/-- The next packet of a lode that fits in `room` slots: an ACK, a resend, or the next connection's in turn. -/
def packNext (s : State) (l room : Nat) : Option Pkt × State :=
  let cs := (s.fab.conns.filter fun e => decide (e.2.state = .opened ∧ e.2.act = some l)).map (·.1)
  match cs.find? fun c => !(s.conn c).acks.isEmpty with
  | some c => if 2 ≤ room then s.sendAck c else (none, s)
  | none =>
    match cs.find? fun c => !(s.conn c).again.isEmpty with
    | some c =>
      let k := s.conn c
      let n := match k.held.find? fun h => decide (some h.pkt.psn = k.again.head?) with
        | some h => h.pkt.slots
        | none => 0
      if n ≤ room then s.sendAgain c else (none, s)
    | none =>
      let last := tget (fun _ => 4095) s.fab.rr l
      let turnOf (c : Nat) : Nat := (c + 4095 - last) % 4096
      let best := (cs.filter s.mayNew).foldl (fun o c =>
        match o with
        | some d => if turnOf c < turnOf d then some c else some d
        | none => some c) none
      match best with
      | some c =>
        if ((s.conn c).ready.head?.map (·.pkt.slots)).getD 0 ≤ room then
          let o := s.sendNew c
          (o.1, o.2.setFab { o.2.fab with rr := tset (fun _ => 4095) o.2.fab.rr l c })
        else (none, s)
      | none => (none, s)

/-- The packets of a data block; `n` bounds them. -/
def pack (l : Nat) : Nat → Nat → State → List Byte × State
  | 0, _, s => ([], s)
  | n + 1, room, s =>
    let o := s.packNext l room
    match o.1 with
    | some p =>
      let r := pack l n (room - p.slots) o.2
      (p.wire ++ r.1, r.2)
    | none => ([], o.2)

/-- Whether the transport has slots for a lode. -/
def hasSlots (s : State) (l : Nat) : Bool :=
  s.fab.conns.any fun e => decide (e.2.state = .opened ∧ e.2.act = some l) && (!e.2.acks.isEmpty || !e.2.again.isEmpty || s.mayNew e.1)

/-- The next block of an ACTIVE lode, in the order of R392. `fill`: a Round mark's block follows this one after a fill. -/
def nextBlock (s : State) (l : Nat) (fill : Option Nat) : State :=
  let k := s.lode l
  match k.mark with
  | some m =>
    let ms := (1, m) :: k.msgs.take 29
    (s.setLode l { k with mark := none, msgs := k.msgs.drop 29 }).lodeControl l ms fill
  | none =>
    if !k.msgs.isEmpty then (s.setLode l { k with msgs := k.msgs.drop 30 }).lodeControl l (k.msgs.take 30) fill
    else
      match k.resend with
      | n :: rest =>
        let s := s.setLode l { k with resend := rest }
        match k.replay.find? fun b => decide (b.n = n) with
        | some b => s.send (.block l k.txw k.txg b.header b.slots b.key b.n)
        | none => s
      | [] =>
        if k.replay.length < 8192 ∧ k.n < 2 ^ 48 ∧ k.cctrTx < 2 ^ 48 ∧ s.hasSlots l then
          let h := s.lodeHeader l 0 k.n fill
          let o := pack l 39 39 s
          let slots := o.1 ++ List.replicate (624 - o.1.length) 0#8
          let key := txDataKey k k.n
          let s := o.2.modLode l fun k => { k with n := k.n + 1, replay := k.replay ++ [⟨k.n, h, slots, key⟩] }
          s.send (.block l k.txw k.txg h slots key k.n)
        else s.lodeControl l [] fill

/-- A training block: TRAIN_INFO once lanes allow a width, and pending messages. -/
def nextTraining (s : State) (l : Nat) : State :=
  let k := s.lode l
  let out (s : State) (ms : List (Nat × Nat)) : State :=
    s.send (.block l k.txw k.txg (s.lodeHeader l 2 k.n none) (List.replicate 8 0#8 ++ msgsBytes ms ++ List.replicate 16 0#8) 0 0)
  match k.state, chooseWidth k.usable (s.fld (Reg.LODE_CTL l) 5 4) with
  | .train, some (w, g) =>
    let info := k.lock % 256 * 2 ^ 120 + w * 2 ^ 118 + g * 2 ^ 116 + b2n (s.bit (Reg.LODE_CTL l) 1) * 2 ^ 115
    let s := out (s.setLode l { k with infoTx := true, rxw := w, rxg := g, msgs := k.msgs.drop 29 }) ((6, info) :: k.msgs.take 29)
    s.trained l
  | _, _ => out (s.setLode l { k with msgs := k.msgs.drop 30 }) (k.msgs.take 30)

end State

/-- BLOCK_BOUNDARY: a marker set that is due, and then the next block. -/
def execBlockBoundary (lode : Fin 16) (fill : Option Byte) (s : State) : Res :=
  s.lodeEvent lode [.train, .auth, .active] fun s =>
    let k := s.lode lode
    let s := if k.setDue then (s.setLode lode { k with setDue := false }).send (.markers lode k.txw k.txg) else s
    if k.state = .active then
      s.nextBlock lode (if s.bit (Reg.LODE_CTL lode) 2 then fill.map fun f => min f.toNat (fillMax k.txw) else none)
    else s.nextTraining lode

/-! ### Messages (R387) -/

/-- DELAY_REQ: the partner's request is answered with its arrival time and the response's departure (R389). -/
def execDelayReq (lode : Fin 16) (t2 t3 : BitVec 56) (s : State) : Res :=
  s.lodeEvent lode [.active] fun s =>
    match (s.lode lode).inbox with
    | (2, b) :: rest => (s.modLode lode fun k => { k with inbox := rest }).lodeSay lode 3 (bitsOf b 127 112 * 2 ^ 112 + t2.toNat * 2 ^ 56 + t3.toNat)
    | _ => s

/-- WIDTH_REQ: the sender goes over to the width and group that the message names. -/
def execWidthReq (lode : Fin 16) (s : State) : Res :=
  s.lodeEvent lode [.train, .auth, .active] fun s =>
    match (s.lode lode).inbox with
    | (4, b) :: rest => (s.modLode lode fun k => { k with inbox := rest }).txWidth lode (bitsOf b 127 126) (bitsOf b 125 124)
    | _ => s

/-- KEY_SWITCH: the receive direction takes its next key from the numbers named (R403). -/
def execKeySwitch (lode : Fin 16) (s : State) : Res :=
  s.lodeEvent lode [.active] fun s =>
    match (s.lode lode).inbox with
    | (5, b) :: rest =>
      let key := s.sedge.nextKey
      let s := { s with sedge := { s.sedge with nextKey := key + 1 } }
      s.modLode lode fun k => { k with inbox := rest, rxNext := some ⟨key, bitsOf b 127 64, bitsOf b 63 0⟩ }
    | _ => s

/-- QUARANTINE_NOTICE: the partner goes dark; the notice itself changes nothing here. -/
def execQuarantineNotice (lode : Fin 16) (s : State) : Res :=
  s.lodeEvent lode [.active] fun s =>
    match (s.lode lode).inbox with
    | (8, _) :: rest => s.modLode lode fun k => { k with inbox := rest }
    | _ => s

/-! ### Retry and width (R391, R394 to R399) -/

/-- NAK_TIMEOUT: NAK has been held for RTT_MAX; it is set once more, and after that it clears. -/
def execNakTimeout (lode : Fin 16) (s : State) : Res :=
  s.lodeEvent lode [.active] fun s => s.modLode lode fun k =>
    if !k.nak then k else if k.nakAgain then { k with nak := false, nakAgain := false } else { k with nakAgain := true }

/-- REPLAY_TIMEOUT: ACK has stood for 4 × RTT_MAX; the eighth in a row retrains. -/
def execReplayTimeout (lode : Fin 16) (s : State) : Res :=
  s.lodeEvent lode [.active] fun s =>
    let k := s.lode lode
    if k.replay.isEmpty then s
    else
      let s := ((s.setLode lode { k with timeouts := k.timeouts + 1 }).lodeResend lode).bump (Reg.LODE_RETRY_CNT lode)
      if 8 ≤ k.timeouts + 1 then s.lodeRetrain lode else s

/-- MARKER_SET: the receiver decodes at the width and group of a valid set; `stray` tells that a bit is set that shall be
zero. -/
def execMarkerSet (lode : Fin 16) (width : Fin 4) (group : Fin 8) (stray : Bool) (s : State) : Res :=
  s.lodeEvent lode [.train, .auth, .active] fun s =>
    if stray ∨ !groupOk width group then s.lodeBad lode
    else
      let k := s.lode lode
      let met := decide (k.want = some (width.val, group.val))
      let s := s.setLode lode { k with rxw := width, rxg := group, want := if met then none else k.want, asks := if met then 0 else k.asks }
      if k.state ≠ .active then s
      else if k.rxw < width.val then (s.bump (Reg.LODE_NARROW_CNT lode)).raise (srcRegion (lode / 4) (4 + lode % 4)) 0x401
      else s.bumpIf (decide (width.val < k.rxw)) (Reg.LODE_WIDEN_CNT lode)

/-- LANE_LOCK_LOSS. -/
def execLaneLockLoss (lode : Fin 16) (lane : Fin 8) (s : State) : Res :=
  s.lodeEvent lode [.train, .auth, .active] fun s =>
    (s.modLode lode fun k => { k with lock := clearBitIn k.lock lane }).laneLost lode lane

/-- LANE_DEGRADED. -/
def execLaneDegraded (lode : Fin 16) (lane : Fin 8) (s : State) : Res :=
  s.lodeEvent lode [.train, .auth, .active] fun s =>
    (s.modLode lode fun k => { k with degraded := setBitIn k.degraded lane }).laneLost lode lane

/-- LASER_MONITOR_LOW: the sender narrows unprompted away from the lane. -/
def execLaserMonitorLow (lode : Fin 16) (lane : Fin 8) (s : State) : Res :=
  s.lodeEvent lode [.active] fun s =>
    let k := s.lode lode
    if lane.val ∈ groupLanes k.txw k.txg then
      match chooseWidth (clearBitIn 255 lane) 0 with
      | some (w, g) => s.txWidth lode w g
      | none => s
    else s

/-- LANE_RETRY: the receive lanes that are not usable are retrained. -/
def execLaneRetry (lode : Fin 16) (s : State) : Res :=
  s.lodeEvent lode [.active] fun s => s.modLode lode fun k => { k with trying := 255 - k.usable }

/-- LANE_PASS: a retrained lane is usable again, and a wider width is asked for where the lanes allow it. -/
def execLanePass (lode : Fin 16) (lane : Fin 8) (s : State) : Res :=
  s.lodeEvent lode [.active] fun s =>
    let k := s.lode lode
    if bitOf k.trying lane && bitOf k.lock lane then
      let k := { k with trying := clearBitIn k.trying lane, degraded := clearBitIn k.degraded lane }
      let s := s.setLode lode k
      match chooseWidth k.usable (s.fld (Reg.LODE_CTL lode) 5 4) with
      | some (w, g) => if w < k.rxw then s.askWidth lode w g else s
      | none => s
    else s

/-- WIDTH_REQ_TIMEOUT: the request is sent again; after 4 the lode retrains. -/
def execWidthReqTimeout (lode : Fin 16) (s : State) : Res :=
  s.lodeEvent lode [.active] fun s =>
    let k := s.lode lode
    match k.want with
    | none => s
    | some (w, g) => if k.asks < 4 then (s.askWidth lode w g).modLode lode fun j => { j with asks := k.asks + 1 } else s.lodeRetrain lode

/-- HEADER_LOSS: no header has been decoded for 1 µs. -/
def execHeaderLoss (lode : Fin 16) (s : State) : Res := s.lodeEvent lode [.active] fun s => s.lodeRetrain lode

/-! ### Authentication (R402, R624) -/

namespace State

/-- Whether this end is the initiator: role bits and identifiers are compared, and a switch port counts as lower. -/
def initiates (s : State) (peer : Bool × Nat) : Bool :=
  match s.sedge.chain1 with
  | some (id, switch) => if switch ≠ peer.1 then switch else decide (id < peer.2)
  | none => false

/-- A whole message of the exchange (R624): CERT first, then KEM_INIT or KEM_RESP by role, then KEM_FIN. -/
def authMsg (s : State) (l : Nat) (m : AuthMsg) : State :=
  let k := s.lode l
  match m, k.authStep with
  | .cert ok switch id, 0 =>
    if ok ∧ s.sedge.fabKey ≠ 0 ∧ s.sedge.chainKey = s.sedge.fabKey ∧ s.sedge.chain1.isSome then
      let peer := (switch, id.toNat)
      let s := (s.setLode l { k with authStep := 1, peer := some peer }).send (.auth l 0)
      if s.initiates peer then s.send (.auth l 1) else s
    else s.authFail l
  | .kemInit, 1 =>
    if k.peer.any s.initiates then s.authFail l else (s.setLode l { k with authStep := 2 }).send (.auth l 2)
  | .kemResp ok, 1 =>
    if ok ∧ k.peer.any s.initiates then (s.setLode l { k with authStep := 2, authDone := true }).send (.auth l 3) else s.authFail l
  | .kemFin ok, 2 => if ok ∧ !k.authDone then s.setLode l { k with authStep := 3, authDone := true } else s.authFail l
  | _, _ => s.authFail l

end State

/-- AUTH: a fragment is assembled; `msg` is what Sedge finds when the message is whole. While Sedge tests itself the
exchange is held (R631). -/
def execAuth (lode : Fin 16) (msg : AuthMsg) (s : State) : Res :=
  s.lodeEvent lode [.auth] fun s =>
    let k := s.lode lode
    match k.inbox with
    | (7, b) :: rest =>
      if s.sedge.state = .selftest then s
      else
        let len := bitsOf b 119 112
        let s := s.setLode lode { k with inbox := rest }
        if bitsOf b 127 120 ≠ k.authFrag ∨ len = 0 ∨ 14 < len ∨ 2 ^ (8 * len) ≤ b % 2 ^ 112 ∨ (k.authFrag = 0 ∧ len < 3) then s.authFail lode
        else
          let bytes := k.authIn ++ leBytes len (b % 2 ^ 112)
          let whole := 3 + ofLe (bytes.take 2)
          if whole < bytes.length ∨ 3003 < whole then s.authFail lode
          else if bytes.length = whole then (s.modLode lode fun k => { k with authIn := [], authFrag := 0 }).authMsg lode msg
          else s.modLode lode fun k => { k with authIn := bytes, authFrag := k.authFrag + 1 }
    | _ => s

/-- KEYS_INSTALLED: Sedge installs the keys, and the lode is ACTIVE with its partner's identity. -/
def execKeysInstalled (lode : Fin 16) (s : State) : Res :=
  s.lodeEvent lode [.auth] fun s =>
    let k := s.lode lode
    if !k.authDone ∨ !s.sedgeServes then s
    else
      let key := s.sedge.nextKey
      let s := { s with sedge := { s.sedge with nextKey := key + 2 } }.bump Reg.SEDGE_KEM_CNT
      let s := s.setLode lode { k with
        state := .active, txKey := key, rxKey := key + 1, partner := k.peer, session := true, authDone := false, authStep := 0, peer := none
        authFails := 0, inbox := [], n := 0, e := 0, cctrTx := 0, cctrRx := none, since := s.rnd, keyN := 0, keyC := 0 }
      s.fabLodeUp lode

/-- AUTH_TIMEOUT: 100 ms have passed, which do not run while Sedge tests itself. -/
def execAuthTimeout (lode : Fin 16) (s : State) : Res :=
  s.lodeEvent lode [.auth] fun s => if s.sedge.state = .selftest then s else s.authFail lode

/-! ### Quarantine (R405) -/

/-- QUARANTINE_WINDOW: the counts start again. -/
def execQuarantineWindow (lode : Fin 16) (s : State) : Res :=
  done (s.modLode lode fun k => { k with ue := 0, tag := 0, bad := 0, retrains := 0 })

/-- QUARANTINE_HOLD_END: an unlatched lode probes again. -/
def execQuarantineHoldEnd (lode : Fin 16) (s : State) : Res :=
  s.lodeEvent lode [.quarantine] fun s => if (s.lode lode).latched then s else s.lodeProbe lode

/-- QUARANTINE_AGE_OUT: a quarantine is more than an hour old. -/
def execQuarantineAgeOut (lode : Fin 16) (s : State) : Res :=
  done (s.modLode lode fun k => { k with qcnt := k.qcnt - 1 })

/-! ### LODE.CTL and LODE_CTL (R377, R405, R408) -/

namespace State

/-- The effect of a value of `LODE.CTL` on the lode. -/
def lodeApply (s : State) (l : Nat) (w : Word) : State :=
  let v := w.toNat
  let s := s.setCfg (Reg.LODE_CTL l) (BitVec.ofNat 32 (v &&& 0x37))
  if !bitOf v 0 then s.lodeDark l
  else if (s.lode l).state = .dark ∧ !s.sump.fatal then s.lodeProbe l
  else s

/-- A value that passed the guard of `LODE.CTL`: refused, or committed with its effect. -/
def lodeCtl (s : State) (l : Nat) (w : Word) : Bool × State :=
  let v := w.toNat
  let old := (s.cfg (Reg.LODE_CTL l)).toNat
  if bitsOf v 5 4 = 3 ∨ (bitOf old 0 ∧ (bitOf v 1 ≠ bitOf old 1 ∨ bitOf v 2 ≠ bitOf old 2)) then
    (false, s.setBit (Reg.LODE_STS l) 31 true)
  else (true, (s.setBit (Reg.LODE_STS l) 31 false).lodeApply l w)

/-- A value that passed the guard of `LODE.RELEASE`. -/
def lodeRelease (s : State) (l : Nat) (w : Word) : State :=
  let k := s.lode l
  if w.getLsbD 0 && k.state == .quarantine && k.latched then (s.lodeGo l .dark).modLode l fun k => { k with latched := false, qcnt := 0 } else s

/-- The commands of LODE_CTL, by ACTION. -/
def lodeCmd (s : State) (src : CmdSrc) (action : Nat) (f : Cmd → Nat → State → State) : State :=
  s.withCmd src 0x000A fun c s =>
    let l := c.par 0 1
    if c.par 1 1 ≠ action then s
    else if 15 < l then s.complete c 0xA
    else f c l s

/-- Write `LODE.CTL` for a command. -/
def lodeWrite (s : State) (c : Cmd) (l : Nat) (v : Nat) : State :=
  let o := s.lodeCtl l (BitVec.ofNat 32 v)
  o.2.complete c (if o.1 then 0 else 6)

end State

/-- LODE_DISABLE: the lode goes dark and its packets return; the command drains (R495). -/
def execLodeDisable (src : CmdSrc) (s : State) : Res :=
  done (s.lodeCmd src 0 fun c l s =>
    let s := (s.lodeCtl l (BitVec.ofNat 32 ((s.cfg (Reg.LODE_CTL l)).toNat / 2 * 2))).2
    (s.running c).modLode l fun k => { k with disable := some c })

/-- LODE_ENABLE. -/
def execLodeEnable (src : CmdSrc) (s : State) : Res :=
  done (s.lodeCmd src 1 fun c l s =>
    if (s.lode l).disable.isSome then s.complete c 7 else s.lodeWrite c l ((s.cfg (Reg.LODE_CTL l)).toNat / 2 * 2 + 1))

/-- LODE_RELEASE. -/
def execLodeRelease (src : CmdSrc) (s : State) : Res :=
  done (s.lodeCmd src 2 fun c l s => (s.lodeRelease l 1#32).complete c 0)

/-- LODE_SET: MINW, MARK_TX and TXSET. -/
def execLodeSet (src : CmdSrc) (s : State) : Res :=
  done (s.lodeCmd src 3 fun c l s => s.lodeWrite c l ((s.cfg (Reg.LODE_CTL l)).toNat % 2 + c.par 2 1 % 256 / 2 * 2))

/-- A LODE_CTL disable has drained: the lode is dark, and a waiting command completes. -/
def State.lodeDrained (s : State) (c : Cmd) : State :=
  let l := c.par 0 1
  (s.modLode l fun k => { k with disable := none }).complete c 0

/-- DRAIN_END: the drain of a started shutdown command goes on, and the command completes when nothing is left (R495). -/
def execDrainEnd (src : CmdSrc) (s : State) : Res :=
  match s.vci.cmds.find? fun c => decide (c.src = src) && c.ran && decide (c.opcode ∈ [0x0002, 0x0003, 0x000A, 0x0102, 0x0201, 0x0302, 0x0501]) with
  | some c => when (s.bitternUp && !s.sump.fatal) (fun s => if c.opcode = 0x000A then s.lodeDrained c else s.drain c) s
  | none => done s

end Sys2Proof.Machine
end

