-- ==== Sys2Proof/Machine/RoundUnit.lean ====
section
/-!
DEFINITION. The Round unit: R35 to R59. Marks, delays, states, boundaries, and the writes of `ROUND.CTL`.
-/
namespace Sys2Proof.Machine

/-! ### Counters and their copies (R603, R639) -/

/-- The entries of a table that belong to one slot of the register file. -/
def inSlot (slot : Nat) (t : Tbl Word) : Tbl Word := tkeep (fun a => decide (a / 0x100000 = slot)) t

namespace State

/-- The counters of a unit that count core cycles of contention or of waiting (R157, R207). -/
def cycleCounters (slot : Nat) : List Nat :=
  let r := (slot - 0x20) / 0x20
  if slot < 0x20 then []
  else if slot % 0x20 = 1 then (List.range 26).flatMap fun k => [Reg.CSTORE_CONFLICT_CNT r k, Reg.CSTORE_PROMOTE_CNT r k]
  else if slot % 0x20 = 2 then (List.range 26).flatMap fun k => [Reg.SEQ_WAIT_CYC r k, Reg.SEQ_HOLD_CYC r k]
  else []

/-- Every live counter of a unit is copied into its holding register. A counter of core cycles has first risen by a free
amount. -/
def snapSlot (s : State) (slot : Nat) : State :=
  let s := (cycleCounters slot).foldl (fun s a => (s.bumpBy a (s.draw (2 ^ 32))).drawn) s
  let rest := tkeep (fun a => !decide (a / 0x100000 = slot)) s.reg.hold
  { s with reg := { s.reg with hold := (inSlot slot s.reg.ctr).foldl (fun h e => tput e.1 e.2 h) rest } }

/-- An armed trace unit whose Round has come copies the counters of its region; that of region 0 also those of the
device-level units (R639). -/
def snapRegion (s : State) (r : Nat) : State :=
  let due := (s.cfg (Reg.TRC_SNAP_RND_LO r)).toNat + (s.cfg (Reg.TRC_SNAP_RND_HI r)).toNat * 2 ^ 32
  if s.bit (Reg.TRC_SNAP_ARM r) 0 && decide (due ≤ s.rnd) then
    let slots := (List.range 32).map (0x20 + 0x20 * r + ·) ++ (if r = 0 then List.range 32 else [])
    (slots.foldl snapSlot s).setBit (Reg.TRC_SNAP_ARM r) 0 false
  else s

/-! ### The unit's own view -/

/-- Fields of `ROUND.CTL` that have taken effect. -/
def rctl (s : State) (hi lo : Nat) : Nat := bitsOf s.round.ctl.toNat hi lo

def srcLode (s : State) : Nat := s.rctl 19 16
def bkpLode (s : State) : Nat := s.rctl 23 20

def setRound (s : State) (r : RoundSt) : State := { s with round := r }

/-- DISC and SRC of a master (R40), 0b11 in every other device. -/
def disc (s : State) : Nat :=
  if s.round.state ≠ .master then 3
  else if s.rctl 5 5 = 0 then 1
  else if s.round.accepted then 0
  else 2

/-- The Round period in 1/16 ns. -/
def roundLen (s : State) : Nat := 4096 * 2 ^ s.round.period

/-- Whether a mean delay is held for a lode, and whether the lode may be a source (R44). -/
def delayHeld (s : State) (l : Nat) : Bool := s.bit (Reg.ROUND_DELAY l) 31

def delayGood (s : State) (l : Nat) : Bool := s.delayHeld l && decide (s.fld (Reg.ROUND_DELAY l) 23 0 ≤ 200000)

/-- UNALIGNED is left for ACQUIRE while neither lode holds a mean delay (R48). -/
def unalignedEnd (s : State) : State :=
  if s.round.state = .unaligned ∧ !s.delayHeld s.srcLode ∧ !s.delayHeld s.bkpLode then
    s.setRound { s.round with state := .acquire, lock := 0 }
  else s

/-- The last offset, saturated (R58). -/
def setOffset (s : State) (o : Int) : State :=
  let o := max (-32767) (min 32767 o)
  s.setCfg Reg.ROUND_OFFSET (BitVec.ofNat 32 (o % 65536).toNat)

/-- This device is the master from now on. -/
def nowMaster (s : State) : State :=
  let s := s.setRound { s.round with state := .master, run := true, depth := 0, lock := 0, noGood := 0 }
  s.setCfg Reg.ROUND_MASTER (BitVec.ofNat 32 s.devId)

/-! ### Lost marks (R50) -/

/-- A Round without a good mark on the lode in use: after 4 the unit moves to the backup lode, or has no lode to steer
by. -/
def noGoodMark (s : State) : State :=
  let r := { s.round with noGood := s.round.noGood + 1, missed := true }
  if r.noGood < 4 then s.setRound r
  else if r.act = s.srcLode ∧ s.rctl 4 4 = 1 ∧ s.bkpLode ≠ s.srcLode ∧ s.delayGood s.bkpLode then
    s.setRound { r with act := s.bkpLode, noGood := 0, srcGood := 0 }
  else if r.state = .locked then
    ((s.setRound { r with state := .holdover, held := 0, away := 0, lock := 0 }).bump Reg.ROUND_HOLD_CNT).raise (srcDevice 9) 0x500
  else s.setRound r

/-! ### A Round boundary (R56) -/

/-- A mark for this boundary (R41). -/
def markNow (s : State) : Nat :=
  let src := if s.round.state = .master then s.disc else s.round.src
  s.rnd * 2 ^ 64 + s.fld Reg.ROUND_EPOCH 15 0 * 2 ^ 48 + s.fld Reg.ROUND_MASTER 17 0 * 2 ^ 30
    + s.round.depth % 32 * 2 ^ 25 + s.round.period % 8 * 2 ^ 22 + src * 2 ^ 20

/-- Marks for every ACTIVE lode that sends them (R388). -/
def sendMarks (s : State) : State :=
  (List.range 16).foldl (fun s l =>
    if (s.lode l).state = .active ∧ s.bit (Reg.LODE_CTL l) 2 then s.modLode l fun k => { k with mark := some s.markNow } else s) s

/-- The settings that take effect at a boundary: a lode that changes its part stays in use under the new name, and the
source lode comes back once it has given 16 good marks (R59, R50). -/
def newSettings (s : State) : State :=
  let r := s.round
  let onSrc := decide (r.act = s.srcLode)
  let back := decide (16 ≤ r.srcGood)
  let s := s.setRound { r with ctl := s.cfg Reg.ROUND_CTL, accepted := r.finding }
  let r := s.round
  if onSrc || back then s.setRound { r with act := s.srcLode, srcGood := 0 }
  else s.setRound { r with act := s.bkpLode }

/-- A region whose stacks have cooled takes the lower throttle level (R254). -/
def throttleFall (s : State) (r : Nat) : State :=
  let old := tget (fun _ => 0) s.thr r
  let now := max (s.ctl (2 * r)).level (s.ctl (2 * r + 1)).level
  if now < old then
    let s := { s with thr := tset (fun _ => 0) s.thr r now }
    if old = 3 then s.thermalOver r else s
  else s

/-- One boundary, in the order of R56. In the fatal state only the counter and Heron go on (R566). -/
def boundary (s : State) : State :=
  let follower := decide (s.round.state ≠ .master)
  let s := if follower && !s.round.gotGood && !s.round.missed && decide (s.round.state ≠ .acquire ∨ s.round.run) then s.noGoodMark else s
  let s := s.newSettings
  let r := s.round
  let out := decide (r.state = .holdover ∨ r.state = .unaligned)
  let s := s.setRound { r with
    cnt := r.cnt + 1, phase := 0, missed := false, gotGood := false, srcGot := false
    srcGood := if r.srcGot then r.srcGood else 0
    held := if r.state = .holdover then r.held + 1 else 0
    away := if out then r.away + 1 else 0, sinceExch := r.sinceExch + 1 }
  let s := (List.range 4).foldl snapRegion s
  let s := s.opBoundary.fwBoundary
  if s.sump.fatal then s
  else
    let s := (List.range 4).foldl throttleFall s
    let s := s.startHands
    let s := (List.range 96).foldl (fun s l =>
      match s.coreOf l with
      | some c => s.roundAt c
      | none => s) s
    s.sendMarks

/-- `n` boundaries at one instant. -/
def boundaries : Nat → State → State
  | 0, s => s
  | n + 1, s => boundaries n s.boundary

end State

/-- ROUND_BOUNDARY. -/
def execRoundBoundary (s : State) : Res := when s.counting (fun s => s.boundary) s

/-! ### Marks that arrive (R41 to R43, R47, R50, R53) -/

/-- The fields of a mark. -/
structure Mark where
  rnd : Nat
  epoch : Nat
  master : Nat
  depth : Nat
  period : Nat
  src : Nat
  zero : Nat
  deriving DecidableEq, Repr

def markFields (w : Nat) : Mark :=
  ⟨bitsOf w 127 64, bitsOf w 63 48, bitsOf w 47 30, bitsOf w 29 25, bitsOf w 24 22, bitsOf w 21 20, bitsOf w 19 0⟩

def Mark.wellFormed (m : Mark) : Bool :=
  decide (m.src ≠ 3) && decide (m.period ≠ 7) && decide (m.zero = 0) && decide (m.depth ≤ 15)

/-- Epoch e is newer than epoch f (R43). -/
def newerEpoch (e f : Nat) : Bool :=
  let d := (e + 65536 - f % 65536) % 65536
  decide (1 ≤ d) && decide (d ≤ 32767)

namespace State

/-- The domain of a mark is taken over: its epoch, master, depth and period. -/
def adopt (s : State) (m : Mark) : State :=
  let s := s.setFld Reg.ROUND_EPOCH 15 0 m.epoch
  let s := s.setCfg Reg.ROUND_MASTER (BitVec.ofNat 32 m.master)
  let s := s.setRound { s.round with depth := m.depth + 1, src := m.src }
  if m.period = s.round.period then s
  else
    let s := s.setRound { s.round with period := m.period, state := .acquire, lock := 0 }
    s.suspendAll .round ((List.range 64).filter fun x => decide (((s.context x).hand.map (·.period)).getD m.period ≠ m.period))

/-- The local time of an instant of this Round, in 1/16 ns: never before what the Round has already reached. -/
def localTime (s : State) (arrive : Nat) : Nat :=
  s.rnd * s.roundLen + max (s.round.phase * s.roundLen / 1024) (min (2 * arrive) (s.roundLen - 1))

/-- The instant of a mark's boundary as the local clock should have it at its arrival (R44). -/
def partnerTime (s : State) (l : Nat) (m : Mark) : Int :=
  (m.rnd * s.roundLen + s.fld (Reg.ROUND_DELAY l) 23 0 : Nat) + signed 8 (s.fld (Reg.ROUND_ASYM l) 7 0)

/-- Set the clock within the Round at a local time. -/
def setPhase (s : State) (t : Nat) : State := s.setRound { s.round with phase := t % s.roundLen * 1024 / s.roundLen }

/-- The counter is loaded from the first accepted mark (R48): no boundary before it was delivered. -/
def firstMark (s : State) (l : Nat) (m : Mark) : State :=
  let t := (s.partnerTime l m).toNat
  let n := t / s.roundLen
  let s := s.setRound { s.round with run := true, cnt := BitVec.ofNat 64 (n - 1), noGood := 0, lock := 0, missed := true }
  ((if n = 0 then s else s.boundary).setPhase t).bump Reg.ROUND_STEP_CNT

/-- A mark on the lode in use corrects the counter (R47, R50). -/
def steer (s : State) (l : Nat) (m : Mark) (arrive : Nat) : State :=
  let now := s.localTime arrive
  let due := s.partnerTime l m
  let off : Int := now - due
  let s := (s.setOffset (-off)).setPhase now
  if off < -256 then
    let s := (s.setRound { s.round with lock := 0 }).bump Reg.ROUND_LATE_CNT
    let t := due.toNat
    ((boundaries (t / s.roundLen - s.rnd) s).setPhase t).bump Reg.ROUND_STEP_CNT
  else if 256 < off then
    let s := (s.setRound { s.round with lock := 0 }).bump Reg.ROUND_LATE_CNT
    if 4 * s.roundLen < off then s.raise (srcDevice 9) 0x504 else s
  else
    let r := s.round
    let lock := if -32 ≤ off ∧ off ≤ 32 then r.lock + 1 else 0
    let r := { r with gotGood := true, noGood := 0, lock := lock }
    if 16 ≤ lock ∧ (r.state = .acquire ∨ r.state = .holdover ∨ r.state = .unaligned) then
      s.setRound { r with state := .locked, held := 0, away := 0 }
    else s.setRound r

/-- A mark on the source lode while the backup is in use (R50). -/
def watchSource (s : State) (l : Nat) (m : Mark) (arrive : Nat) : State :=
  let off : Int := s.localTime arrive - s.partnerTime l m
  if s.delayGood l ∧ -256 ≤ off ∧ off ≤ 256 then s.setRound { s.round with srcGood := s.round.srcGood + 1, srcGot := true }
  else s.setRound { s.round with srcGood := 0 }

/-- A mark of the receiver's own domain, at a follower. -/
def useMark (s : State) (l : Nat) (m : Mark) (arrive : Nat) : State :=
  if l = s.round.act then
    let s := s.setRound { s.round with depth := m.depth + 1, src := m.src }
    if !s.round.run then s.firstMark l m
    else if s.delayGood l then s.steer l m arrive
    else s
  else if l = s.srcLode ∧ s.round.run then s.watchSource l m arrive
  else s

/-- A mark that has arrived whole. -/
def takeMark (s : State) (l : Nat) (m : Mark) (arrive : Nat) : State :=
  let epoch := s.fld Reg.ROUND_EPOCH 15 0
  let master := s.fld Reg.ROUND_MASTER 17 0
  if !m.wellFormed then s.bump Reg.ROUND_BAD_CNT
  else if m.epoch ≠ epoch ∧ !newerEpoch m.epoch epoch then (s.bump Reg.ROUND_STALE_CNT).raise (srcDevice 9) 0x502
  else if s.round.state = .master then
    if m.epoch ≠ epoch ∨ m.master < master then
      let s := s.setRound { s.round with state := .acquire, lock := 0, noGood := 0, act := s.srcLode }
      (s.adopt m).raise (srcDevice 9) 0x505
    else s
  else if !s.round.run ∧ l ≠ s.round.act then s
  else if m.epoch ≠ epoch ∨ m.master < master ∨ !s.round.run then (s.adopt m).useMark l m arrive
  else if m.master = master then s.useMark l m arrive
  else s

end State

/-- ROUND_MARK: the mark in the control block that has come, `arrive` in 1/8 ns of the local Round; or a mark lost in an
uncorrectable block. -/
def execRoundMark (lode : Fin 16) (arrive : BitVec 17) (bad : Bool) (s : State) : Res :=
  s.lodeEvent lode [.active] fun s =>
    if bad then if s.round.state = .off then s else s.bump Reg.ROUND_BAD_CNT
    else
      match (s.lode lode).inbox with
      | (1, b) :: rest =>
        let s := s.modLode lode fun k => { k with inbox := rest }
        if s.round.state = .off then s else s.takeMark lode (markFields b) arrive.toNat
      | _ => s

/-- MISSING_MARK: 16 ns after a boundary the lode in use has brought no mark. -/
def execMissingMark (s : State) : Res :=
  when (s.counting && s.round.state != .master && !s.round.gotGood && !s.round.missed && !s.sump.fatal)
    (fun s => (s.bump Reg.ROUND_MISS_CNT).noGoodMark) s

/-! ### Time without marks (R48, R51) -/

/-- HOLDOVER_LIMIT. -/
def execHoldoverLimit (s : State) : Res :=
  let limit := s.fld Reg.ROUND_HOLD 23 0
  when (s.round.state == .holdover && decide (limit ≠ 0) && decide (limit ≤ s.round.held)) (fun s =>
    ((s.setRound { s.round with state := .unaligned }).raise (srcDevice 9) 0x501).unalignedEnd) s

/-- STANDBY_TAKEOVER: the epoch rises by 1 and the counter goes on. -/
def execStandbyTakeover (s : State) : Res :=
  let wait := s.fld Reg.ROUND_STANDBY 15 0
  when (decide (s.round.state = .holdover ∨ s.round.state = .unaligned) && decide (s.rctl 3 2 = 2) && decide (wait ≠ 0)
      && decide ((s.fld Reg.ROUND_STANDBY 17 16 + 1) * wait ≤ s.round.away)) (fun s =>
    (s.setFld Reg.ROUND_EPOCH 15 0 (s.fld Reg.ROUND_EPOCH 15 0 + 1)).nowMaster) s

/-! ### Delay exchanges (R44, R389) -/

namespace State

def delay (s : State) (l : Nat) : DelaySt := tget (fun _ => {}) s.round.delays l

def setDelay (s : State) (l : Nat) (d : DelaySt) : State :=
  s.setRound { s.round with delays := tset (fun _ => {}) s.round.delays l d }

/-- The mean of 8 delays, shown in 1/16 ns; which neighbour stands for a mean between two is free. -/
def showMean (s : State) (l : Nat) (kept : List Nat) : State :=
  if kept.length < 8 then s.setCfg (Reg.ROUND_DELAY l) 0#32
  else
    let sum := kept.foldl (· + ·) 0
    let up := if sum % 8 = 0 then 0 else s.draw 2
    let was := decide (200000 < s.fld (Reg.ROUND_DELAY l) 23 0)
    let mean := min 0xFFFFFF (sum / 8 + up)
    let s := s.drawn.setCfg (Reg.ROUND_DELAY l) (BitVec.ofNat 32 (2 ^ 31 + mean))
    if 200000 < mean ∧ !was then s.raise (srcDevice 9) 0x503 else s

/-- A measured delay is accepted or rejected. -/
def measured (s : State) (l d : Nat) : State :=
  let k := s.delay l
  let sum := k.kept.foldl (· + ·) 0
  if 8 ≤ k.kept.length ∧ (8 * d + 512 < sum ∨ sum + 512 < 8 * d) then
    if 7 ≤ k.rejects then ((s.setDelay l { k with kept := [], rejects := 0 }).showMean l []).unalignedEnd
    else s.setDelay l { k with rejects := k.rejects + 1 }
  else
    let kept := (k.kept ++ [d]).drop (k.kept.length - 7)
    (s.setDelay l { k with kept := kept, rejects := 0 }).showMean l kept

end State

/-- DELAY_EXCHANGE: a request on every trained lode that has an upstream partner; `t1` is the time at which each leaves. -/
def execDelayExchange (t1 : List (Fin 16 × BitVec 56)) (s : State) : Res :=
  when (s.round.state != .off && !s.sump.fatal && (decide (16 ≤ s.round.sinceExch) || !s.round.run)) (fun s =>
    let s := s.setRound { s.round with sinceExch := 0 }
    t1.foldl (fun s e =>
      if (s.lode e.1).state ≠ .active then s
      else
        let k := s.delay e.1
        let id := (k.id + 1) % 65536
        (s.setDelay e.1 { k with id := id, sent := some e.2.toNat }).lodeSay e.1 2 (id * 2 ^ 112)) s) s

/-- DELAY_RSP: the response that has come at `t4`, in 1/8 ns. -/
def execDelayRsp (lode : Fin 16) (t4 : BitVec 56) (s : State) : Res :=
  s.lodeEvent lode [.active] fun s =>
    match (s.lode lode).inbox with
    | (3, b) :: rest =>
      let s := s.modLode lode fun k => { k with inbox := rest }
      let k := s.delay lode
      match k.sent with
      | some t1 =>
        if bitsOf b 127 112 ≠ k.id then s
        else
          let t2 := bitsOf b 111 56
          let t3 := bitsOf b 55 0
          let span (a c : Nat) : Int := signed 56 ((a + 2 ^ 56 - c) % 2 ^ 56)
          let d := span t4.toNat t1 - span t3 t2
          let o := span t2 t1 - span t4.toNat t3 + signed 8 (s.fld (Reg.ROUND_ASYM lode) 7 0)
          let s := s.setDelay lode { k with sent := none }
          let s := if lode.val = s.round.act then s.setOffset o else s
          s.measured lode d.toNat
      | none => s
    | _ => s

/-- DELAY_RSP_TIMEOUT: the request gives no measurement. -/
def execDelayRspTimeout (lode : Fin 16) (s : State) : Res :=
  when ((s.delay lode).sent.isSome) (fun s => s.setDelay lode { (s.delay lode) with sent := none }) s

/-! ### References (R40) -/

/-- REFERENCE_WINDOW: the finding takes effect at the next boundary. -/
def execReferenceWindow (accepted : Bool) (s : State) : Res := done (s.setRound { s.round with finding := accepted })

/-- PPS_EDGE: the stamp of an edge, while the counter runs. -/
def execPpsEdge (s : State) : Res :=
  when s.counting (fun s =>
    let s := s.tick
    let s := (s.setCfg Reg.ROUND_PPS_RND_LO (BitVec.ofNat 32 s.rnd)).setCfg Reg.ROUND_PPS_RND_HI (BitVec.ofNat 32 (s.rnd / 2 ^ 32))
    s.setCfg Reg.ROUND_PPS_OFS (BitVec.ofNat 32 (2 ^ 31 + s.round.phase % 1024))) s

/-! ### `ROUND.CTL` (R48, R59) -/

namespace State

/-- Whether the unit refuses a value for `ROUND.CTL`. -/
def roundRefuses (s : State) (w : Word) : Bool :=
  let old := s.cfg Reg.ROUND_CTL
  let v := w.toNat
  let on := bitOf old.toNat 0
  decide (bitsOf v 3 2 = 3) || decide (bitsOf v 10 8 = 7)
    || (on && (decide (bitsOf v 3 2 ≠ bitsOf old.toNat 3 2) || decide (bitsOf v 10 8 ≠ bitsOf old.toNat 10 8)))
    || (on && !bitOf v 0 && s.ctx.any fun e => e.2.hand.isSome)

/-- The effect of a value of `ROUND.CTL` on the unit. Where no boundary comes, it takes effect at once. -/
def roundSet (s : State) (w : Word) : State :=
  let v := w.toNat
  let on := bitOf (s.cfg Reg.ROUND_CTL).toNat 0
  let s := s.setCfg Reg.ROUND_CTL (BitVec.ofNat 32 (v &&& 0xFF073D))
  let s := if s.counting ∧ bitOf v 0 then s
    else s.setRound { s.round with ctl := s.cfg Reg.ROUND_CTL, act := bitsOf v 19 16 }
  if on && !bitOf v 0 then
    (s.setRound { s.round with state := .off, phase := 0, lock := 0, noGood := 0, gotGood := false, missed := false }).opNow
  else if !on && bitOf v 0 then
    if bitsOf v 3 2 = 1 then
      (s.setRound { s.round with phase := 0, period := bitsOf v 10 8, accepted := s.round.finding }).nowMaster
    else
      s.setRound { s.round with
        state := .acquire, cnt := 0, run := false, phase := 0, lock := 0, noGood := 0, srcGood := 0, held := 0, away := 0 }
  else s

/-- A guarded write of `ROUND.CTL` that has passed its guard. -/
def roundWrite (s : State) (w : Word) : State :=
  if s.roundRefuses w then s.setBit Reg.ROUND_STS 16 true else (s.roundSet w).setBit Reg.ROUND_STS 16 false

end State

end Sys2Proof.Machine
end

