-- ==== Sys2Proof/Machine/Faults.lean ====
section
/-!
DEFINITION. Faults: R553 to R578. Collectors, Sump's decision, acknowledgement, the fatal safe state, and core sparing.
-/
namespace Sys2Proof.Machine

def srcLevel (src : Nat) : Nat := src / 2 ^ 14
def srcRegionOf (src : Nat) : Nat := src / 2048 % 8

/-- The physical core of an engine or core source. -/
def srcCoreOf (src : Nat) : Nat := 26 * srcRegionOf src + src / 64 % 32

/-- Message `n` of a list, unless an earlier message of its source is still in it. -/
def nextOf (n : Nat) (ms : List FaultMsg) : Option FaultMsg :=
  match ms[n]? with
  | some m => if (ms.take n).any (fun e => decide (e.src = m.src)) then none else some m
  | none => none

namespace State

def setSump (s : State) (u : SumpSt) : State := { s with sump := u }

/-- Class 01 and class 10 pending bits (R560). -/
def pendSet (s : State) (cls src : Nat) : State :=
  if cls = 1 then s.setSump { s.sump with pend1 := if src ∈ s.sump.pend1 then s.sump.pend1 else s.sump.pend1 ++ [src] }
  else s.setSump { s.sump with pend10 := if src ∈ s.sump.pend10 then s.sump.pend10 else s.sump.pend10 ++ [src] }

/-! ### The region collectors (R563) -/

def rfcOf (s : State) (r : Nat) : Collector := tget (fun _ => {}) s.sump.rfc r

def setCollector (s : State) (r : Nat) (c : Collector) : State :=
  s.setSump { s.sump with rfc := tset (fun _ => {}) s.sump.rfc r c }

/-- A source holds a message; further events of its kind merge into it, and another kind waits behind it. -/
def holdMsg (s : State) (r : Nat) (m : FaultMsg) : State :=
  let c := s.rfcOf r
  match (c.held.filter fun e => decide (e.src = m.src)).getLast? with
  | some e =>
    if e.kind = m.kind then
      (s.setCollector r { c with held := c.held.map fun f => if f = e then { f with mult := true } else f }).bump (Reg.RFC_MERGE_CNT r)
    else s.setCollector r { c with held := c.held ++ [m] }
  | none => s.setCollector r { c with held := c.held ++ [m] }

/-- A message reaches its collector. -/
def collect (s : State) (m : FaultMsg) : State :=
  let r := srcRegionOf m.src
  let c := s.rfcOf r
  if srcLevel m.src < 2 ∧ s.bit (Reg.RFC_CORE r (m.src / 64 % 32)) 30 then s.bump (Reg.RFC_DROP_CNT r)
  else if c.q.length < 64 then s.setCollector r { c with q := c.q ++ [m] }
  else if m.raised = 1 then (s.bump (Reg.RFC_DROP_CNT r)).pendSet 1 m.src
  else s.holdMsg r m

end State

/-- REGION_COLLECTOR_MESSAGE: a message on its way from an engine, core or region source reaches its collector. -/
def execRegionCollectorMessage (n : Nat) (s : State) : Res :=
  match nextOf n s.sump.flight with
  | some m =>
    if srcLevel m.src = 3 then done s
    else done ((s.setSump { s.sump with flight := s.sump.flight.eraseIdx n }).collect m)
  | none => done s

/-! ### The fatal safe state (R565) -/

namespace State

/-- A lode's laser drive goes to zero. -/
def lodesDark (s : State) : State :=
  (List.range 16).foldl (fun s l =>
    if (s.lode l).state = .probe ∨ (s.lode l).state = .train ∨ (s.lode l).state = .auth ∨ (s.lode l).state = .active then s.lodeDark l
    else s) s

/-- HBM controllers enter self-refresh. -/
def hbmSafe (s : State) : State :=
  (List.range 8).foldl (fun s k =>
    let h := s.ctl k
    if h.state = .train ∨ h.state = .run ∨ h.state = .repair then s.setHctl k { h with state := .selfRefresh } else s) s

/-- The fatal report drives every unit to the safe state, and FAULT_N low. -/
def fatalReport (s : State) : State :=
  if s.sump.fatal then s
  else ((({ s with sump := { s.sump with fatal := true }, pins := { s.pins with faultN := false } }).lodesDark).hbmSafe).linkFatal

/-! ### Sump's decision (R560, R564) -/

/-- The words of a message go into a group of four registers. -/
def putMsg (s : State) (reg : Nat → Nat) (m : FaultMsg) : State :=
  (List.range 4).foldl (fun s w => s.setCfg (reg w) (BitVec.ofNat 32 (m.bits / 2 ^ (32 * w)))) s

/-- The FAULT record of a message: for class 01 at most one per source in a second. -/
def faultRecord (s : State) (m : FaultMsg) : State :=
  let last := tget (fun _ => 0) s.sump.logged m.src
  if m.cls = 1 ∧ last ≠ 0 ∧ s.heron.ms + 1 < last + 1000 then s
  else
    let s := if m.cls = 1 then s.setSump { s.sump with logged := tset (fun _ => 0) s.sump.logged m.src (s.heron.ms + 1) } else s
    s.logDue 1 m.cls m.bits

/-- Bittern serves its fault queue: corrected faults need nothing more, one escalated to class 10 is reported to the host,
and a contained one waits for its acknowledgement. `n` bounds the messages. -/
def fqServe : Nat → State → State
  | 0, s => s
  | n + 1, s =>
    match s.sump.fq with
    | m :: rest =>
      if !s.bitternUp || s.sump.fatal then s
      else if m.raised = 2 ∧ m.src ∈ s.sump.pend10 then s
      else
        let s := s.setSump { s.sump with fq := rest }
        fqServe n (if m.cls = 2 then s.event 15 8 0 (m.bits % 2 ^ 64) (m.bits / 2 ^ 64) else s)
    | [] => s

/-- Sump decides the class of a message and reports it. -/
def sumpTake (s : State) (m : FaultMsg) : State :=
  let esc := decide ((m.raised = 1 ∧ m.src ∈ s.sump.pend1) ∨ (m.raised = 2 ∧ m.src ∈ s.sump.pend10))
  let m := { m with cls := if esc then m.raised + 1 else m.raised }
  let s := s.putMsg Reg.SUMP_LAST m
  let first (s : State) : State :=
    if m.cls = 3 ∧ !s.sump.fatalSeen then (s.putMsg Reg.SUMP_FATAL m).setSump { (s.putMsg Reg.SUMP_FATAL m).sump with fatalSeen := true } else s
  if s.sump.fatal then (first s).faultRecord m
  else
    let s := s.bumpIf (decide (m.raised = 1)) Reg.SUMP_CE_CNT
    let s := s.bumpIf (decide (m.raised = 2)) Reg.SUMP_CU_CNT
    let s := s.bumpIf esc Reg.SUMP_ESC_CNT
    let s := if esc || decide (m.raised = 3) then s else s.pendSet m.raised m.src
    if m.cls = 3 then (first s.fatalReport).faultRecord m
    else
      let s := s.faultRecord m
      if s.sump.fq.length < 1024 then fqServe 1024 (s.setSump { s.sump with fq := s.sump.fq ++ [m] })
      else s.bump Reg.SUMP_FQ_DROP_CNT

/-- Whether Sump can take a message now: a contained one waits at its source while the fault queue is full (R563). -/
def sumpRoom (s : State) (m : FaultMsg) : Bool :=
  decide (m.raised ≠ 2) || decide (s.sump.fq.length < 1024) || s.sump.fatal || decide (m.src ∈ s.sump.pend10)

/-- Events of a kind that a device source meets while it holds a message of that kind are merged into it. -/
def mergeFlight (s : State) (n : Nat) (m : FaultMsg) : State :=
  let rest := s.sump.flight.drop (n + 1)
  let same (e : FaultMsg) : Bool := decide (e.src = m.src ∧ e.kind = m.kind)
  let m := { m with mult := m.mult || rest.any same }
  s.setSump { s.sump with flight := s.sump.flight.take n ++ m :: rest.filter (fun e => !same e) }

/-- A message leaves its collector, which then takes what its sources hold. -/
def collectorOut (s : State) (r : Nat) (c : Collector) (rest : List FaultMsg) : State :=
  let c := match c.held with
    | h :: hs => { c with q := rest ++ [h], held := hs }
    | [] => { c with q := rest }
  (s.setCollector r c).bump (Reg.RFC_MSG_CNT r)

end State

/-- FAULT_MESSAGE: the oldest message of a collector, or a device source's own, reaches Sump. -/
def execFaultMessage (region : Option (Fin 4)) (n : Nat) (s : State) : Res :=
  match region with
  | some r =>
    match (s.rfcOf r).q with
    | m :: rest => if s.sumpRoom m then done ((s.collectorOut r (s.rfcOf r) rest).sumpTake m) else done s
    | [] => done s
  | none =>
    match nextOf n s.sump.flight with
    | some m =>
      if srcLevel m.src ≠ 3 then done s
      else if s.sumpRoom m then done ((s.setSump { s.sump with flight := s.sump.flight.eraseIdx n }).sumpTake m)
      else done (s.mergeFlight n m)
    | none => done s

/-- FATAL_LINE: a fatal line reaches Sump ahead of its message. -/
def execFatalLine (s : State) : Res :=
  match s.sump.lines with
  | _ :: rest => done ((s.setSump { s.sump with lines := rest }).fatalReport)
  | [] => done s

/-! ### Acknowledgement (R561, R562) -/

/-- CE_HOLD_EXPIRY. -/
def execCeHoldExpiry (src : Half) (s : State) : Res :=
  when (!s.sump.fatal) (fun s => s.setSump { s.sump with pend1 := s.sump.pend1.filter (· ≠ src.toNat) }) s

/-- A write of SUMP.ACK: CLASS 0b10 clears the class 10 pending bit of a source. -/
def State.sumpAck (s : State) (w : Word) : State :=
  if bitsOf w.toNat 1 0 = 2 then s.setSump { s.sump with pend10 := s.sump.pend10.filter (· ≠ bitsOf w.toNat 31 16) } else s

/-- SUMP_ACK: Bittern has posted DEVICE_FAULT for the contained fault at the head of its queue and acknowledges it. -/
def execSumpAck (src : Half) (s : State) : Res :=
  when (s.bitternUp && !s.sump.fatal && decide (src.toNat ∈ s.sump.pend10)) (fun s =>
    match s.sump.fq with
    | m :: rest =>
      if m.src = src.toNat ∧ m.raised = 2 then
        let s := (s.setSump { s.sump with fq := rest }).event 15 8 0 (m.bits % 2 ^ 64) (m.bits / 2 ^ 64)
        State.fqServe 1024 (s.sumpAck (BitVec.ofNat 32 (src.toNat * 65536 + 2)))
      else s
    | [] => s) s

/-- SUMP_ACK_TIMEOUT. -/
def execSumpAckTimeout (src : Half) (s : State) : Res :=
  when (!s.sump.fatal && decide (src.toNat ∈ s.sump.pend10)) (fun s => s.raise (srcDevice 8) 0x704) s

/-! ### Fault-drill mode (R569) -/

/-- The effect of a value of `SUMP.DRILL.ENABLE`: fault-drill mode, its DRILL record, and an exit condition of approved
mode. -/
def State.drillSet (s : State) (on : Bool) : State :=
  let s := ((s.setSump { s.sump with drill := on }).setBit Reg.SUMP_DRILL 0 on).logDue 0xB 0 (b2n on)
  if on then ({ s with sedge := { s.sedge with exitDrill := true } }).leaveApproved else s

/-- DRILL_ENABLE: Heron makes the guarded write for the request it has accepted. -/
def execDrillEnable (s : State) : Res :=
  match s.sump.ask with
  | none => done s
  | some on => when (s.heronRuns && !s.sump.fatal) (fun s => (s.setSump { s.sump with ask := none }).drillSet on) s

/-! ### Core sparing (R570 to R572) -/

/-- CORE_ISOLATION: a fence trigger reaches the collector, and hardware isolates the core; a core that is fenced already
takes none. -/
def execCoreIsolation (core : Fin 104) (s : State) : Res :=
  when (!s.sump.fatal && decide (core.val ∈ s.sump.triggers)) (fun s =>
    (s.setSump { s.sump with triggers := s.sump.triggers.filter (· ≠ core.val) }).isolate core) s

namespace State

/-- Physical cores of a region that are neither bound, fenced nor isolated: its widow cores. -/
def widows (s : State) (r : Nat) : List Nat :=
  ((List.range 26).map (26 * r + ·)).filter fun c =>
    (s.core c).lcore.isNone && !(s.core c).isolated && !s.bit (Reg.RFC_CORE r (c % 26)) 30

/-- Active cores of a region. -/
def activeCores (s : State) (r : Nat) : Nat := ((List.range 24).filter fun i => (s.coreOf (24 * r + i)).isSome).length

/-- Bind a logical core to a core that is off; it passes through INIT. -/
def bindCore (s : State) (l c : Nat) : State := (s.modCore c fun k => { k with lcore := some l }).coreOn c

/-- A physical core gives up its logical core: the context whose hand it ran loses that core's state, and is suspended. -/
def loseCore (s : State) (c : Nat) : State :=
  let k := s.core c
  let s := (s.unwait (.seq c)).coreOff c
  let s := s.modCore c fun k => { k with lcore := none }
  match k.ctx, k.lcore with
  | some x, some l =>
    let s := s.modCtx x fun y => { y with lost := if l ∈ y.lost then y.lost else y.lost ++ [l] }
    s.suspend x .core 0 l
  | _, _ => s

/-- CAP_CHANGED to the admin class and to each partition that owns cores of the region. -/
def capChanged (s : State) (r : Nat) : State :=
  let owns (p : Nat) : Bool := decide ((s.part p).state ≠ .free) && (List.range 24).any fun i => s.ownsCore p (24 * r + i)
  (15 :: (List.range 8).filter owns).foldl (fun s cls => s.event cls 6 0 r (s.activeCores r)) s

/-- The highest logical core above `l` whose physical core is healthy. -/
def highest (s : State) (r l : Nat) : Option (Nat × Nat) :=
  ((List.range 24).filterMap fun i =>
    let h := 24 * r + i
    match s.coreOf h with
    | some c => if l < h ∧ !(s.core c).isolated then some (h, c) else none
    | none => none).getLast?

/-- A logical core whose physical core is fenced gets a widow core; without one the region runs short (R572). -/
def rebind (s : State) (r l : Nat) : State :=
  match (s.widows r).head? with
  | some w => s.bindCore l w
  | none =>
    match s.highest r l with
    | some (_, c) => ((s.loseCore c).bindCore l c).capChanged r
    | none => s.capChanged r

end State

/-- CORE_FENCE: Bittern fences the isolated core whose trigger came first in its region, once no other fence of the region
runs (R571, R575). -/
def execCoreFence (core : Fin 104) (s : State) : Res :=
  let r := core.val / 26
  when (s.bitternUp && !s.sump.fatal && decide ((s.sump.isolate.filter fun c => decide (c / 26 = r)).head? = some core.val)
      && (tfind s.coh.walk r).isNone) (fun s =>
    let k := s.core core
    let s := s.setSump { s.sump with isolate := s.sump.isolate.filter (· ≠ core.val) }
    let s := s.reclaim core k.ctx
    let s := (s.setBit (Reg.CSTORE_STS r (core % 26)) 4 true).setBit (Reg.RFC_CORE r (core % 26)) 30 true
    let s := (s.bump (Reg.RFC_FENCE_CNT r)).loseCore core
    match k.lcore with
    | some l => s.rebind r l
    | none => s) s

end Sys2Proof.Machine
end

