-- ==== Sys2Proof/Machine/Security.lean ====
section
/-!
DEFINITION. Security functions: R611 to R632. Sedge's states, sessions, keys, IDE and TDISP. A signature's or a chain's
verdict is an operand; a key is a name.
-/
namespace Sys2Proof.Machine

namespace State

def setSedge (s : State) (k : SedgeSt) : State := { s with sedge := k }

/-! ### What Sedge shows (R632) -/

/-- Established sessions of a transport. -/
def sessCount (s : State) (doe : Bool) : Nat :=
  (s.sedge.sess.filter fun k => decide (k.doe = doe ∧ k.phase = .up)).length

/-- `SEDGE.STS`. -/
def sedgeSts (s : State) : Word :=
  let k := s.sedge
  BitVec.ofNat 32 (k.state.code * 2 ^ 29 + b2n (k.state == .approved) * 2 ^ 28 + b2n k.exitDrill * 2 ^ 27 + b2n k.exitDebug * 2 ^ 26
    + b2n k.exitSet * 2 ^ 25 + k.err % 256 * 2 ^ 16 + s.sessCount false % 16 * 16 + s.sessCount true % 16)

/-- SVN of the active set, and of the other slot (0 when EMPTY). -/
def svnActive (s : State) : Nat := (s.slotAt s.activeSlot).man.svn

def svnOther (s : State) : Nat :=
  let o := s.slotAt (1 - s.activeSlot)
  if o.state = .empty then 0 else o.man.svn

/-! ### Requests -/

/-- A message reaches Sedge: over DOE while the link is up, over MCTP while Heron runs. While Sedge tests itself every
request waits (R615). -/
def sedgeHears (s : State) (doe : Bool) : Bool := (if doe then s.hl.up else s.heronRuns) && s.sedge.state != .selftest

/-- Attestation is answered in every state but SELFTEST and ERROR. -/
def attests (s : State) (doe : Bool) : Bool := s.sedgeHears doe && s.sedge.state != .error

/-- A service that needs keys: ERROR and DECOMMISSIONED offer none. -/
def serves (s : State) (doe : Bool) : Bool := s.sedgeHears doe && s.sedgeServes

def session (s : State) (doe : Bool) (id : Nat) : Option Session :=
  s.sedge.sess.find? fun k => decide (k.doe = doe ∧ k.id = id)

def setSession (s : State) (k : Session) : State :=
  s.setSedge { s.sedge with sess := s.sedge.sess.map fun j => if j.doe = k.doe ∧ j.id = k.id then k else j }

def dropSession (s : State) (doe : Bool) (id : Nat) : State :=
  s.setSedge { s.sedge with sess := s.sedge.sess.filter fun j => !decide (j.doe = doe ∧ j.id = id) }

/-- The requester of an established session whose mutual authentication is complete: the Crypto Officer, and over DOE the
User too (R614). -/
def authed (s : State) (doe : Bool) (id : Nat) : Bool := (s.session doe id).any fun k => k.phase == .up && k.auth

def answer (s : State) (doe : Bool) (r : SpdmRsp) : State := s.send (.spdm doe r)

end State

/-- A request inside a session, of a service that needs a role: anyone else is refused. -/
def roleReq (doe : Bool) (id : Nat) (f : State → State) (s : State) : Res :=
  when (s.serves doe) (fun s => if s.authed doe id then f s else s.answer doe .refused) s

/-! ### Attestation (R621) -/

/-- GET_VERSION. -/
def execGetVersion (doe : Bool) (s : State) : Res := when (s.attests doe) (fun s => s.answer doe .version) s

/-- GET_CAPABILITIES. -/
def execGetCapabilities (doe : Bool) (s : State) : Res := when (s.attests doe) (fun s => s.answer doe .capabilities) s

/-- NEGOTIATE_ALGORITHMS: only P-384 and SHA-384 are ever chosen. -/
def execNegotiateAlgorithms (doe p384 sha384 : Bool) (s : State) : Res :=
  when (s.attests doe) (fun s => s.answer doe (.algorithms p384 sha384)) s

/-- Certificate slots that hold a chain. -/
def State.certSlots (s : State) : List Nat := (if s.sedge.devid then [0] else []) ++ (if s.sedge.chain1.isSome then [1] else [])

/-- GET_DIGESTS. -/
def execGetDigests (doe : Bool) (s : State) : Res := when (s.attests doe) (fun s => s.answer doe (.digests s.certSlots)) s

/-- GET_CERTIFICATE. -/
def execGetCertificate (doe : Bool) (slot : Fin 8) (s : State) : Res :=
  when (s.attests doe) (fun s => s.answer doe (if slot.val ∈ s.certSlots then .certificate slot else .refused)) s

/-- CHALLENGE: the alias key signs. -/
def execChallenge (doe : Bool) (slot : Fin 8) (s : State) : Res :=
  when (s.attests doe) (fun s => s.answer doe (if slot.val ∈ s.certSlots ∧ s.sedge.alias_ ≠ 0 then .challengeAuth slot else .refused)) s

/-- GET_MEASUREMENTS: indexes 5 and 6 are raw; with no key left the answer is unsigned (R615). -/
def execGetMeasurements (doe sign : Bool) (s : State) : Res :=
  when (s.attests doe) (fun s =>
    s.answer doe (.measurements [s.sedge.minSvn, s.svnActive, s.svnOther, s.sedge.revoked, 0, 0, 0, 0] s.sedgeSts
      (sign && decide (s.sedge.alias_ ≠ 0)))) s

/-! ### Secured sessions (R614, R622) -/

/-- KEM_INIT: the lowest free session number; a fifth request is answered Busy. No service that needs a role exists before an
owner anchor. -/
def execKemInit (doe : Bool) (s : State) : Res :=
  when (s.serves doe) (fun s =>
    if !s.sedge.owner then s.answer doe .refused
    else
      match (List.range 4).find? fun i => (s.session doe i).isNone with
      | none => s.answer doe .busy
      | some i => (s.setSedge { s.sedge with sess := s.sedge.sess ++ [{ doe := doe, id := i }] }).answer doe (.kemRsp i)) s

/-- KEM_FIN: the requester's chain ends in the owner anchor and its signature verifies, or the authentication fails and its
exchange ends. -/
def execKemFin (doe : Bool) (id : Fin 4) (chain signature : Bool) (s : State) : Res :=
  when (s.serves doe) (fun s =>
    match s.session doe id with
    | some k =>
      if k.phase ≠ .kem then s.answer doe .refused
      else if chain && signature then (s.setSession { k with auth := true }).answer doe .ok
      else (((s.dropSession doe id).bump Reg.SEDGE_AUTH_FAIL_CNT).raise (srcDevice 7) 0x7F4).answer doe .refused
    | none => s.answer doe .refused) s

/-- PSK_EXCHANGE: the session keys come from the shared secret of the KEM. -/
def execPskExchange (doe : Bool) (id : Fin 4) (s : State) : Res :=
  when (s.serves doe) (fun s =>
    match s.session doe id with
    | some k => if k.phase = .kem then (s.setSession { k with phase := .psk }).answer doe (.pskRsp id) else s.answer doe .refused
    | none => s.answer doe .refused) s

/-- PSK_FINISH: the session is established. -/
def execPskFinish (doe : Bool) (id : Fin 4) (s : State) : Res :=
  when (s.serves doe) (fun s =>
    match s.session doe id with
    | some k =>
      if k.phase = .psk then ((s.setSession { k with phase := .up }).bump Reg.SEDGE_SESSION_CNT).answer doe .ok
      else s.answer doe .refused
    | none => s.answer doe .refused) s

/-- END_SESSION. -/
def execEndSession (doe : Bool) (id : Fin 4) (s : State) : Res :=
  when (s.serves doe) (fun s =>
    if (s.session doe id).any fun k => k.phase == .up then (s.dropSession doe id).answer doe .ok else s.answer doe .refused) s

/-! ### ERROR (R616) -/

namespace State

/-- The IDE streams stop: every interface bound to one loses its key (R628). -/
def streamsStop (s : State) : State :=
  let s := (List.range 8).foldl (fun s p => if (s.tdiOf p).stream ≠ 0 then s.tdiError p else s) s
  s.setSedge { s.sedge with streams := [] }

/-- A test fails: every session key goes, and Sedge answers no more. -/
def sedgeError (s : State) (kind err : Nat) : State :=
  let s := (s.setSedge { s.sedge with state := .error, err := err, sess := [] }).streamsStop
  let s := (List.range 16).foldl (fun s l => if s.lodeLit l then s.lodeDark l else s) s
  (s.raise (srcDevice 7) kind).raise (srcDevice 7) 0x7F5

/-- Entry into APPROVED reseeds the DRBG (R613). -/
def toApproved (s : State) : State := (s.setSedge { s.sedge with state := .approved }).bump Reg.SEDGE_RESEED_CNT

/-- The tests pass: the alias key is derived, and the mode follows from the exit conditions (R615, R617). -/
def testsPass (s : State) : State :=
  let set := s.sedge.exitSet || !(s.slotAt s.activeSlot).man.approved
  let s := s.setSedge { s.sedge with alias_ := s.sedge.nextKey, nextKey := s.sedge.nextKey + 1, exitSet := set }
  let s := if s.sedge.exitDrill || s.sedge.exitDebug || set then s.setSedge { s.sedge with state := .nonapproved } else s.toApproved
  s.raise (srcDevice 7) 0x7F5

end State

/-- SELFTEST_DONE: the tests of SELFTEST end; `err` is the algorithm index of the one that failed. -/
def execSelftestDone (pass : Bool) (err : Byte) (s : State) : Res :=
  when (s.sedge.state == .selftest) (fun s => if pass then s.testsPass else s.sedgeError 0x7F0 err.toNat) s

/-- SELF_TEST_ON_DEMAND: a pass changes nothing. -/
def execSelfTestOnDemand (doe : Bool) (id : Fin 4) (pass : Bool) (err : Byte) (s : State) : Res :=
  roleReq doe id (fun s => if pass then s.answer doe .ok else s.sedgeError 0x7F0 err.toNat) s

/-- HEALTH_TEST_FAILURE: the noise source fails a health test. -/
def execHealthTestFailure (err : Byte) (s : State) : Res :=
  when (s.sedgeServes || s.sedge.state == .selftest) (fun s => (s.bump Reg.SEDGE_HEALTH_FAIL_CNT).sedgeError 0x7F1 err.toNat) s

/-- DRBG_RESEED. -/
def execDrbgReseed (s : State) : Res := when s.sedgeServes (fun s => s.bump Reg.SEDGE_RESEED_CNT) s

/-! ### Services of the Crypto Officer -/

/-- SET_CERTIFICATE: a chain for slot 1 with the identifier and the role bit of its fabric certificate, of the present fabric
key or not. Slot 0 is Colaskilo's. -/
def execSetCertificate (doe : Bool) (id : Fin 4) (slot : Fin 8) (ident : BitVec 18) (switch own : Bool) (s : State) : Res :=
  roleReq doe id (fun s =>
    if slot.val ≠ 1 then s.answer doe .refused
    else
      (s.setSedge { s.sedge with chain1 := some (ident.toNat, switch), chainKey := if own then s.sedge.fabKey else 0 }).answer doe .ok) s

/-- GET_CSR: a new fabric key replaces the old one; a pair that fails its consistency test is an error (R616, R619). -/
def execGetCsr (doe : Bool) (id : Fin 4) (slot : Fin 8) (consistent : Bool) (err : Byte) (s : State) : Res :=
  roleReq doe id (fun s =>
    if slot.val ≠ 1 then s.answer doe .refused
    else if !consistent then s.sedgeError 0x7F0 err.toNat
    else
      let key := s.sedge.nextKey
      (s.setSedge { s.sedge with fabKey := key, nextKey := key + 1 }).answer doe (.csr key)) s

/-- SET_OWNER, over MCTP: once, while no owner anchor is held. -/
def execSetOwner (s : State) : Res :=
  when (s.serves false) (fun s =>
    if s.sedge.owner then s.answer false .refused else (s.setSedge { s.sedge with owner := true }).answer false .ok) s

namespace State

/-- Zeroisation of every session key (R629): the session that asked ends once its response is sent. -/
def zeroise (s : State) : State :=
  let s := s.setSedge { s.sedge with
    sess := [], streams := []
    tdi := (List.range 8).foldl (fun t p => tset (fun _ => {}) t p { (tget (fun _ => ({} : Tdi)) t p) with state := .error }) s.sedge.tdi }
  let s := (List.range 16).foldl (fun s l =>
    if (s.lode l).state = .auth ∨ (s.lode l).state = .active then (s.lodeDark l).lodeProbe l else s) s
  s.bump Reg.SEDGE_ZERO_CNT

end State

/-- ZEROISE_SESSION. -/
def execZeroiseSession (doe : Bool) (id : Fin 4) (s : State) : Res :=
  roleReq doe id (fun s => s.zeroise.answer doe .ok) s

/-- DECOMMISSION: the long-term keys go too, and the wrapping key's destroy fuse is blown. -/
def execDecommission (doe : Bool) (id : Fin 4) (s : State) : Res :=
  roleReq doe id (fun s =>
    let s := s.zeroise
    let s := s.setSedge { s.sedge with
      devid := false, alias_ := 0, fabKey := 0, chain1 := none, chainKey := 0, owner := false, destroyed := true, state := .decommissioned }
    (s.raise (srcDevice 7) 0x7F5).answer doe .ok) s

/-- DEBUG_ARM (R641). -/
def execDebugArm (doe : Bool) (id : Fin 4) (s : State) : Res :=
  roleReq doe id (fun s => (s.setSedge { s.sedge with armed := true }).answer doe .ok) s

/-- DEBUG_ARM_EXPIRY. -/
def execDebugArmExpiry (s : State) : Res := done (s.setSedge { s.sedge with armed := false })

/-- FAULT_DRILL_ENTRY: Heron accepts the request; DRILL_ENABLE is its write. -/
def execFaultDrillEntry (doe : Bool) (id : Fin 4) (s : State) : Res :=
  roleReq doe id (fun s => if s.sump.fatal then s.answer doe .refused else (s.setSump { s.sump with ask := some true }).answer doe .ok) s

/-- FAULT_DRILL_EXIT. -/
def execFaultDrillExit (doe : Bool) (id : Fin 4) (s : State) : Res :=
  roleReq doe id (fun s => if s.sump.fatal then s.answer doe .refused else (s.setSump { s.sump with ask := some false }).answer doe .ok) s

/-! ### Link keys (R625) -/

/-- KEY_RENEWAL: a transmit direction gets a new key, which KEY_SWITCH announces from the next numbers on. -/
def execKeyRenewal (lode : Fin 16) (s : State) : Res :=
  s.lodeEvent lode [.active] fun s =>
    let k := s.lode lode
    let due := decide (2 ^ 44 ≤ k.n - k.keyN ∨ 2 ^ 44 ≤ k.cctrTx - k.keyC ∨ 2 ^ 36 ≤ s.rnd - k.since)
    if !(due && k.session && k.txNext.isNone && s.sedgeServes) then s
    else
      let key := s.sedge.nextKey
      let c := k.cctrTx + 1 + k.msgs.length / 29
      let s := (s.setSedge { s.sedge with nextKey := key + 1 }).bump Reg.SEDGE_KEYUPD_CNT
      let s := s.setLode lode { k with txNext := some ⟨key, k.n, c⟩, since := s.rnd, keyN := k.n, keyC := c }
      s.lodeSay lode 5 (k.n * 2 ^ 64 + c)

/-! ### IDE (R627) -/

namespace State

def stream (s : State) (i : Nat) : IdeStream := tget (fun _ => {}) s.sedge.streams i

def setStream (s : State) (i : Nat) (k : IdeStream) : State :=
  s.setSedge { s.sedge with streams := tset (fun _ => {}) s.sedge.streams i k }

/-- `SEDGE.IDE`. -/
def ideKeys (s : State) : Nat := (List.range 9).foldl (fun m i => if (s.stream i).used then m + 2 ^ i else m) 0

/-- Every interface bound to a stream goes to ERROR. -/
def streamLost (s : State) (i : Nat) : State :=
  (List.range 8).foldl (fun s p => if i ≠ 0 ∧ (s.tdiOf p).stream = i then s.tdiError p else s) s

end State

/-- IDE_QUERY. -/
def execIdeQuery (id : Fin 4) (s : State) : Res :=
  roleReq true id (fun s => s.answer true (.ide ((List.range 9).map fun i => (s.stream i).used))) s

/-- KEY_PROG: Sedge installs a key for a stream. -/
def execKeyProg (id : Fin 4) (stream : Fin 9) (s : State) : Res :=
  roleReq true id (fun s => (s.setStream stream { (s.stream stream) with keyed := true }).answer true .ok) s

/-- K_SET_GO: a key set that is programmed comes into use. -/
def execKSetGo (id : Fin 4) (stream : Fin 9) (s : State) : Res :=
  roleReq true id (fun s =>
    if (s.stream stream).keyed then (s.setStream stream { (s.stream stream) with used := true }).answer true .ok
    else s.answer true .refused) s

/-- K_SET_STOP: the stream's key set is used no more. -/
def execKSetStop (id : Fin 4) (stream : Fin 9) (s : State) : Res :=
  roleReq true id (fun s => ((s.setStream stream {}).streamLost stream).answer true .ok) s

/-- KEY_REFRESH: a stream in use takes a new key without stopping. -/
def execKeyRefresh (id : Fin 4) (stream : Fin 9) (s : State) : Res :=
  roleReq true id (fun s => s.answer true (if (s.stream stream).keyed then .ok else .refused)) s

/-- IDE_INTEGRITY_FAILURE: the stream carries nothing more (PRESUMED, CXL 3.1's insecure state). -/
def execIdeIntegrityFailure (stream : Fin 9) (s : State) : Res :=
  when ((s.stream stream).used && s.hl.up) (fun s =>
    ((s.setStream stream {}).streamLost stream).raise (srcDevice 7) 0x7F6) s

/-! ### TDISP (R628) -/

namespace State

def setTdi (s : State) (p : Nat) (t : Tdi) : State := s.setSedge { s.sedge with tdi := tset (fun _ => {}) s.sedge.tdi p t }

/-- The doorbell pages of a partition's rings in BAR0, submission rings first, and the registers that hold its peg range, cores,
copy engines and ways. -/
def reportOf (s : State) (p : Nat) : SpdmRsp :=
  .report p ((s.vci.sq.filter fun e => decide (e.2.cls = p)).map (·.1) ++ (s.vci.cq.filter fun e => decide (e.2.cls = p)).map (256 + ·.1))
    ([s.cfg (Reg.PEG_PART 0 p)] ++ (List.range 3).map (fun w => s.cfg (Reg.PART_CORES p w)) ++ [s.cfg (Reg.PART_CE p)]
      ++ (List.range 4).map (fun r => s.cfg (Reg.SC_WAYMASK r p)) ++ [s.cfg (Reg.DC_WAYMASK p)])

end State

/-- LOCK_INTERFACE: the partition is ACTIVE and its selective stream carries keys. -/
def execLockInterface (id : Fin 4) (part : Fin 8) (stream : Fin 9) (s : State) : Res :=
  roleReq true id (fun s =>
    if (s.tdiOf part).state = .unlocked ∧ s.partActive part ∧ stream.val ≠ 0 ∧ (s.stream stream).used then
      (s.setTdi part { state := .locked, stream := stream }).answer true .ok
    else s.answer true .refused) s

/-- GET_DEVICE_INTERFACE_REPORT. -/
def execGetDeviceInterfaceReport (id : Fin 4) (part : Fin 8) (s : State) : Res :=
  roleReq true id (fun s => s.answer true (s.reportOf part)) s

/-- START_INTERFACE. -/
def execStartInterface (id : Fin 4) (part : Fin 8) (s : State) : Res :=
  roleReq true id (fun s =>
    let t := s.tdiOf part
    if t.state = .locked then (s.setTdi part { t with state := .run }).answer true .ok else s.answer true .refused) s

/-- STOP_INTERFACE: every context of the partition is destroyed and its pegs reset, and then the interface is unlocked. The
same command again goes on with the destruction as far as it has come. -/
def execStopInterface (id : Fin 4) (part : Fin 8) (s : State) : Res :=
  roleReq true id (fun s =>
    let s := s.setTdi part { (s.tdiOf part) with stopping := true }
    let s := (s.ctxsOf part).foldl (fun s x => s.ctxDrain x) s
    if s.ctxsOf part ≠ [] then s
    else
      let lo := s.fld (Reg.PEG_PART 0 part) 14 0
      let hi := lo + s.fld (Reg.PEG_PART 0 part) 31 16
      (({ s with pegs := tkeep (fun i => decide (i < lo) || decide (hi ≤ i)) s.pegs }).setTdi part {}).answer true .ok) s

end Sys2Proof.Machine
end

