-- ==== Sys2Proof/Machine/Reset.lean ====
section
/-!
DEFINITION. Reset, clocks and start-up: R579 to R596, R535 to R541, R573, R504, R618.
-/
namespace Sys2Proof.Machine

/-! ### Option bytes (R540, R586) -/

/-- A little-endian field of option bytes. -/
def optField (b : List Byte) (o n : Nat) : Nat := ofLe ((b.drop o).take n)

/-- The CRC of option bytes holds. -/
def optCrc (b : List Byte) : Bool := decide (b.length = 256) && decide (optField b 0xFC 4 = crc32c (b.take 0xFC))

/-- The option bytes as they are loaded: every default where the CRC fails. -/
def optLoaded (b : List Byte) : List Byte := if optCrc b then b else optDefault

/-- A field of `n` bytes outside its range takes its default. -/
def optRanged (b : List Byte) (o n lo hi : Nat) : Nat :=
  let v := optField b o n
  if lo ≤ v ∧ v ≤ hi then v else optField optDefault o n

/-- Offsets of fields outside their ranges. -/
def optWrong (b : List Byte) : List Nat :=
  let out (o n lo hi : Nat) : List Nat := if lo ≤ optField b o n ∧ optField b o n ≤ hi then [] else [o]
  out 0x0A 2 550 1000 ++ out 0x0C 2 550 65535 ++ out 0x0F 1 80 105 ++ (List.range 9).flatMap (fun n => out (0x20 + 2 * n) 2 1 65535)

namespace State

/-- The loaded values come into force, and Heron records what did not hold. -/
def loadOptions (s : State) : State :=
  let b := optLoaded s.heron.opts
  let dpMax := optRanged b 0x0A 2 550 1000
  let tctl := optRanged b 0x0F 1 80 105
  let ilim := (List.range 9).map fun n => optRanged b (0x20 + 2 * n) 2 1 65535
  let s := s.setHeron { s.heron with
    serial := optField b 0 8, cool := bitOf (optField b 8 1) 0, dpMax := dpMax, opDef := optField b 0x0E 1 % 8, tctl := tctl
    txset := optField b 0x10 2, markTx := optField b 0x12 2, static := optField b 0x14 1 % 128, ilim := ilim }
  let s := s.setDesign (min dpMax (optRanged b 0x0C 2 550 65535))
  let s := (s.setBit Reg.HERON_STS 3 s.heron.cool).setFld Reg.HERON_TJ 23 16 tctl
  let s := (List.range 9).foldl (fun s n => s.setFld (Reg.HERON_RAIL_I n) 31 16 (ilim.getD n 0)) s
  let s := if optCrc s.heron.opts then s else s.logDue 7 0 1
  (optWrong b).foldl (fun s o => s.logDue 7 0 (256 * o)) s

end State

/-- The slots as a start finds them: a set that waited for its Round is only staged, one half delivered is gone, and the
option byte ACTIVE names the slot that starts where that slot holds a set (R541, R545). -/
def slotsAtStart (opts : List Byte) (slots : List FwSlot) : List FwSlot :=
  let want := optField (optLoaded opts) 9 1 % 2
  let settle (x : FwSlot) : FwSlot := if x.state = .pending then { x with state := .staged } else if x.state = .staging then {} else x
  let slots := slots.map settle
  let x : FwSlot := slots.getD want {}
  let y : FwSlot := slots.getD (1 - want) {}
  if x.state = .staged then
    (slots.set (1 - want) { y with state := if y.state = .active then .staged else y.state }).set want { x with state := .active }
  else slots

/-! ### The two scopes (R580) -/

/-- Slots of the units that a block reset leaves as they are: RF, RST, SUMP, HERON and SEDGE. -/
def runsOn (slot : Nat) : Bool := decide (slot ∈ [0, 1, 2, 3, 5])

/-- What a block reset leaves of the register file: Sump's counters clear. -/
def RegSt.blockReset (g : RegSt) : RegSt :=
  let count (a : Nat) : Bool := runsOn (a / 0x100000) && decide (a / 0x100000 ≠ 2)
  { cfg := tkeep (fun a => runsOn (a / 0x100000)) g.cfg, ctr := tkeep count g.ctr, hold := tkeep count g.hold
    latch := tkeep (fun k => runsOn (k / 2)) g.latch, capt := tkeep (fun k => runsOn (k / 2)) g.capt
    bad := g.bad.filter fun e => runsOn (e.1 / 0x100000) }

/-- What a block reset leaves of Sump. Messages and lines of the sources that run on, Heron's, Sedge's and those of its
sensors, are still on their way (DEDUCED). -/
def SumpSt.blockReset (u : SumpSt) : SumpSt :=
  let stays (m : FaultMsg) : Bool := decide (m.src ∈ [srcDevice 6, srcDevice 7, srcDevice 12, srcDevice 13])
  { fatal := u.fatal, factory := u.factory, forceErr := u.forceErr, fatalSeen := u.fatalSeen, logged := u.logged, ask := u.ask
    flight := u.flight.filter stays, lines := u.lines.filter stays }

/-- Heron runs on: every region restarts at OP0, with the thermal cap it has, and no command of Bittern's waits on it. -/
def HeronSt.blockReset (h : HeronSt) : HeronSt :=
  { h with
    ops := (List.range 4).foldl (fun t r => tset (fun _ => {}) t r { capT := (tget (fun _ => ({} : OpSt)) h.ops r).capT }) []
    act := h.act.map fun a => { a with cmd := none }, check := h.check.map fun k => { k with cmd := none }
    revert := h.revert.map fun k => { k with cmd := none } }

namespace State

/-- Sedge runs on: lode and IDE keys and the sessions over DOE go; where DRILL is the only exit condition, approved mode
returns without SELFTEST (R618, R622). -/
def sedgeBlock (s : State) : State :=
  let s := s.streamsStop
  let k := s.sedge
  let s := s.setSedge { k with sess := k.sess.filter fun j => !j.doe }
  if k.exitDrill && !k.exitDebug && !k.exitSet then
    let s := s.setSedge { s.sedge with exitDrill := false }
    if k.state = .nonapproved then s.toApproved.raise (srcDevice 7) 0x7F5 else s
  else s

/-- The block scope. -/
def blockReset (s : State) : State :=
  let t : State := {
    pending := s.pending, free := s.free, out := s.out, due := s.due, rst := s.rst, tap := s.tap, heron := s.heron.blockReset
    sump := s.sump.blockReset, reg := s.reg.blockReset, sedge := s.sedge, pins := s.pins }
  (t.setBit Reg.SUMP_DRILL 0 false).sedgeBlock

/-- What a cold reset leaves: the non-volatile storage of Heron and Sedge, and the fuses. -/
def coldReset (s : State) : State :=
  let h := s.heron
  let k := s.sedge
  { State.reset with
    pending := s.pending, free := s.free, out := s.out
    heron := { opts := h.opts, main := h.main, repair := h.repair, seq := h.seq, slots := slotsAtStart h.opts h.slots }
    rst := { fuse := s.rst.fuse }
    sedge := {
      state := if k.destroyed then .decommissioned else .selftest
      devid := k.devid, fabKey := k.fabKey, chain1 := k.chain1, chainKey := k.chainKey, owner := k.owner, destroyed := k.destroyed
      minSvn := k.minSvn, revoked := k.revoked, nextKey := k.nextKey } }

/-! ### Sources (R579 to R582, R585) -/

/-- CAUSE with a source's bit. -/
def causeOf (s : State) (code : Nat) : Nat := s.rst.cause ||| 2 ^ (code - 1)

/-- A cold reset, or the start-up that follows it, is in progress. -/
def inCold (s : State) : Bool := !s.rst.ready && decide (s.rst.scope ≠ 2)

/-- A block-scope source asserts. -/
def blockSource (s : State) (code : Nat) : State :=
  let s := ({ s with rst := { s.rst with cause := s.causeOf code } }).bump Reg.RST_BLOCK_CNT
  if s.sump.fatal then s.logDue 9 0 code
  else if s.inCold then s
  else
    let s := s.blockReset
    { s with rst := { s.rst with ready := false, scope := 2, lastSrc := code, step := 3 } }

/-- A cold-scope source asserts: during a non-volatile pulse the always-on domain waits for its end. -/
def coldSource (s : State) (code : Nat) : State :=
  let cause := (if s.inCold then s.causeOf code else 2 ^ (code - 1)) ||| 1
  if s.rst.pulse then
    let s := if s.rst.late then s else s.blockReset.bump Reg.RST_DEFER_CNT
    { s with rst := { s.rst with ready := false, scope := 1, lastSrc := code, cause := cause, step := 0, late := true } }
  else
    let s := s.coldReset
    { s with rst := { s.rst with scope := 1, lastSrc := code, cause := cause } }

end State

/-- POWER_ON. -/
def execPowerOn (s : State) : Res := done (s.coldSource 1)

/-- BROWN_OUT. -/
def execBrownOut (s : State) : Res := done (s.coldSource 2)

/-- PIN_RESET. -/
def execPinReset (s : State) : Res := done (s.blockSource 3)

/-- NV_PULSE_END: a deferred reset of the always-on domain goes on. -/
def execNvPulseEnd (s : State) : Res :=
  when s.rst.pulse (fun s =>
    if s.rst.late then
      let c := s.coldReset
      { c with rst := { c.rst with scope := 1, lastSrc := s.rst.lastSrc, cause := s.rst.cause } }
    else { s with rst := { s.rst with pulse := false } }) s

/-! ### Clock failure and lock-up (R584) -/

/-- Bit n of CLK_STS0, or 32 plus the bit of CLK_STS1. -/
def clockBit : ClockMon → Nat
  | .lode l => l | .hbm k => 16 + k
  | .core r b => 32 + 2 * r + b2n b | .fabric r => 40 + r | .ucie m _ => 44 + m | .uncore => 48 | .round => 49 | .refclk => 50 | .aon => 51

/-- CLOCK_FAILURE. -/
def execClockFailure (clock : ClockMon) (s : State) : Res :=
  let s := s.bump Reg.RST_CLKFAIL_CNT
  let s := { s with rst := { s.rst with badClk := if clockBit clock ∈ s.rst.badClk then s.rst.badClk else s.rst.badClk ++ [clockBit clock] } }
  done (match clock with
    | .aon => s.coldSource 6
    | .lode l =>
      if s.sump.fatal then s
      else if (s.lode l).state = .active then s.lodeRetrain l
      else s.modLode l fun k => { k with lock := 0 }
    | .ucie m left =>
      if !s.hl.up || s.sump.fatal then s
      else s.linkEvent (if modsOk left && !bitOf left m then .retrain left else .down)
    | _ => s.blockSource 6)

/-- LOCK_UP. -/
def execLockUp (s : State) : Res := done (s.blockSource 7)

/-! ### Start-up (R586, R587) -/

namespace State

/-- Steps 0 to 2: the option bytes, factory mode (R595), FAULT_N released, and Heron in RUN. -/
def startCold (s : State) (testen : Bool) : State :=
  let s := (s.setSump { s.sump with factory := testen && s.rst.fuse }).loadOptions
  let s := { s with heron := { s.heron with state := .run }, pins := { s.pins with faultN := true } }
  (s.setFld Reg.HERON_STS 2 2 s.activeSlot).logRegs

/-- Step 5: a controller trains with the stored repairs of its channels; where repair is exhausted its stack is lost (R230,
R235, R236). -/
def startHbm (s : State) (lanes : Nat) (lost : List (Fin 8 × Fin 32)) (k : Nat) : State :=
  let mine := (s.heron.repair.filter fun e => decide (e.kind = 5 ∧ e.data % 8 = k)).map fun e => e.data / 8 % 32
  let s := (List.range 32).foldl (fun s c =>
    let n := (mine.filter (· = c)).length
    s.setCfg (Reg.HBMC_LANE k c) (BitVec.ofNat 32 (256 * min 255 n + (lanes - n)))) s
  match lost.find? fun e => decide (e.1.val = k) with
  | none => s.setHctl k { state := .run }
  | some e =>
    let s := (s.setHctl k { state := .lost }).setCfg (Reg.HBMC_ERR_ADDR k) (BitVec.ofNat 32 (2 ^ 31 + 2 * 2 ^ 29 + e.2.val))
    s.raise (hbmSrc k) 0x104 none 1 (k * 2 ^ 36 + 128 * e.2.val)

/-- A core that fails the start-up check is fenced (R573). -/
def failCheck (s : State) (c : Nat) : State :=
  let s := s.modCore c fun k => { k with isolated := true }
  let a := Reg.RFC_CORE (c / 26) (c % 26)
  let s := ((s.setBit (Reg.CSTORE_STS (c / 26) (c % 26)) 4 true).setBit a 30 true).setBit a 29 true
  s.bump (Reg.RFC_FENCE_CNT (c / 26))

/-- The logical cores of a region are bound in order to its lowest-numbered healthy cores, which pass through INIT (R572). -/
def startCores (s : State) (r : Nat) : State :=
  (((s.widows r).take 24).zipIdx.foldl (fun s e => s.modCore e.1 fun k => { k with lcore := some (24 * r + e.2), pwr := .run }) s)

end State

/-- The shares of class 8 at start-up (R504), as the record of a class gives them. -/
def classEight : List Byte :=
  List.replicate 0x14 0#8 ++ [0x00#8, 0x80#8] ++ List.replicate 0x2A 0#8
    ++ (List.replicate 4 ([0x00#8, 0xC0#8, 0x00#8, 0x03#8] ++ leBytes 2 256 ++ leBytes 2 2048 ++ leBytes 2 128 ++ leBytes 2 1024
      ++ List.replicate 20 0#8)).flatten

namespace State

/-- Steps 3 to 7. A lost stack brings the fatal state, and start-up goes no further than step 5. -/
def startBlock (s : State) (failed : List (Fin 104)) (mods lanes : Nat) (lost : List (Fin 8 × Fin 32)) : State :=
  let s := s.logDue 9 0 s.rst.lastSrc
  let s := { s with
    rst := { s.rst with step := 5, badClk := [] }, dc := { s.dc with state := .run }
    hl := { s.hl with up := modsOk mods, mods := if modsOk mods then mods else 0 } }
  let s := (List.range 8).foldl (fun s k => s.startHbm lanes lost k) s
  if !lost.isEmpty then s
  else
    let s := (failed.map (·.val)).eraseDups.foldl failCheck s
    let s := ((List.range 4).foldl startCores s).writeShares 8 classEight
    let s := (List.range 16).foldl (fun s l =>
      (s.setLode l { state := .dark }).setFld (Reg.LODE_CTL l) 2 1 (b2n (bitOf s.heron.txset l) + 2 * b2n (bitOf s.heron.markTx l))) s
    { s with vci := { s.vci with up := true, mbusy := false }, rst := { s.rst with ready := true } }

end State

/-- START_UP: PWROK rises, or a block reset's source has ended. `testen` is TESTEN as PWROK rises, `failed` the cores that
fail their check, `mods` the modules that train, `lanes` the repair lanes a stack gives each channel, and `lost` the
stacks whose repair is exhausted, each with its channel. -/
def execStartUp (testen : Bool) (failed : List (Fin 104)) (mods : Fin 16) (lanes : Byte) (lost : List (Fin 8 × Fin 32)) (s : State) : Res :=
  when (!s.rst.ready && !s.rst.late && !s.sump.fatal && decide (s.rst.step ≠ 5) && (s.inCold || s.heronRuns)) (fun s =>
    let s := if s.rst.lastSrc = 0 then { s with rst := { s.rst with scope := 1, lastSrc := 1, cause := s.rst.cause ||| 1 } } else s
    let s := if s.inCold then s.startCold testen else s
    s.startBlock failed mods lanes.toNat lost) s

end Sys2Proof.Machine
end

