-- ==== Sys2Proof/Machine/RegView.lean ====
section
/-!
DEFINITION. What every register of BAR2 reads: its stored fields, and the live fields of each unit's map laid over them
(R58, R207, R223, R371, R408, R469, R552, R577, R596, R632, R643 and the other maps).
-/
namespace Sys2Proof.Machine

/-- Lay fields (high bit, low bit, value) over a word. -/
def layFields (w : Word) (fs : List (Nat × Nat × Nat)) : Word := fs.foldl (fun w f => putBits w f.1 f.2.1 f.2.2) w

/-- A number with bit i set where `p i` holds. -/
def bitsWhere (n : Nat) (p : Nat → Bool) : Nat := (List.range n).foldl (fun a i => if p i then a + 2 ^ i else a) 0

namespace State

/-! ### The always-on units -/

/-- Whether a monitor of R584 finds its clock good. -/
def clockGood (s : State) (n : Nat) : Bool := decide (n ∉ s.rst.badClk)

/-- Whether the domains of step 3 of R587 are powered. -/
def uncoreOn (s : State) : Bool := s.rst.ready || decide (s.rst.step = 5)

def liveRst (s : State) (base : Nat) : List (Nat × Nat × Nat) :=
  if base = 0x00 then [(31, 31, b2n s.rst.ready), (25, 24, s.rst.scope), (23, 16, s.rst.lastSrc), (6, 0, s.rst.cause)]
  else if base = 0x04 then [(3, 0, if s.rst.ready then 15 else s.rst.step)]
  else if base = 0x40 then
    [(23, 16, bitsWhere 8 fun k => (s.ctl k).state != .off && s.clockGood (16 + k)),
      (15, 0, bitsWhere 16 fun l => (s.lode l).state != .off && s.clockGood l)]
  else if base = 0x44 then
    [(19, 0, bitsWhere 20 fun n => s.clockGood (32 + n)
      && (s.uncoreOn || decide (n = 19) || (decide (n = 17 ∨ n = 18) && decide (s.rst.scope = 2))))]
  else []

def liveSump (s : State) (base : Nat) : List (Nat × Nat × Nat) :=
  let u := s.sump
  if base = 0x00 then
    [(31, 31, b2n u.fatal), (30, 30, b2n u.drill), (29, 29, b2n u.factory), (28, 28, b2n u.forceErr), (21, 11, u.fq.length),
      (10, 0, min u.pend10.length 2047)]
  else []

def liveHeron (s : State) (base i : Nat) : List (Nat × Nat × Nat) :=
  let h := s.heron
  if base = 0x00 then [(1, 0, h.state.code)]
  else if base = 0x10 then
    let o := s.op i
    [(26, 24, s.opReq i), (22, 20, o.grant), (18, 16, o.applied), (11, 11, b2n o.byRail),
      (10, 10, b2n (decide (s.opClock i ≠ o.applied))), (9, 9, b2n o.byTherm), (8, 8, b2n o.byDesign), (2, 0, s.thrStep i)]
  else if base = 0x40 then
    match s.tjMax with
    | some (d, t) => [(13, 8, d), (7, 0, t)]
    | none => []
  else if base = 0x44 then [(15, 0, h.watts)]
  else if base = 0x100 then (List.range 4).map fun b => (8 * b + 7, 8 * b, s.diode (4 * i + b))
  else if base = 0x200 then [(15, 0, (s.rail i).amps)]
  else if base = 0x204 then [(15, 0, (s.rail i).volts)]
  else if base = 0x300 then [(8, 8, b2n h.act.isSome), (6, 4, (s.slotAt 1).state.code), (2, 0, (s.slotAt 0).state.code)]
  else if base = 0x304 then [(31, 0, (h.act.map (·.rnd)).getD 0)]
  else if base = 0x308 then [(31, 0, (h.act.map (·.rnd)).getD 0 / 2 ^ 32)]
  else []

def liveRound (s : State) (base : Nat) : List (Nat × Nat × Nat) :=
  let r := s.round
  if base = 0x10 then [(15, 12, r.act), (11, 10, s.disc), (7, 3, r.depth), (2, 0, r.state.code)]
  else if base = 0x20 then [(31, 0, s.rnd)]
  else if base = 0x24 then [(31, 0, s.rnd / 2 ^ 32)]
  else if base = 0x28 then [(31, 31, b2n s.counting), (9, 0, if s.counting then r.phase else 0)]
  else []

def liveSedge (s : State) (base i : Nat) : List (Nat × Nat × Nat) :=
  let k := s.sedge
  if base = 0x00 then [(31, 0, s.sedgeSts.toNat)]
  else if base = 0x10 then [(31, 24, k.minSvn), (23, 16, s.svnActive), (15, 8, s.svnOther), (3, 0, k.revoked)]
  else if base = 0x20 then
    match k.chain1 with
    | some (id, _) => [(31, 31, 1), (17, 0, id)]
    | none => []
  else if base = 0x24 then [(31, 31, b2n k.owner)]
  else if base = 0x30 then [(8, 0, s.ideKeys)]
  else if base = 0x40 then [(11, 8, (s.tdiOf i).stream), (1, 0, (s.tdiOf i).state.code)]
  else []

/-! ### Device uncore and host link -/

/-- A word of an entry of the lost-write log. -/
def lwlWord (e : LwlEnt) (w : Nat) : Nat :=
  match w with
  | 0 => 2 ^ 31 + e.req * 2 ^ 29 + b2n e.part * 2 ^ 28 + b2n e.ctx.isNone * 2 ^ 27 + e.ctx.getD 0 * 2 ^ 21 + e.unit * 2 ^ 14 + e.gen
  | 1 => e.first
  | 2 => e.first / 2 ^ 32 % 2 ^ 14
  | _ => e.lines - 1

def liveHl (s : State) (base i : Nat) : List (Nat × Nat × Nat) :=
  let h := s.hl
  if base = 0x10 then
    [(31, 30, h.attach.code), (29, 29, b2n h.hr), (27, 27, b2n h.viralTx), (26, 26, b2n h.viralRx), (23, 20, h.mods)]
  else if base = 0x20 then [(9, 0, h.lwl.length)]
  else if base = 0x100 then [(31, 0, bitsWhere 32 fun b => decide (32 * i + b ∈ h.pendIrq))]
  else if 0x1000 ≤ base ∧ base < 0x1010 then
    match tfind h.lwl i with
    | some e => [(31, 0, lwlWord e ((base - 0x1000) / 4))]
    | none => []
  else []

def liveDc (s : State) (base : Nat) : List (Nat × Nat × Nat) :=
  let d := s.dc
  if base = 0x10 then [(29, 16, d.set), (2, 0, d.state.code)]
  else if base = 0x14 then [(31, 24, d.evb.length), (23, 12, d.wt.length), (11, 0, d.fills.length)]
  else if base = 0x100 then [(31, 31, b2n d.op.isSome)]
  else []

def livePart (s : State) (base p n : Nat) : List (Nat × Nat × Nat) :=
  if base = 0x00 then [(31, 30, (s.part p).state.code), (6, 0, (s.ctxsOf p).length)]
  else if base = 0x18 then [(31, 0, s.useT1 p)]
  else if base = 0x20 then [(16, 0, s.useT2 p)]
  else if base = 0x40 then [(15, 0, s.useT0 p n)]
  else []

/-! ### The units of a region -/

def liveSeq (s : State) (base c : Nat) : List (Nat × Nat × Nat) :=
  let k := s.core c
  if base = 0x00 then [(29, 16, k.row), (15, 12, k.loops.length), (11, 8, k.calls.length), (2, 0, k.seq.code)] else []

def livePeg (s : State) (base p : Nat) : List (Nat × Nat × Nat) :=
  let g := s.peg p
  if base = 0x10000 then [(31, 0, g.count)]
  else if base = 0x10004 then [(31, 0, g.target)]
  else if base = 0x10008 then [(15, 8, s.waiters p), (3, 3, b2n g.poison), (2, 2, b2n g.sat), (1, 1, b2n g.ready), (0, 0, b2n g.armed)]
  else []

def liveRtlb (s : State) (r base : Nat) : List (Nat × Nat × Nat) :=
  if base = 0x10 then
    [(27, 16, (s.xl.rtlb.filter fun e => decide (e.1 / 512 = r)).foldl (fun a e => a + (e.2.filter (·.pin)).length) 0)]
  else []

def liveDir (s : State) (r base : Nat) : List (Nat × Nat × Nat) :=
  if base = 0x10 then
    let w := tfind s.coh.walk r
    [(31, 31, b2n w.isSome), (20, 16, (w.map (·.core % 26)).getD 0),
      (10, 0, (s.coh.open_.filter fun t => decide (homeOf t.line = r)).length)]
  else []

/-- The status word of the engine of a list table. -/
def liveEng (s : State) (e actHi actLo : Nat) : List (Nat × Nat × Nat) :=
  let ls := s.engLists e
  [(actHi, actLo, (ls.filter fun l => decide (l.2.st = .running ∨ l.2.st = .gated)).length), (actLo - 1, actLo - 7, ls.length),
    (11, 0, ls.foldl (fun a l => a + l.2.units.length) 0)]

/-- The gated list of an engine and its peg. -/
def liveGate (s : State) (e : Nat) : List (Nat × Nat × Nat) :=
  match (s.engLists e).find? fun l => decide (l.2.st = .gated) with
  | some l =>
    let peg := ((s.waits ++ s.wakes).find? fun w => decide (w.2 = engWaiter e)).map (·.1)
    let going := (s.pegOps.find? fun o => decide (o.2 = .wait (engWaiter e))).map (·.1)
    [(31, 31, 1), (20, 15, l.1 % 64), (14, 0, (peg.orElse fun _ => going).getD 0)]
  | none => []

/-- A word of an entry of a list table (R371). -/
def liveList (s : State) (e n w : Nat) : List (Nat × Nat × Nat) :=
  match s.list (listKey e n) with
  | some l =>
    let pos := s.listPos (listKey e n) l
    match w with
    | 0 => [(31, 31, 1), (30, 28, l.st.code), (27, 22, l.status), (21, 16, l.ctx), (9, 0, l.permille (decide (16 ≤ e)))]
    | 1 => [(31, 0, pos)]
    | 2 => [(31, 24, pos / 2 ^ 56), (23, 0, pos / 2 ^ 32)]
    | _ => [(10, 10, b2n l.lcore.isSome), (9, 0, l.flags.toNat)]
  | none => []

def liveConn (s : State) (c w : Nat) : List (Nat × Nat × Nat) :=
  let k := tget (fun _ => ({} : Conn)) s.fab.conns c
  match w with
  | 0 => [(31, 30, k.state.code)]
  | 3 => [(23, 0, k.tx)]
  | 4 => [(23, 0, k.unack)]
  | 5 => [(23, 0, k.rx)]
  | 6 => [(26, 16, k.credit), (3, 0, k.act.getD 0)]
  | 7 => [(31, 16, k.drops), (7, 0, k.timeouts)]
  | _ => []

def liveRfc (s : State) (r base i : Nat) : List (Nat × Nat × Nat) :=
  if base = 0x00 then
    let c := s.rfcOf r
    [(15, 8, ((c.held.map (·.src)).eraseDups).length), (6, 0, c.q.length)]
  else if base = 0x100 then
    match (s.core (26 * r + i)).lcore with
    | some l => [(31, 31, 1), (6, 0, l)]
    | none => []
  else []

def liveTrc (s : State) (r base j w : Nat) : List (Nat × Nat × Nat) :=
  let t := tget (fun _ => ({} : TrcSt)) s.trc r
  if base = 0x10 then [(31, 31, b2n t.wrapped), (14, 0, t.fill (s.fld (Reg.TRC_RD r) 13 0))]
  else if base = 0x14 then [(13, 0, t.wr)]
  else if base = 0x8000 then
    [(31, 0, (tget (fun _ => 0#128) t.buf (2048 * s.fld (Reg.TRC_WIN r) 2 0 + j)).toNat / 2 ^ (32 * w))]
  else []

def liveHbm (s : State) (k base : Nat) : List (Nat × Nat × Nat) :=
  let h := s.ctl k
  if base = 0x10 then [(12, 8, h.ch), (2, 0, h.state.code)]
  else if base = 0x24 then [(31, 31, b2n h.valid), (9, 8, h.level), (7, 0, h.temp)]
  else []

/-- The transmit lanes a lode drives. -/
def lanesLit (k : LodeSt) : List Nat := if k.state = .train ∨ k.state = .auth ∨ k.state = .active then groupLanes k.txw k.txg else []

/-- A LODE unit. The optical powers of a lane that light may reach are free values. -/
def liveLode (s : State) (l base i : Nat) : List (Nat × Nat × Nat) :=
  let k := s.lode l
  if base = 0x10 then [(26, 24, k.state.code), (23, 22, k.txw), (21, 20, k.txg), (19, 18, k.rxw), (17, 16, k.rxg)]
  else if base = 0x14 then [(23, 16, bitsWhere 8 fun n => decide (n ∈ lanesLit k)), (15, 8, k.degraded), (7, 0, k.lock)]
  else if base = 0x40 then [(31, 31, b2n k.latched), (7, 0, k.qcnt)]
  else if base = 0x50 then
    match k.partner with
    | some (switch, id) => [(31, 31, 1), (30, 30, b2n switch), (17, 0, id)]
    | none => []
  else if base = 0x100 then
    (if i ∈ lanesLit k then [(31, 16, s.draw (2 ^ 32) / 65536)] else []) ++ if k.state = .off then [] else [(15, 0, s.draw (2 ^ 32))]
  else []

/-! ### A register -/

/-- The live fields of the register at a place of the map. -/
def live (s : State) (h : RegHit) : List (Nat × Nat × Nat) :=
  let b := h.row.base
  let i := h.idx.getD 0 0
  let j := h.idx.getD 1 0
  match h.unit with
  | .rst => s.liveRst b
  | .sump => s.liveSump b
  | .heron => s.liveHeron b i
  | .round => s.liveRound b
  | .sedge => s.liveSedge b i
  | .hl => s.liveHl b i
  | .dc => s.liveDc b
  | .xlat => if b = 0xC00 then [(3, 0, (s.xl.invs.filter (·.marked)).length)] else []
  | .part => s.livePart b i j
  | .cstore => if b = 0 then [(7, 6, (s.core (26 * h.inst + i)).pwr.code)] else []
  | .seq => s.liveSeq b (26 * h.inst + i)
  | .peg => s.livePeg b (8192 * h.inst + i)
  | .rtlb => s.liveRtlb h.inst b
  | .dir => s.liveDir h.inst b
  | .ce =>
    let e := 4 * h.inst + i
    if b = 0 then s.liveEng e 30 28 else if b = 4 then s.liveGate e
    else if 0x1000 ≤ b then s.liveList e j ((b - 0x1000) / 4) else []
  | .fab =>
    if b = 0x10 then s.liveEng (16 + h.inst) 27 23
    else if 0x800 ≤ b ∧ b < 0x810 then s.liveList (16 + h.inst) i ((b - 0x800) / 4)
    else if 0x10000 ≤ b then s.liveConn (1024 * h.inst + i) ((b - 0x10000) / 4) else []
  | .rfc => s.liveRfc h.inst b i
  | .trc => s.liveTrc h.inst b i j
  | .hbmc => s.liveHbm h.inst b
  | .lode => s.liveLode h.inst b i
  | .rf | .arith | .sc => []

end State

/-- Where a register is stored: every region's PEG unit shows one set of `PART_n` and `CTX_n`, and every region's FAB unit
one `ID` and one placement table (DEDUCED). -/
def regHome (h : RegHit) (a : Nat) : Nat :=
  let b := h.row.base
  let shared := match h.unit with
    | .peg => decide (b < 0x300)
    | .fab => decide (b = 0) || (decide (0x400 ≤ b) && decide (b < 0x410))
    | _ => false
  if shared then a - h.inst * 0x2000000 else a

def RegHit.w2 (h : RegHit) : Bool := h.row.fields.any fun f => f.acc == .W2

/-- The W2 register whose complement word lies at an offset (R601). -/
def complementOf (a : Nat) : Option RegHit :=
  match regAt a with
  | some _ => none
  | none => (regAt (a - 4)).bind fun h => if h.w2 then some h else none

namespace State

/-- What a register reads: a counter shows its holding register (R603), a WO field zero (R599). -/
def regView (s : State) (h : RegHit) (a : Nat) : Word :=
  if h.row.ctr then tget (fun _ => 0#32) s.reg.hold a
  else layFields (s.cfg (regHome h a)) (s.live h) &&& h.row.maskOf (· != .WO)

/-- What an offset of BAR2 reads: a register, a complement word, or zero (R601, R606). -/
def regRead (s : State) (a : Nat) : Word :=
  match regAt a with
  | some h => s.regView h a
  | none =>
    match complementOf a with
    | some h => ~~~ (s.regView h (a - 4))
    | none => 0#32

end State

end Sys2Proof.Machine
end

