-- ==== Sys2Proof/Machine/RegFile.lean ====
section
/-!
DEFINITION. The stored fields of the register file: who may write them (R597), what a value does to its unit, and their
parity (R605).
-/
namespace Sys2Proof.Machine

/-! ### Fields that firmware writes (R597) -/

/-- The RO fields of a register that Bittern or Heron writes, as its chapter names them: behaves as RW on the firmware
path. -/
def RegHit.fwMask (h : RegHit) : Word :=
  let b := h.row.base
  let named := match h.unit with
    | .rst => decide (b = 0x30 ∨ b = 0x120)
    | .heron | .hl | .part => true
    | .dc => decide (b = 0x40) || (decide (0x100 ≤ b) && decide (b ≤ 0x110))
    | .xlat => decide (b = 0) || decide (0x10000 ≤ b)
    | .peg => decide (b < 0x300)
    | .sc => decide (b < 0x200)
    | .fab => decide (b ≠ 0x20)
    | _ => false
  if named && !h.row.ctr then h.row.maskOf (· == .RO) else 0#32

/-- Registers that their chapters reserve to Bittern or Heron (R597). -/
def RegHit.reserved (h : RegHit) : Bool :=
  let b := h.row.base
  match h.unit with
  | .sump => decide (b = 0x10 ∨ b = 0x100 ∨ b = 0x20)
  | .lode => decide (b = 0x00 ∨ b = 0x44)
  | _ => false

/-- Fields that hardware changes, and that carry no register parity (R605). -/
def RegHit.hwMask (h : RegHit) : Word :=
  let b := h.row.base
  match h.unit with
  | .round => if b = 0x30 then 0xFFFFFFFF#32 else 0#32
  | .dc => if b = 0x20 then 0xFFFFFFFF#32 else if b = 0x100 then 0x0C000000#32 else 0#32
  | .trc => if b = 0x18 ∨ b = 0x28 then 0xFFFFFFFF#32 else 0#32
  | _ => 0#32

/-- The configuration fields of a register (R605). -/
def RegHit.config (h : RegHit) : Word :=
  (h.row.maskOf (fun a => a == .RW || a == .W2 || a == .WP) ||| h.fwMask) &&& ~~~ h.hwMask

/-- Those of them that Bittern or Heron writes, which a shadow copy holds. -/
def RegHit.shadowed (h : RegHit) : Word := if h.reserved then h.config else h.config &&& h.fwMask

/-- The source that reports a unit's parity errors (R555). -/
def RegHit.source (h : RegHit) : Nat :=
  let i := h.inst
  match h.unit with
  | .sc => srcRegion i 0 | .dir => srcRegion i 1 | .hbmc => srcRegion (i / 2) (2 + i % 2) | .lode => srcRegion (i / 4) (4 + i % 4)
  | .ce => srcRegion i 8 | .peg => srcRegion i 12 | .fab => srcRegion i 13 | .rtlb => srcRegion i 14 | .arith => srcRegion i 15
  | .cstore => srcRegion i 16 | .seq => srcRegion i 17 | .rfc => srcRegion i 18 | .trc => srcRegion i 19
  | .dc => srcDevice 0 | .hl => srcDevice 1 | .heron => srcDevice 6 | .sedge => srcDevice 7 | .sump => srcDevice 8
  | .round => srcDevice 9 | .xlat => srcDevice 10 | .part => srcDevice 11 | .rst => srcDevice 14 | .rf => srcDevice 15

/-! ### A value and its unit -/

/-- A word of a log record as `HERON.LOG_DATA_w` shows it (R538). -/
def LogEnt.word (e : LogEnt) (w : Nat) : Nat :=
  (e.seq % 2 ^ 32 + e.kind % 2 ^ 16 * 2 ^ 32 + e.sev % 256 * 2 ^ 48 + e.stamp % 2 ^ 64 * 2 ^ 64 + e.data % 2 ^ 128 * 2 ^ 128) / 2 ^ (32 * w)

/-- An entry of the lost-write log from its four words; without VALID there is none (R469). -/
def lwlOf (w : List Nat) : Option LwlEnt :=
  let a := w.getD 0 0
  if bitOf a 31 then
    some ⟨bitsOf a 30 29, bitOf a 28, if bitOf a 27 then none else some (bitsOf a 26 21), bitsOf a 20 14, bitsOf a 7 0,
      w.getD 1 0 + bitsOf (w.getD 2 0) 13 0 * 2 ^ 32, bitsOf (w.getD 3 0) 15 0 + 1⟩
  else none

namespace State

/-- Heron writes a word of the selected log record's place (R552). -/
def logSelect (s : State) (w : Word) : State :=
  let area := if w.getLsbD 31 then s.heron.repair else s.heron.main
  let e := area[bitsOf w.toNat 14 0]?
  (List.range 8).foldl (fun s i => s.setCfg (Reg.HERON_LOG_DATA i) (BitVec.ofNat 32 ((e.map (·.word i)).getD 0))) (s.setCfg Reg.HERON_LOG_SEL w)

/-- A word of the lost-write log is written. -/
def lwlPut (s : State) (n w : Nat) (v : Word) : State :=
  let old := tfind s.hl.lwl n
  let ws := (List.range 4).map fun i => if i = w then v.toNat else (old.map (lwlWord · i)).getD 0
  match lwlOf ws with
  | some e => { s with hl := { s.hl with lwl := tput n e s.hl.lwl } }
  | none => { s with hl := { s.hl with lwl := tdel n s.hl.lwl } }

/-- The stored word of a register. -/
def stored (s : State) (h : RegHit) (a : Nat) : Word :=
  if h.unit = .hl ∧ 0x1000 ≤ h.row.base ∧ h.row.base < 0x1010 then s.regView h a else s.cfg (regHome h a)

/-- A register takes a value, with the effect of that value on its unit. -/
def regSet (s : State) (h : RegHit) (a : Nat) (w : Word) : State :=
  let b := h.row.base
  let i := h.idx.getD 0 0
  match h.unit with
  | .round => if b = 0 then s.roundSet w else s.setCfg a w
  | .lode => if b = 0 then s.lodeApply h.inst w else s.setCfg a w
  | .sump => if b = 0x100 then (s.setSump { s.sump with drill := w.getLsbD 0 }).setCfg a w else s.setCfg a w
  | .heron => if b = 0x410 then s.logSelect w else s.setCfg a w
  | .hl => if 0x1000 ≤ b ∧ b < 0x1010 then s.lwlPut i ((b - 0x1000) / 4) w else s.setCfg a w
  | .sc => if b = 0x40 ∨ b = 0x44 then s.setBucket h.inst i (decide (b = 0x44)) w else s.setCfg a w
  | .fab =>
    let s := s.setCfg (regHome h a) w
    if b = 0x40 then
      let k := 8 * h.inst + i
      { s with fab := { s.fab with txtok := tset (fun _ => 0) s.fab.txtok k (min (tget (fun _ => 0) s.fab.txtok k) (bitsOf w.toNat 31 16)) } }
    else s
  | _ => s.setCfg (regHome h a) w

/-! ### Register parity (R605) -/

/-- Whether a slot's unit is without power (R606): only the always-on units have it before step 3 of start-up is over. -/
def unitOff (s : State) (slot : Nat) : Bool := (unitOfSlot slot).isSome && decide (6 ≤ slot) && !s.uncoreOn

/-- What a mismatch leaves in the RF unit. -/
def parityNote (s : State) (a : Nat) : State :=
  (s.setCfg Reg.RF_PAR_ERR (BitVec.ofNat 32 (2 ^ 31 + a))).bump Reg.RF_PAR_CNT

/-- A mismatch is recorded, counted and reported. -/
def parityReport (s : State) (h : RegHit) (a : Nat) : State :=
  (s.parityNote a).raise h.source 0x702 none 5 a (a % 0x100000 % 65536)

/-- A register's parity fails, its fields holding what its shadow copy holds (R568). -/
def parityForced (s : State) (h : RegHit) (a : Nat) : State :=
  let s := s.parityNote a
  if s.reg.bad.any fun e => decide (e.1 = a) then s
  else { s with reg := { s.reg with bad := s.reg.bad ++ [(a, s.stored h a)] } }

/-- Bits of a register's configuration fields flip. -/
def parityFlip (s : State) (h : RegHit) (a : Nat) (bits : Word) : State :=
  let old := s.stored h a
  let s := s.regSet h a (old ^^^ bits)
  let odd := decide (((List.range 32).filter fun i => bits.getLsbD i).length % 2 = 1)
  if odd && s.reg.bad.all (fun e => decide (e.1 ≠ a)) then { s with reg := { s.reg with bad := s.reg.bad ++ [(a, old)] } } else s

/-- The parity of a register is checked, `upset` being the bits that have flipped since the last check. A register whose
parity fails stays so until it is restored. -/
def parityCheck (s : State) (a : Nat) (upset : Word) : State :=
  match regAt a with
  | none => s
  | some h =>
    let bits := upset &&& h.config
    let s := if bits = 0#32 then s else s.parityFlip h a bits
    if s.reg.bad.any fun e => decide (e.1 = a) then s.parityReport h a else s

/-- The restore of step 3: fields that Bittern or Heron writes come from the shadow copy, every other configuration field
from its reset value. -/
def parityRestore (s : State) (a : Nat) (shadow : Word) : State :=
  match regAt a with
  | none => s
  | some h =>
    let f := h.shadowed
    let w := (s.stored h a &&& ~~~ h.config) ||| (shadow &&& f) ||| (regReset a &&& h.config &&& ~~~ f)
    { s with reg := { s.reg with bad := s.reg.bad.filter fun e => decide (e.1 ≠ a) } }.regSet h a w

end State

/-- PARITY_SWEEP: every register of every powered unit is checked; `upsets` names those in which bits have flipped. -/
def execParitySweep (upsets : List (BitVec 28 × Word)) (s : State) : Res :=
  let on (a : Nat) : Bool := !s.unitOff (a / 0x100000)
  let hit := upsets.filter fun e => on e.1.toNat
  let still := s.reg.bad.filter fun e => on e.1 && hit.all fun u => decide (u.1.toNat ≠ e.1)
  let s := hit.foldl (fun s e => s.parityCheck e.1.toNat e.2) s
  done (still.foldl (fun s e => s.parityCheck e.1 0#32) s)

/-- PARITY_RESTORE: Bittern restores a register whose parity has failed. -/
def execParityRestore (addr : BitVec 28) (s : State) : Res :=
  match s.reg.bad.find? fun e => decide (e.1 = addr.toNat) with
  | none => done s
  | some e => when s.bitternUp (fun s => s.parityRestore e.1 e.2) s

end Sys2Proof.Machine
end

