-- ==== Sys2Proof/Machine/Force.lean ====
section
/-!
DEFINITION. Forced faults: R555, R558, R567, R568. A kind whose reaction needs what FORCE_ADDR does not name (a lane, a
packet, a rail) has its counts and its report alone.
-/
namespace Sys2Proof.Machine

/-- Whether a source is defined (R555) and raises a kind (R558). -/
def raisesKind (src kind : Nat) : Bool :=
  let region := src / 2048 % 8
  let core := src / 64 % 32
  let unit := src % 64
  match srcLevel src with
  | 0 => decide (region < 4 ∧ core < 26 ∧ unit < 8) && decide (kind ∈ [0x001, 0x002, 0x012])
  | 1 =>
    decide (region < 4 ∧ core < 26) && decide (kind ∈ match unit with
      | 0 => [0x010, 0x011] | 1 => [0x013, 0x014] | 2 => [0x015, 0x016] | 3 => [0x017] | _ => [])
  | 2 =>
    decide (region < 4 ∧ core = 0 ∧ unit < 20) && decide (kind ∈ 0x702 :: match unit with
      | 0 => [0x110, 0x111, 0x112, 0x113] | 1 => [0x200, 0x201, 0x202, 0x203, 0x204]
      | 2 | 3 => [0x100, 0x101, 0x102, 0x103, 0x104, 0x105] | 4 | 5 | 6 | 7 => [0x400, 0x401]
      | 12 => [0x120, 0x121, 0x122] | 13 => [0x402, 0x403] | _ => [])
  | _ =>
    decide (region = 7 ∧ core = 0) && (decide (kind ∈ match unit with
        | 0 => [0x300, 0x301] | 1 => [0x302, 0x303, 0x304] | 2 | 3 | 4 | 5 => [0x700] | 6 => [0x604, 0x701]
        | 7 => [0x7F0, 0x7F1, 0x7F2, 0x7F3, 0x7F4, 0x7F5, 0x7F6] | 8 => [0x703, 0x704]
        | 9 => [0x500, 0x501, 0x502, 0x503, 0x504, 0x505, 0x506] | 12 => [0x600, 0x601] | 13 => [0x602, 0x603] | _ => [])
      || decide (kind = 0x702 ∧ unit ∈ [0, 1, 6, 7, 8, 9, 10, 11, 14, 15]))

namespace State

/-- A context is suspended with cause POISON where a core runs one. -/
def poisonCore (s : State) (c : Nat) : State :=
  match (s.core c).ctx with
  | some x => s.suspend x .poison 0 ((s.core c).lcore.getD 0)
  | none => s

/-- Engine kinds: the output of the trick that runs is written poisoned, and the context is suspended. -/
def forceEngine (s : State) (c e : Nat) : State :=
  let k := s.core c
  let s := match k.queue e with
    | t :: rest =>
      match t.running with
      | some r =>
        let k : Core := r.wr.foldl (fun (k : Core) (w : StoreWr) => k.spoil w.off w.data.length) k
        s.setCore c (k.setQueue e ({ t with running := some { r with wr := [] } } :: rest))
      | none => s
    | [] => s
  s.poisonCore c

/-- A core cache's line at an address: 1 DPA, 2 HPA. -/
def forceCache (s : State) (c atype addr : Nat) (double : Bool) : State :=
  let line := if atype = 2 then hostName (addr / 128) else addr / 128
  match (s.core c).ccKey line with
  | none => s
  | some i =>
    if h : i < 4096 then
      if double then
        match tfind (s.core c).cc i with
        | some l =>
          if l.st = .m then s.ccErr c (⟨i, h⟩, .double)
          else (s.bump (Reg.CSTORE_CC_UE_CNT (c / 26) (c % 26))).ccReplace c i
        | none => s
      else s.ccErr c (⟨i, h⟩, .single)
    else s

/-- A slice's line at an address. -/
def forceSlice (s : State) (line : Nat) (double : Bool) : State :=
  match s.sKey line, s.sLine line with
  | some i, some l =>
    if double then ((s.bump (Reg.SC_UE_CNT (homeOf line))).sPut i { l with poison := if l.dirty then 3 else l.poison }).sEvict i
    else s.bump (Reg.SC_CE_CNT (homeOf line))
  | _, _ => s

/-- HBM kinds at a stack's controller. -/
def forceHbm (s : State) (k kind atype addr : Nat) : State :=
  let line := addr / 128
  let here := decide (atype = 1) && populated addr && decide (stackOf line = k)
  match kind with
  | 0x100 => if here then s.hbmCe line none else s
  | 0x101 => if here then s.hbmUe line (addr / 64 % 2) none else s
  | 0x102 =>
    if here then (s.bump (Reg.HBMC_PAR_FAIL_CNT k)).setCfg (Reg.HBMC_ERR_ADDR k) (BitVec.ofNat 32 (2 ^ 31 + 2 ^ 29 + line % 2 ^ 29)) else s
  | 0x104 => s.setHctl k { (s.ctl k) with state := .lost }
  | 0x105 =>
    let r := k / 2
    ((List.range 64).filter fun x => (List.range 24).any fun i => bitOf (s.context x).cores (24 * r + i)).foldl (fun s x =>
      let s := s.suspend x .thermal
      if .thermal ∈ (s.context x).causes ∧ r ∉ (s.context x).thermal then
        s.modCtx x fun c => { c with thermal := c.thermal ++ [r] }
      else s) s
  | _ => s

/-- Region kinds. -/
def forceRegion (s : State) (r unit kind atype addr : Nat) : State :=
  match kind with
  | 0x110 => if atype = 1 ∧ homeOf (addr / 128) = r then s.forceSlice (addr / 128) false else s
  | 0x111 => if atype = 1 ∧ homeOf (addr / 128) = r then s.forceSlice (addr / 128) true else s
  | 0x120 => if atype = 6 ∧ addr < 8192 then s.pegError (8192 * r + addr) false else s
  | 0x121 => if atype = 6 ∧ addr < 8192 then s.pegError (8192 * r + addr) true else s
  | 0x122 => s.bump (Reg.PEG_RMT_DROP_CNT r)
  | 0x200 => (s.bump (Reg.DIR_SNP_TO_CNT r)).fenceTrigger (26 * r + addr)
  | 0x202 => s.bump (Reg.DIR_STALE_CNT r)
  | 0x203 => s.fenceTrigger (26 * r + addr)
  | 0x400 => let l := 4 * r + unit - 4; if s.lodeLit l then s.drawn.quarantine l (1 + s.draw 5) else s
  | 0x401 => s.bump (Reg.LODE_NARROW_CNT (4 * r + unit - 4))
  | 0x402 => s.bump (Reg.FAB_STALE_CNT r)
  | 0x403 => if atype = 6 ∧ addr / 1024 = r then s.connBreak addr 3 else s
  | _ => s.forceHbm (2 * r + unit - 2) kind atype addr

/-- Kinds of Sedge (R615 to R630). A failed record is a free choice of the fabric key, DevID and the owner anchor. -/
def forceSedge (s : State) (kind : Nat) : State :=
  let t := s.drawn
  match kind with
  | 0x7F0 | 0x7F1 => t.sedgeError kind (s.draw 256)
  | 0x7F3 =>
    match s.draw 3 with
    | 0 => t.setSedge { t.sedge with fabKey := 0 }
    | 1 => let u := t.drawn.sedgeError kind (t.draw 256); u.setSedge { u.sedge with devid := false }
    | _ => let u := t.drawn.sedgeError kind (t.draw 256); u.setSedge { u.sedge with owner := false }
  | 0x7F4 => s.bump Reg.SEDGE_AUTH_FAIL_CNT
  | 0x7F6 => let i := s.draw 9; if (s.stream i).used then (t.setStream i {}).streamLost i else t
  | _ => s

/-- Device kinds. -/
def forceDevice (s : State) (unit kind atype addr : Nat) : State :=
  let r := s.round
  match kind with
  | 0x300 => if atype = 2 then s.dcParity (addr / 64) .data else s
  | 0x302 => s.bump Reg.HL_CTO_CNT
  | 0x303 => if s.hl.attach ≠ .detached then s.abandon else s
  | 0x304 => if s.hl.up then s.linkEvent (.retrain (BitVec.ofNat 4 s.hl.mods).toFin) else s
  | 0x500 =>
    if r.state = .locked then (s.setRound { r with state := .holdover, held := 0, away := 0, lock := 0 }).bump Reg.ROUND_HOLD_CNT else s
  | 0x501 => if r.state = .locked ∨ r.state = .holdover then (s.setRound { r with state := .unaligned }).unalignedEnd else s
  | 0x502 => s.bump Reg.ROUND_STALE_CNT
  | 0x505 => if r.state = .master then s.setRound { r with state := .acquire, lock := 0, noGood := 0, act := s.srcLode } else s
  | 0x604 => ((s.setHeron { s.heron with full := true }).logRegs).send (.platform .repairFull)
  | 0x700 => if s.vci.up ∧ unit - 2 ∉ s.vci.dead then s.bitternCore (unit - 2) else s
  | 0x701 => if s.heronRuns then s.miscompare else s
  | _ => s.forceSedge kind

/-- Core kinds. -/
def forceCore (s : State) (c kind atype addr : Nat) : State :=
  match kind with
  | 0x010 => if atype = 4 then s.storeErr c { word := addr / 8, double := false, syn := 0#8 } else s
  | 0x011 => if atype = 4 then s.storeErr c { word := addr / 8, double := true, syn := 0#8 } else s
  | 0x013 => s.forceCache c atype addr false
  | 0x014 => s.forceCache c atype addr true
  | 0x015 => s.fenceTrigger c
  | 0x016 => s.drawn.seqFault c (s.draw 256) (s.core c).row
  | _ => s.poisonCore c

/-- The effect of a kind at its source, as when it is detected. -/
def forceEffect (s : State) (src kind atype addr : Nat) : State :=
  let unit := src % 64
  if kind = 0x702 then
    match if atype = 5 ∧ addr < 2 ^ 28 then regAt addr else none with
    | some h => if h.source = src ∧ h.config ≠ 0#32 then s.parityForced h addr else s
    | none => s
  else
    match srcLevel src with
    | 0 => s.forceEngine (srcCoreOf src) unit
    | 1 => s.forceCore (srcCoreOf src) kind atype addr
    | 2 => s.forceRegion (srcRegionOf src) unit kind atype addr
    | _ => s.forceDevice unit kind atype addr

/-- A forced fault (R568): its effect, and one message with FORCED set and no detector data in place of the source's own. -/
def forceFault (s : State) (src kind atype addr : Nat) : State :=
  let ctx := if srcLevel src < 2 then (s.core (srcCoreOf src)).ctx else none
  let n := s.sump.flight.length
  let m := s.sump.lines.length
  let own (e : FaultMsg) : Bool := decide (e.src = src ∧ e.kind = kind)
  let t := s.forceEffect src kind atype addr
  let cut (k : Nat) (l : List FaultMsg) : List FaultMsg := l.take k ++ (l.drop k).filter fun e => !own e
  (t.setSump { t.sump with flight := cut n t.sump.flight, lines := cut m t.sump.lines }).report
    ⟨src, kind, kindClass kind, kindClass kind, true, ctx, atype, false, addr, 0⟩

/-- Whether force writes take effect (R567). -/
def forcing (s : State) : Bool := s.sump.factory || s.sump.drill

/-- A write of `SUMP.FORCE_GO` (R567, R568). -/
def forceGo (s : State) : State :=
  if !s.forcing then s.bump Reg.SUMP_FORCE_REJ_CNT
  else
    let sel := (s.cfg Reg.SUMP_FORCE_SEL).toNat
    let hi := (s.cfg Reg.SUMP_FORCE_ADDR_HI).toNat
    let addr := (s.cfg Reg.SUMP_FORCE_ADDR_LO).toNat + bitsOf hi 19 0 * 2 ^ 32
    let src := bitsOf sel 31 16
    let kind := bitsOf sel 11 0
    let atype := bitsOf hi 23 21
    if raisesKind src kind && (decide (kind ≠ 0x200 ∧ kind ≠ 0x203) || decide (atype = 6 ∧ addr ≤ 25)) then
      ((s.setSump { s.sump with forceErr := false }).bump Reg.SUMP_FORCE_CNT).forceFault src kind atype addr
    else s.setSump { s.sump with forceErr := true }

end State

end Sys2Proof.Machine
end

