-- ==== Sys2Proof/Machine/RegAccess.lean ====
section
/-!
DEFINITION. Accesses to the register file and to the other windows of the host: R447, R470, R471, R597 to R607, and the
rows of single registers.
-/
namespace Sys2Proof.Machine

/-- A guard latch or a capture: its unit's slot and its path (R598, R601). -/
def pathKey (a : Nat) (p : Path) : Nat := 2 * (a / 0x100000) + (match p with | .host => 0 | .fw => 1)

/-- The other words of the group that a capturing word heads (R598). -/
def captured (h : RegHit) (a : Nat) : List Nat :=
  let b := h.row.base
  let n := match h.unit with
    | .round => if b = 0x20 ∨ b = 0x110 then 2 else 0
    | .peg => if b = 0x10000 then 2 else 0
    | .ce | .hl => if b = 0x1000 then 3 else 0
    | .fab => if b = 0x800 then 3 else if b = 0x10000 then 7 else 0
    | .trc => if b = 0x8000 ∧ h.idx.getD 1 0 = 0 then 3 else 0
    | _ => 0
  (List.range n).map fun i =>
    if h.unit = .round then (if i = 0 then a + 4 else a + 8) else a + 4 * (i + 1)

namespace State

/-- An access is recorded (R606, R610): 0 size or alignment, 1 host write to a reserved register, 2 unit powered off,
3 guard failure. -/
def accErr (s : State) (kind a : Nat) : State := s.setCfg Reg.RF_ACC_ERR (BitVec.ofNat 32 (2 ^ 31 + kind * 2 ^ 28 + a))

/-! ### Guarded writes (R601) -/

def setLatch (s : State) (k : Nat) (l : Option Latch) : State :=
  { s with reg := { s.reg with latch := match l with
    | some l => tput k l s.reg.latch
    | none => tdel k s.reg.latch } }

/-- A guard failure on the W2 register at `a`: it commits nothing and empties the latch. -/
def guardFail (s : State) (k a : Nat) : State := ((s.setLatch k none).bump Reg.RF_W2_FAIL_CNT).accErr 3 a

/-- Step 1: a write to a W2 register. A pending pair on another register of the unit ends as a failure. -/
def guardLoad (s : State) (p : Path) (a : Nat) (w : Word) : State :=
  let k := pathKey a p
  let s := match tfind s.reg.latch k with
    | some l => if l.addr ≠ a then s.guardFail k l.addr else s
    | none => s
  s.setLatch k (some ⟨a, w⟩)

/-- A guard passes: the unit's own checks, and the commit (R59, R408, R567, R569, R579). -/
def guardPass (s : State) (h : RegHit) (a : Nat) (v : Word) : State :=
  let b := h.row.base
  match h.unit with
  | .round => s.roundWrite v
  | .lode => if b = 0 then (s.lodeCtl h.inst v).2 else s.lodeRelease h.inst v
  | .rst => if v.getLsbD 0 then s.blockSource 4 else s
  | .sump =>
    if b = 0x10 then s.setCfg a v
    else if b = 0x100 then s.drillSet (v.getLsbD 0)
    else if s.forcing then s.setCfg a (v &&& h.row.maskOf (· == .W2))
    else s.bump Reg.SUMP_FORCE_REJ_CNT
  | _ => s

/-- Steps 2 and 3: a write to the complement word of the W2 register at `a`. -/
def guardJudge (s : State) (p : Path) (h : RegHit) (a : Nat) (w : Word) : State :=
  let k := pathKey a p
  match tfind s.reg.latch k with
  | some l => if l.addr = a ∧ w = ~~~ l.value then (s.setLatch k none).guardPass h a l.value else s.guardFail k a
  | none => s.guardFail k a

/-! ### Writes (R597 to R606) -/

/-- A value for the fields of `m` of a register: what its map refuses changes nothing (R58, R253, R638), and hardware takes
what its map says (R301, R306). -/
def fieldWrite (s : State) (p : Path) (h : RegHit) (a : Nat) (m w : Word) : State :=
  let b := h.row.base
  let v := (s.stored h a &&& ~~~ m) ||| (w &&& m)
  let n := v.toNat
  let t := s.regSet h a v
  match h.unit with
  | .round => if b = 0x30 ∧ s.bit Reg.ROUND_CTL 0 then s else t
  | .hbmc => if b = 0x20 ∧ bitsOf n 31 24 ≤ bitsOf n 23 16 + 5 then s else t
  | .dc =>
    if b = 0x20 ∧ bitsOf n 15 0 = 0 then s.setCfg a 1#32
    else if b = 0x100 ∧ p = .fw then
      if s.dc.op.isSome then s
      else if bitsOf n 1 0 = 0 then t
      else t.dcOpStart (bitsOf n 1 0) (bitOf n 4) ((t.cfg Reg.DC_MAINT_A0).toNat + t.fld Reg.DC_MAINT_A1 13 0 * 2 ^ 32)
        (t.fld Reg.DC_MAINT_SW 13 0) (t.fld Reg.DC_MAINT_CNT 14 0) (t.fld Reg.DC_MAINT_SW 31 16) none
    else t
  | .trc =>
    if b = 0x18 then
      let r := h.inst
      let u := tget (fun _ => ({} : TrcSt)) s.trc r
      let rd := s.fld (Reg.TRC_RD r) 13 0
      if (bitsOf n 13 0 + 16384 - rd) % 16384 ≤ u.fill rd then { t with trc := tput r { u with wrapped := false } t.trc } else s
    else t
  | _ => t

/-- A write that needs no guard, by the access codes of R599. -/
def plainWrite (s : State) (p : Path) (h : RegHit) (a : Nat) (w : Word) : State :=
  let b := h.row.base
  let rwm := h.row.maskOf (· == .RWM)
  if h.unit = .sump ∧ b = 0x20 then s.sumpAck w
  else if h.unit = .sump ∧ b = 0x120 then (if w.getLsbD 0 || !s.forcing then s.forceGo else s)
  else if h.unit = .sump ∧ (b = 0x118 ∨ b = 0x11C) ∧ !s.forcing then s.bump Reg.SUMP_FORCE_REJ_CNT
  else if h.row.fields.any fun f => f.acc == .WO then s.snapSlot (a / 0x100000)
  else if rwm ≠ 0#32 then
    let m := (w >>> 16) &&& rwm
    s.setCfg a ((s.cfg a &&& ~~~ m) ||| (w &&& m))
  else
    let m := h.row.maskOf (· == .RW) ||| (match p with | .host => 0#32 | .fw => h.fwMask)
    if m = 0#32 then s
    else
      let f := match p with | .host => 0#32 | .fw => m
      let fresh (e : Nat × Word) : Nat × Word := if e.1 = a then (a, (e.2 &&& ~~~ f) ||| (w &&& f)) else e
      { s with reg := { s.reg with bad := s.reg.bad.map fresh } }.fieldWrite p h a m w

/-- A host write to a register that its chapter reserves to Bittern or Heron (R597). -/
def hostDenied (s : State) (a : Nat) : State := (s.bump Reg.RF_HOSTDENY_CNT).accErr 1 a

/-- An access to a unit without power (R606). -/
def offAccess (s : State) (a : Nat) : State := (s.bump Reg.RF_OFF_CNT).accErr 2 a

/-- A write of one word at an offset of BAR2. -/
def regWrite (s : State) (p : Path) (a : Nat) (w : Word) : State :=
  if s.unitOff (a / 0x100000) then s.offAccess a
  else
    match regAt a with
    | some h =>
      if p = .host ∧ h.reserved then s.hostDenied a
      else if h.w2 then s.guardLoad p a w
      else s.plainWrite p h a w
    | none =>
      match complementOf a with
      | some h => if p = .host ∧ h.reserved then s.hostDenied a else s.guardJudge p h (a - 4) w
      | none => s

/-! ### Reads (R598, R599, R605) -/

/-- A read of one word at an offset of BAR2; `upset`: the bits that have flipped in the register since its last check, or,
for an entry of the trace buffer, that it is uncorrectable (R637). -/
def readWord (s : State) (p : Path) (a : Nat) (upset : Word) : Word × State :=
  if s.unitOff (a / 0x100000) then (0#32, s.offAccess a)
  else
    let s := s.parityCheck a upset
    let k := pathKey a p
    match regAt a with
    | none => (s.regRead a, s)
    | some h =>
      let others := captured h a
      let t := if h.unit = .lode ∧ h.row.base = 0x100 then s.drawn else s
      if others.isEmpty then
        match (tget (fun _ => []) s.reg.capt k).find? fun e => decide (e.1 = a) with
        | some e => (e.2, s)
        | none => (s.regRead a, t)
      else
        let empty := decide (h.unit = .trc ∧ upset ≠ 0#32)
        let show_ (a : Nat) : Word := if empty then 0#32 else s.regRead a
        (show_ a, { s with reg := { s.reg with capt := tput k (others.map fun o => (o, show_ o)) s.reg.capt } })

/-! ### BAR0 and BAR4 (R447, R459, R470, R471, R607) -/

/-- A word of BAR0. -/
def bar0View (s : State) (o : Nat) : Word :=
  let v := s.vci
  let page := o / 0x1000 % 256
  if o < 0x100000 then (if o % 0x1000 = 0 then BitVec.ofNat 32 (tget (fun _ => 0) v.dbSq page) else 0#32)
  else if o < 0x200000 then (if o % 0x1000 = 0 then BitVec.ofNat 32 (tget (fun _ => 0) v.dbCq page) else 0#32)
  else if o < 0x200100 then tget (fun _ => 0#32) v.mslot ((o - 0x200000) / 4)
  else if o = 0x200104 then BitVec.ofNat 32 (b2n v.mbusy * 2 ^ 31 + b2n v.mdone)
  else if o = 0x200108 then v.dbErr
  else if 0x200200 ≤ o ∧ o < 0x200220 then tget (fun _ => 0#32) v.mcpl ((o - 0x200200) / 4)
  else if 0x300000 ≤ o ∧ o < 0x300100 then BitVec.ofNat 32 (ofLe (((s.capability none).drop (o - 0x300000)).take 4))
  else 0#32

/-- A write of a word of BAR0, on an IDE stream. -/
def bar0Write (s : State) (o : Nat) (w : Word) (stream : Nat) : State :=
  let page := o / 0x1000 % 256
  if o < 0x100000 then (if o % 0x1000 = 0 then s.sqDb page (w.toNat % 65536) stream else s)
  else if o < 0x200000 then (if o % 0x1000 = 0 then s.cqDb page (w.toNat % 65536) stream else s)
  else if o < 0x200100 then
    (if s.vci.mbusy then s
      else { s with vci := { s.vci with mslot := tset (fun _ => 0#32) s.vci.mslot ((o - 0x200000) / 4) w } })
  else if o = 0x200100 then (if w.getLsbD 0 && s.vci.up then s.mboxGo else s)
  else s

/-- A word of BAR4: the component registers are those of CXL 3.1, which the spec does not give, and read free values. -/
def bar4Read (s : State) (o : Nat) : Word × State :=
  if o < 0x10000 then (BitVec.ofNat 32 (s.draw (2 ^ 32)), s.drawn)
  else if o < 0x18000 then (tget msixReset s.hl.msix ((o - 0x10000) / 4), s)
  else if o < 0x18100 then (BitVec.ofNat 32 (bitsWhere 32 fun b => decide (8 * (o - 0x18000) + b ∈ s.hl.pendIrq)), s)
  else (0#32, s)

/-- A write of a word of the MSI-X table; messages that its mask bit held back are sent. -/
def bar4Write (s : State) (o : Nat) (w : Word) : State :=
  if 0x10000 ≤ o ∧ o < 0x18000 then
    let i := (o - 0x10000) / 4
    let w := if i % 4 = 3 then w &&& 1#32 else w
    { s with hl := { s.hl with msix := tset msixReset s.hl.msix i w } }.flushIrqs
  else s

/-! ### Accesses -/

/-- Whether requests of a path arrive: the host's only after READY, and not in the fatal safe state (R461, R587, R606). -/
def pathOpen (s : State) : Path → Bool
  | .host => s.hostOpen && s.rst.ready
  | .fw => true

/-- A size or alignment that R447 forbids: the host's write is an advisory error, and an access to BAR2 is counted and
recorded. -/
def badAccess (s : State) (p : Path) (a : Nat) (write : Bool) : State :=
  if p = .fw then s
  else
    let s := if a < 0x10000000 then (s.bump Reg.RF_BADSIZE_CNT).accErr 0 a else s
    if write then s.confRaise 0x44 13 else s

/-- One or two aligned words. -/
def goodSize (a n : Nat) : Bool := decide (a % 4 = 0) && decide (n = 4 ∨ n = 8)

/-- A write of a word: BAR2 from 0, BAR4 from 0x1000_0000, BAR0 from 0x2000_0000 in the model's numbering. -/
def barWrite (s : State) (p : Path) (a : Nat) (w : Word) (stream : Nat) : State :=
  if a < 0x10000000 then s.regWrite p a w
  else if p = .fw then s
  else if a < 0x20000000 then s.bar4Write (a - 0x10000000) w
  else s.bar0Write (a - 0x20000000) w stream

/-- A read of a word, answered outward. -/
def barRead (s : State) (p : Path) (a : Nat) (upset : Word) : State :=
  let r := if a < 0x10000000 then s.readWord p a upset
    else if p = .fw then (0#32, s)
    else if a < 0x20000000 then s.bar4Read (a - 0x10000000)
    else (s.bar0View (a - 0x20000000), s)
  r.2.send (.readData p a r.1)

end State

/-! ### The rows -/

/-- REGISTER_WRITE: a write of one or two words, the lower address first. -/
def execRegisterWrite (path : Path) (addr : BitVec 30) (data : List Byte) (stream : Fin 9) (s : State) : Res :=
  let a := addr.toNat
  when (s.pathOpen path) (fun s =>
    if State.goodSize a data.length then
      (List.range (data.length / 4)).foldl (fun s i =>
        s.barWrite path (a + 4 * i) (BitVec.ofNat 32 (ofLe ((data.drop (4 * i)).take 4))) stream) s
    else s.badAccess path a true) s

/-- CAPTURE_READ: a read of one or two words; a read of a capturing word freezes the others of its group for the path. -/
def execCaptureRead (path : Path) (addr : BitVec 30) (bytes : Nat) (upset : Word) (s : State) : Res :=
  let a := addr.toNat
  when (s.pathOpen path) (fun s =>
    if State.goodSize a bytes then
      (List.range (bytes / 4)).foldl (fun s i => s.barRead path (a + 4 * i) (if i = 0 then upset else 0#32)) s
    else s.badAccess path a false) s

/-- GUARD_LATCH_WRITE: a write to a W2 register loads the latch of its path. -/
def execGuardLatchWrite (path : Path) (addr : BitVec 28) (value : Word) (s : State) : Res :=
  when (s.pathOpen path && (regAt addr.toNat).any (·.w2)) (fun s => s.regWrite path addr.toNat value) s

/-- GUARD_WINDOW_EXPIRY: 1,000 ns have passed since the latch was loaded, without a complement. -/
def execGuardWindowExpiry (path : Path) (slot : Byte) (s : State) : Res :=
  let k := pathKey (slot.toNat * 0x100000) path
  match tfind s.reg.latch k with
  | some l => done (s.guardFail k l.addr)
  | none => done s

/-- ROUND_CTL: a write of the complement word of `ROUND.CTL`, which judges and commits the latched value (R59). -/
def execRoundCtl (path : Path) (comp : Word) (s : State) : Res :=
  when (s.pathOpen path) (fun s => s.regWrite path (Reg.ROUND_CTL + 4) comp) s

/-- SOFTWARE_RESET: the guarded pair that writes 1 into `RST.SWREQ.REQ` (R579). -/
def execSoftwareReset (path : Path) (s : State) : Res :=
  when (s.pathOpen path) (fun s => (s.regWrite path Reg.RST_SWREQ 1#32).regWrite path (Reg.RST_SWREQ + 4) (~~~ 1#32)) s

/-- SNAP: a write to a unit's SNAP register (R603). -/
def execSnap (path : Path) (slot : Byte) (s : State) : Res :=
  let n := slot.toNat
  let off := if n = 4 then 0x1F0 else if n = 8 then 0xFF0 else 0x7F0
  when (s.pathOpen path) (fun s => s.regWrite path (n * 0x100000 + off) 0#32) s

/-- ARITH_FLAGS_WRITE: a masked write of a flag word, 0 ME, 1 VE, 2 TU, 3 SE (R116, R600). -/
def execArithFlagsWrite (path : Path) (core : Fin 104) (engine : Fin 4) (value : Word) (s : State) : Res :=
  when (s.pathOpen path) (fun s => s.regWrite path (Reg.ARITH_FLAGS_ME (core / 26) (core % 26) + 4 * engine) value) s

/-- TRC_RD_WRITE (R638). -/
def execTrcRdWrite (path : Path) (region : Fin 4) (value : Word) (s : State) : Res :=
  when (s.pathOpen path) (fun s => s.regWrite path (Reg.TRC_RD region) value) s

/-- FORCE_GO: a write of 1 into `SUMP.FORCE_GO` (R568). -/
def execForceGo (path : Path) (s : State) : Res := when (s.pathOpen path) (fun s => s.regWrite path Reg.SUMP_FORCE_GO 1#32) s

end Sys2Proof.Machine
end

