-- ==== Sys2Proof/Machine/Debug.lean ====
section
/-!
DEFINITION. The test access port and the debug port: R640 to R642.
-/
namespace Sys2Proof.Machine

namespace State

/-- Whether the instructions marked "unlocked" are available (R640). -/
def testOpen (s : State) : Bool := s.sedge.unlocked || s.sump.factory

/-- An instruction is in force. -/
def tapIr (s : State) (ir : Nat) : State := { s with tap := { s.tap with ir := ir } }

/-- BYPASS is in force; its bit captures 0, as IEEE 1149.1 has it. -/
def tapBypass (s : State) : State := { s with tap := { s.tap with ir := 0xFF, bypass := false } }

/-- An instruction marked "unlocked": in a locked block it selects BYPASS, and the refusal is counted. -/
def tapOpen (s : State) (ir : Nat) (f : State → State) : State :=
  if s.testOpen then f (s.tapIr ir)
  else (s.setSedge { s.sedge with refusals := min 255 (s.sedge.refusals + 1) }).tapBypass

/-- The word that DBG_STATUS shows (R640). -/
def dbgStatus (s : State) : Nat := b2n s.sedge.unlocked + 2 * b2n s.sump.factory + 4 * b2n s.sedge.armed + 256 * s.sedge.refusals

/-- One 32-bit access of the debug port on the firmware path (R642): the register file, where SEDGE only reads, and populated
HBM. Core store reads zero; any other address is refused as R226 has it. -/
def dbgAccess (s : State) (dpa : Nat) (write : Bool) (data : Word) : Word × State :=
  if inRegFile dpa then
    let a := dpa - 0x8100000000
    if !write then s.readWord .fw a 0#32
    else if a / 0x100000 = 5 then (0#32, s)
    else (0#32, s.regWrite .fw a data)
  else if populated dpa then
    let line := dpa / 128
    if write then (0#32, s.ncWrite line 0 8 (dpa % 128) (leBytes 4 data.toNat))
    else
      let d := s.ncRead line 0 8
      if d.1.2 then (BitVec.ofNat 32 (d.2.draw (2 ^ 32)), d.2.drawn)
      else (BitVec.ofNat 32 (ofLe ((d.1.1.drop (dpa % 128)).take 4)), d.2)
  else if (coreStoreAt dpa).isSome then (0#32, s)
  else (0#32, s.memHole .bittern none dpa false)

end State

/-- EXTEST: the boundary cells drive the pins. -/
def execExtest (data : List Bool) (s : State) : Res :=
  done (s.tapOpen 0x00 fun s => { s with tap := { s.tap with scan := data } })

/-- IDCODE. -/
def execIdcode (s : State) : Res := done ((s.tapIr 0x01).send (.tap 32 0x1A00476D))

/-- SAMPLE/PRELOAD: the boundary cells are loaded. -/
def execSamplePreload (data : List Bool) (s : State) : Res :=
  done ({ (s.tapIr 0x02) with tap := { s.tap with ir := 0x02, scan := data } })

/-- DBG_STATUS. -/
def execDbgStatus (s : State) : Res := done ((s.tapIr 0x10).send (.tap 32 s.dbgStatus))

/-- DBG_UNLOCK: while the port is armed, a 1 unlocks it, and Sedge leaves approved mode (R641); otherwise it selects BYPASS. -/
def execDbgUnlock (bit : Bool) (s : State) : Res :=
  done (if s.sedge.armed then
      let s := s.tapIr 0x11
      if bit then ((s.setSedge { s.sedge with unlocked := true, exitDebug := true })).leaveApproved else s
    else s.tapBypass)

/-- DBG_REQ: a 1 asserts the debug reset. -/
def execDbgReq (bit : Bool) (s : State) : Res := done (s.tapOpen 0x12 fun s => if bit then s.blockSource 5 else s)

/-- DBG_MEM: one 32-bit access; the two low address bits are ignored. A line that the memory does not serve now waits. -/
def execDbgMem (dpa : BitVec 40) (write : Bool) (data : Word) (s : State) : Res :=
  let a := dpa.toNat / 4 * 4
  when (!(s.testOpen && populated a) || (!s.sump.fatal && !s.blocked (a / 128))) (fun s =>
    s.tapOpen 0x13 fun s =>
      let r := s.dbgAccess a write data
      r.2.send (.tap 96 (dpa.toNat * 2 ^ 56 + b2n write * 2 ^ 55 + r.1.toNat))) s

/-- BYPASS. -/
def execBypass (s : State) : Res := done s.tapBypass

/-- TAP_RESET: TRST_N resets the TAP controller, which selects IDCODE, and nothing else (R641). -/
def execTapReset (s : State) : Res := done (s.tapIr 0x01)

end Sys2Proof.Machine
end

