-- ==== Sys2Proof/Machine/Dispatch.lean ====
section
/-!
DEFINITION. Dispatch: one arm for each command, each a direct call of its meaning.
-/
namespace Sys2Proof.Machine

/-- The effect of a command on everything but the queue. -/
def exec (i : Instr) (s : State) : Host.Outcome State Fault Refusal :=
  match i with
  | .roundMark lode arrive bad => Sys2Proof.Machine.execRoundMark lode arrive bad s
  | .roundBoundary => Sys2Proof.Machine.execRoundBoundary s
  | .missingMark => Sys2Proof.Machine.execMissingMark s
  | .holdoverLimit => Sys2Proof.Machine.execHoldoverLimit s
  | .standbyTakeover => Sys2Proof.Machine.execStandbyTakeover s
  | .delayExchange t1 => Sys2Proof.Machine.execDelayExchange t1 s
  | .delayReq lode t2 t3 => Sys2Proof.Machine.execDelayReq lode t2 t3 s
  | .delayRsp lode t4 => Sys2Proof.Machine.execDelayRsp lode t4 s
  | .delayRspTimeout lode => Sys2Proof.Machine.execDelayRspTimeout lode s
  | .referenceWindow accepted => Sys2Proof.Machine.execReferenceWindow accepted s
  | .ppsEdge => Sys2Proof.Machine.execPpsEdge s
  | .roundCtl path comp => Sys2Proof.Machine.execRoundCtl path comp s
  | .arithFlagsWrite path core engine value => Sys2Proof.Machine.execArithFlagsWrite path core engine value s
  | .nop core => Sys2Proof.Machine.execNop core s
  | .halt core => Sys2Proof.Machine.execHalt core s
  | .tfence core => Sys2Proof.Machine.execTfence core s
  | .loop core => Sys2Proof.Machine.execLoop core s
  | .endloop core => Sys2Proof.Machine.execEndloop core s
  | .call core => Sys2Proof.Machine.execCall core s
  | .ret core => Sys2Proof.Machine.execRet core s
  | .mm core errs => Sys2Proof.Machine.execMm core errs s
  | .vec core errs => Sys2Proof.Machine.execVec core errs s
  | .tu core errs => Sys2Proof.Machine.execTu core errs s
  | .stageIn core errs => Sys2Proof.Machine.execStageIn core errs s
  | .stageOut core errs => Sys2Proof.Machine.execStageOut core errs s
  | .gather core errs => Sys2Proof.Machine.execGather core errs s
  | .scatter core errs => Sys2Proof.Machine.execScatter core errs s
  | .copyLocal core errs => Sys2Proof.Machine.execCopyLocal core errs s
  | .indexLaneFault core cc fills => Sys2Proof.Machine.execIndexLaneFault core cc fills s
  | .enq core => Sys2Proof.Machine.execEnq core s
  | .pwait core => Sys2Proof.Machine.execPwait core s
  | .psig core => Sys2Proof.Machine.execPsig core s
  | .parm core => Sys2Proof.Machine.execParm core s
  | .preset core => Sys2Proof.Machine.execPreset core s
  | .rwait core => Sys2Proof.Machine.execRwait core s
  | .deadline core => Sys2Proof.Machine.execDeadline core s
  | .phase core => Sys2Proof.Machine.execPhase core s
  | .tmark core => Sys2Proof.Machine.execTmark core s
  | .engineTrickStart core engine errs => Sys2Proof.Machine.execEngineTrickStart core engine errs s
  | .trickComplete core engine fault cc fills => Sys2Proof.Machine.execTrickComplete core engine fault cc fills s
  | .rowCapture core errs => Sys2Proof.Machine.execRowCapture core errs s
  | .halted core => Sys2Proof.Machine.execHalted core s
  | .preemptionBoundary core rows cc fills => Sys2Proof.Machine.execPreemptionBoundary core rows cc fills s
  | .clockStopEntry core => Sys2Proof.Machine.execClockStopEntry core s
  | .clockStopExit core => Sys2Proof.Machine.execClockStopExit core s
  | .coreInitDone core => Sys2Proof.Machine.execCoreInitDone core s
  | .correctingWriteBack core => Sys2Proof.Machine.execCorrectingWriteBack core s
  | .rowRemap core => Sys2Proof.Machine.execRowRemap core s
  | .coreStoreScrub core errs => Sys2Proof.Machine.execCoreStoreScrub core errs s
  | .pegOperations peg n err => Sys2Proof.Machine.execPegOperations peg n err s
  | .pegReadyWake index => Sys2Proof.Machine.execPegReadyWake index s
  | .hbmRequest line req err ctx => Sys2Proof.Machine.execHbmRequest line req err ctx s
  | .hbmRefresh stack => Sys2Proof.Machine.execHbmRefresh stack s
  | .laneRepair stack channel lane spare => Sys2Proof.Machine.execLaneRepair stack channel lane spare s
  | .laneRepairDone stack => Sys2Proof.Machine.execLaneRepairDone stack s
  | .patrolScrub stack err => Sys2Proof.Machine.execPatrolScrub stack err s
  | .sppr stack => Sys2Proof.Machine.execSppr stack s
  | .spprDone stack spare => Sys2Proof.Machine.execSpprDone stack spare s
  | .stackTemperatureRead stack temp => Sys2Proof.Machine.execStackTemperatureRead stack temp s
  | .regulatorPeriod => Sys2Proof.Machine.execRegulatorPeriod s
  | .pageWalk agent ctx dva acc pos prefetch => Sys2Proof.Machine.execPageWalk agent ctx dva acc pos prefetch s
  | .translationFault n => Sys2Proof.Machine.execTranslationFault n s
  | .invalidationMark => Sys2Proof.Machine.execInvalidationMark s
  | .invalidationDrain n => Sys2Proof.Machine.execInvalidationDrain n s
  | .dcRead agent line hint cls err => Sys2Proof.Machine.execDcRead agent line hint cls err s
  | .dcWrite line off bytes owner ctx cls err => Sys2Proof.Machine.execDcWrite line off bytes owner ctx cls err s
  | .zeroLine line cls => Sys2Proof.Machine.execZeroLine line cls s
  | .fillChunk line high data => Sys2Proof.Machine.execFillChunk line high data s
  | .globalObservation line => Sys2Proof.Machine.execGlobalObservation line s
  | .cleanEvictDone line => Sys2Proof.Machine.execCleanEvictDone line s
  | .hostSnpinv line => Sys2Proof.Machine.execHostSnpinv line s
  | .hostSnpdata line => Sys2Proof.Machine.execHostSnpdata line s
  | .hostSnpcur line => Sys2Proof.Machine.execHostSnpcur line s
  | .dcInitSweep => Sys2Proof.Machine.execDcInitSweep s
  | .rds core epoch line hint err => Sys2Proof.Machine.execRds core epoch line hint err s
  | .rdo core epoch line hint off bytes err => Sys2Proof.Machine.execRdo core epoch line hint off bytes err s
  | .ownnd core epoch line hint bytes => Sys2Proof.Machine.execOwnnd core epoch line hint bytes s
  | .upg core epoch line off bytes => Sys2Proof.Machine.execUpg core epoch line off bytes s
  | .dirtyn core epoch line off bytes => Sys2Proof.Machine.execDirtyn core epoch line off bytes s
  | .evc core epoch line => Sys2Proof.Machine.execEvc core epoch line s
  | .wbm core epoch line => Sys2Proof.Machine.execWbm core epoch line s
  | .ncrd agent ctx line hint cls err => Sys2Proof.Machine.execNcrd agent ctx line hint cls err s
  | .ncwr agent ctx line hint cls off bytes => Sys2Proof.Machine.execNcwr agent ctx line hint cls off bytes s
  | .ncat agent ctx line hint cls op wide off cmp value near => Sys2Proof.Machine.execNcat agent ctx line hint cls op wide off cmp value near s
  | .snpinv core line => Sys2Proof.Machine.execSnpinv core line s
  | .snpshr core line => Sys2Proof.Machine.execSnpshr core line s
  | .snpcur core line => Sys2Proof.Machine.execSnpcur core line s
  | .grant core line => Sys2Proof.Machine.execGrant core line s
  | .coherenceAck core epoch line => Sys2Proof.Machine.execCoherenceAck core epoch line s
  | .holdExpiry core line => Sys2Proof.Machine.execHoldExpiry core line s
  | .snoopTimeout core line => Sys2Proof.Machine.execSnoopTimeout core line s
  | .reclaimWalkEnd region => Sys2Proof.Machine.execReclaimWalkEnd region s
  | .listAccept core errs => Sys2Proof.Machine.execListAccept core errs s
  | .listStart engine => Sys2Proof.Machine.execListStart engine s
  | .nopDescriptor engine list => Sys2Proof.Machine.execNopDescriptor engine list s
  | .fenceDescriptor engine list => Sys2Proof.Machine.execFenceDescriptor engine list s
  | .copy engine list chunks fills => Sys2Proof.Machine.execCopy engine list chunks fills s
  | .zero engine list chunks => Sys2Proof.Machine.execZero engine list chunks s
  | .inline engine list => Sys2Proof.Machine.execInline engine list s
  | .atomic engine list fills => Sys2Proof.Machine.execAtomic engine list fills s
  | .convert engine list chunks fills => Sys2Proof.Machine.execConvert engine list chunks fills s
  | .siltLEnc engine list chunks fills => Sys2Proof.Machine.execSiltLEnc engine list chunks fills s
  | .siltLDec engine list chunks fills => Sys2Proof.Machine.execSiltLDec engine list chunks fills s
  | .siltZEnc engine list chunks fills => Sys2Proof.Machine.execSiltZEnc engine list chunks fills s
  | .siltZDec engine list chunks fills => Sys2Proof.Machine.execSiltZDec engine list chunks fills s
  | .siltQEnc engine list chunks fills => Sys2Proof.Machine.execSiltQEnc engine list chunks fills s
  | .siltQDec engine list chunks fills => Sys2Proof.Machine.execSiltQDec engine list chunks fills s
  | .descriptorComplete engine list desc => Sys2Proof.Machine.execDescriptorComplete engine list desc s
  | .probeBurst lode => Sys2Proof.Machine.execProbeBurst lode s
  | .lightDetect lode => Sys2Proof.Machine.execLightDetect lode s
  | .trainTimeout lode => Sys2Proof.Machine.execTrainTimeout lode s
  | .trainInfo lode => Sys2Proof.Machine.execTrainInfo lode s
  | .auth lode msg => Sys2Proof.Machine.execAuth lode msg s
  | .keysInstalled lode => Sys2Proof.Machine.execKeysInstalled lode s
  | .authTimeout lode => Sys2Proof.Machine.execAuthTimeout lode s
  | .dataBlock lode header errs tagOk nakDue slots => Sys2Proof.Machine.execDataBlock lode header errs tagOk nakDue slots s
  | .controlBlock lode header errs tagOk nakDue cctr msgs => Sys2Proof.Machine.execControlBlock lode header errs tagOk nakDue cctr msgs s
  | .trainingBlock lode header errs msgs => Sys2Proof.Machine.execTrainingBlock lode header errs msgs s
  | .blockBoundary lode fill => Sys2Proof.Machine.execBlockBoundary lode fill s
  | .widthReq lode => Sys2Proof.Machine.execWidthReq lode s
  | .keySwitch lode => Sys2Proof.Machine.execKeySwitch lode s
  | .quarantineNotice lode => Sys2Proof.Machine.execQuarantineNotice lode s
  | .markerSet lode width group stray => Sys2Proof.Machine.execMarkerSet lode width group stray s
  | .nakTimeout lode => Sys2Proof.Machine.execNakTimeout lode s
  | .replayTimeout lode => Sys2Proof.Machine.execReplayTimeout lode s
  | .laneLockLoss lode lane => Sys2Proof.Machine.execLaneLockLoss lode lane s
  | .laneDegraded lode lane => Sys2Proof.Machine.execLaneDegraded lode lane s
  | .laserMonitorLow lode lane => Sys2Proof.Machine.execLaserMonitorLow lode lane s
  | .laneRetry lode => Sys2Proof.Machine.execLaneRetry lode s
  | .widthReqTimeout lode => Sys2Proof.Machine.execWidthReqTimeout lode s
  | .headerLoss lode => Sys2Proof.Machine.execHeaderLoss lode s
  | .quarantineWindow lode => Sys2Proof.Machine.execQuarantineWindow lode s
  | .quarantineHoldEnd lode => Sys2Proof.Machine.execQuarantineHoldEnd lode s
  | .lodePowerDown lode => Sys2Proof.Machine.execLodePowerDown lode s
  | .write region => Sys2Proof.Machine.execWrite region s
  | .readReq region => Sys2Proof.Machine.execReadReq region s
  | .readRsp region => Sys2Proof.Machine.execReadRsp region s
  | .reduce region => Sys2Proof.Machine.execReduce region s
  | .reduceQ region => Sys2Proof.Machine.execReduceQ region s
  | .pegSig region => Sys2Proof.Machine.execPegSig region s
  | .ack region => Sys2Proof.Machine.execAck region s
  | .e2eTimeout conn => Sys2Proof.Machine.execE2eTimeout conn s
  | .noLodeTimeout conn => Sys2Proof.Machine.execNoLodeTimeout conn s
  | .txratePeriod region part => Sys2Proof.Machine.execTxratePeriod region part s
  | .fsend region list chunks => Sys2Proof.Machine.execFsend region list chunks s
  | .fget region list chunks => Sys2Proof.Machine.execFget region list chunks s
  | .freduce region list chunks => Sys2Proof.Machine.execFreduce region list chunks s
  | .freduceQ region list chunks => Sys2Proof.Machine.execFreduceQ region list chunks s
  | .fsig region list chunks => Sys2Proof.Machine.execFsig region list chunks s
  | .ffinish region list chunks => Sys2Proof.Machine.execFfinish region list chunks s
  | .placementWrite req hpa bytes => Sys2Proof.Machine.execPlacementWrite req hpa bytes s
  | .memrd line meta_ => Sys2Proof.Machine.execMemrd line meta_ s
  | .memrddata line meta_ => Sys2Proof.Machine.execMemrddata line meta_ s
  | .memrdfwd line meta_ => Sys2Proof.Machine.execMemrdfwd line meta_ s
  | .memwr line bytes => Sys2Proof.Machine.execMemwr line bytes s
  | .memwrptl line be bytes => Sys2Proof.Machine.execMemwrptl line be bytes s
  | .memwrfwd line bytes => Sys2Proof.Machine.execMemwrfwd line bytes s
  | .meminv line meta_ => Sys2Proof.Machine.execMeminv line meta_ s
  | .meminvnt line meta_ => Sys2Proof.Machine.execMeminvnt line meta_ s
  | .memspecrd line => Sys2Proof.Machine.execMemspecrd line s
  | .unsupportedRequest => Sys2Proof.Machine.execUnsupportedRequest s
  | .configRequest dw write be => Sys2Proof.Machine.execConfigRequest dw write be s
  | .decoderCommit n base size skip ways lock => Sys2Proof.Machine.execDecoderCommit n base size skip ways lock s
  | .d3hotWrite => Sys2Proof.Machine.execD3hotWrite s
  | .hostCompletion tag slot => Sys2Proof.Machine.execHostCompletion tag slot s
  | .completionTimeout req => Sys2Proof.Machine.execCompletionTimeout req s
  | .l1Entry => Sys2Proof.Machine.execL1Entry s
  | .vectorUnmask vector => Sys2Proof.Machine.execVectorUnmask vector s
  | .linkEvent kind => Sys2Proof.Machine.execLinkEvent kind s
  | .hostLoss => Sys2Proof.Machine.execHostLoss s
  | .viralReceived => Sys2Proof.Machine.execViralReceived s
  | .linkReturn mods => Sys2Proof.Machine.execLinkReturn mods s
  | .holdTimeout => Sys2Proof.Machine.execHoldTimeout s
  | .sqDb q value stream => Sys2Proof.Machine.execSqDb q value stream s
  | .cqDb c value stream => Sys2Proof.Machine.execCqDb c value stream s
  | .mboxGo => Sys2Proof.Machine.execMboxGo s
  | .commandFetch slot => Sys2Proof.Machine.execCommandFetch slot s
  | .nopCommand src => Sys2Proof.Machine.execNopCommand src s
  | .capQuery src => Sys2Proof.Machine.execCapQuery src s
  | .attach src => Sys2Proof.Machine.execAttach src s
  | .detach src => Sys2Proof.Machine.execDetach src s
  | .ringCreate src => Sys2Proof.Machine.execRingCreate src s
  | .ringDestroy src => Sys2Proof.Machine.execRingDestroy src s
  | .lwlAck src => Sys2Proof.Machine.execLwlAck src s
  | .devIdSet src => Sys2Proof.Machine.execDevIdSet src s
  | .dcClean src => Sys2Proof.Machine.execDcClean src s
  | .dcInvalidate src => Sys2Proof.Machine.execDcInvalidate src s
  | .dcCleanInvalidate src => Sys2Proof.Machine.execDcCleanInvalidate src s
  | .enterMaint src => Sys2Proof.Machine.execEnterMaint src s
  | .leaveMaint src => Sys2Proof.Machine.execLeaveMaint src s
  | .biasSet src => Sys2Proof.Machine.execBiasSet src s
  | .lodeDisable src => Sys2Proof.Machine.execLodeDisable src s
  | .lodeEnable src => Sys2Proof.Machine.execLodeEnable src s
  | .lodeRelease src => Sys2Proof.Machine.execLodeRelease src s
  | .lodeSet src => Sys2Proof.Machine.execLodeSet src s
  | .fwActivate src => Sys2Proof.Machine.execFwActivate src s
  | .partCreate src => Sys2Proof.Machine.execPartCreate src s
  | .partModify src => Sys2Proof.Machine.execPartModify src s
  | .partDestroy src => Sys2Proof.Machine.execPartDestroy src s
  | .ctxCreate src => Sys2Proof.Machine.execCtxCreate src s
  | .ctxDestroy src => Sys2Proof.Machine.execCtxDestroy src s
  | .segMap src => Sys2Proof.Machine.execSegMap src s
  | .segUnmap src => Sys2Proof.Machine.execSegUnmap src s
  | .invalidate src => Sys2Proof.Machine.execInvalidate src s
  | .prefetchXlat src => Sys2Proof.Machine.execPrefetchXlat src s
  | .advise src => Sys2Proof.Machine.execAdvise src s
  | .handLoad src fills => Sys2Proof.Machine.execHandLoad src fills s
  | .launch src => Sys2Proof.Machine.execLaunch src s
  | .cancel src => Sys2Proof.Machine.execCancel src s
  | .preempt src => Sys2Proof.Machine.execPreempt src s
  | .preemptSaveDone ctx => Sys2Proof.Machine.execPreemptSaveDone ctx s
  | .resume src => Sys2Proof.Machine.execResume src s
  | .resumeRestoreDone ctx bad => Sys2Proof.Machine.execResumeRestoreDone ctx bad s
  | .queryContext src => Sys2Proof.Machine.execQueryContext src s
  | .queryList src => Sys2Proof.Machine.execQueryList src s
  | .listSubmit src fills => Sys2Proof.Machine.execListSubmit src fills s
  | .copyInline src => Sys2Proof.Machine.execCopyInline src s
  | .listCancel src => Sys2Proof.Machine.execListCancel src s
  | .fence src => Sys2Proof.Machine.execFence src s
  | .flistSubmit src fills => Sys2Proof.Machine.execFlistSubmit src fills s
  | .pegSignal src => Sys2Proof.Machine.execPegSignal src s
  | .pegArm src => Sys2Proof.Machine.execPegArm src s
  | .pegReset src => Sys2Proof.Machine.execPegReset src s
  | .pegQuery src => Sys2Proof.Machine.execPegQuery src s
  | .connOpen src => Sys2Proof.Machine.execConnOpen src s
  | .connClose src => Sys2Proof.Machine.execConnClose src s
  | .handleReg src => Sys2Proof.Machine.execHandleReg src s
  | .handleRevoke src => Sys2Proof.Machine.execHandleRevoke src s
  | .placeReg src => Sys2Proof.Machine.execPlaceReg src s
  | .placeUnreg src => Sys2Proof.Machine.execPlaceUnreg src s
  | .drainEnd src => Sys2Proof.Machine.execDrainEnd src s
  | .railWindow amps volts => Sys2Proof.Machine.execRailWindow amps volts s
  | .pwrLimit rail => Sys2Proof.Machine.execPwrLimit rail s
  | .diodeRead temps => Sys2Proof.Machine.execDiodeRead temps s
  | .thermalControl => Sys2Proof.Machine.execThermalControl s
  | .tripSample hot => Sys2Proof.Machine.execTripSample hot s
  | .pllLock region => Sys2Proof.Machine.execPllLock region s
  | .railRampDone region => Sys2Proof.Machine.execRailRampDone region s
  | .logWrite => Sys2Proof.Machine.execLogWrite s
  | .sensorUpdate watts => Sys2Proof.Machine.execSensorUpdate watts s
  | .designPowerEffecter watts => Sys2Proof.Machine.execDesignPowerEffecter watts s
  | .logRead repair index => Sys2Proof.Machine.execLogRead repair index s
  | .entdaa addr => Sys2Proof.Machine.execEntdaa addr s
  | .setdasa static addr => Sys2Proof.Machine.execSetdasa static addr s
  | .requestUpdate options => Sys2Proof.Machine.execRequestUpdate options s
  | .verifyComplete img => Sys2Proof.Machine.execVerifyComplete img s
  | .applyComplete => Sys2Proof.Machine.execApplyComplete s
  | .activateFirmware => Sys2Proof.Machine.execActivateFirmware s
  | .firmwareSelfCheck pass => Sys2Proof.Machine.execFirmwareSelfCheck pass s
  | .heronRestartDone => Sys2Proof.Machine.execHeronRestartDone s
  | .heronLockstep => Sys2Proof.Machine.execHeronLockstep s
  | .bitternCore core => Sys2Proof.Machine.execBitternCore core s
  | .bitternWatchdog core => Sys2Proof.Machine.execBitternWatchdog core s
  | .heronWatchdog => Sys2Proof.Machine.execHeronWatchdog s
  | .regionCollectorMessage n => Sys2Proof.Machine.execRegionCollectorMessage n s
  | .faultMessage region n => Sys2Proof.Machine.execFaultMessage region n s
  | .fatalLine => Sys2Proof.Machine.execFatalLine s
  | .ceHoldExpiry src => Sys2Proof.Machine.execCeHoldExpiry src s
  | .sumpAck src => Sys2Proof.Machine.execSumpAck src s
  | .sumpAckTimeout src => Sys2Proof.Machine.execSumpAckTimeout src s
  | .forceGo path => Sys2Proof.Machine.execForceGo path s
  | .drillEnable => Sys2Proof.Machine.execDrillEnable s
  | .coreIsolation core => Sys2Proof.Machine.execCoreIsolation core s
  | .coreFence core => Sys2Proof.Machine.execCoreFence core s
  | .powerOn => Sys2Proof.Machine.execPowerOn s
  | .brownOut => Sys2Proof.Machine.execBrownOut s
  | .pinReset => Sys2Proof.Machine.execPinReset s
  | .softwareReset path => Sys2Proof.Machine.execSoftwareReset path s
  | .clockFailure clock => Sys2Proof.Machine.execClockFailure clock s
  | .lockUp => Sys2Proof.Machine.execLockUp s
  | .nvPulseEnd => Sys2Proof.Machine.execNvPulseEnd s
  | .startUp testen failed mods lanes lost => Sys2Proof.Machine.execStartUp testen failed mods lanes lost s
  | .guardLatchWrite path addr value => Sys2Proof.Machine.execGuardLatchWrite path addr value s
  | .guardWindowExpiry path slot => Sys2Proof.Machine.execGuardWindowExpiry path slot s
  | .registerWrite path addr data stream => Sys2Proof.Machine.execRegisterWrite path addr data stream s
  | .snap path slot => Sys2Proof.Machine.execSnap path slot s
  | .captureRead path addr bytes upset => Sys2Proof.Machine.execCaptureRead path addr bytes upset s
  | .paritySweep upsets => Sys2Proof.Machine.execParitySweep upsets s
  | .parityRestore addr => Sys2Proof.Machine.execParityRestore addr s
  | .getVersion doe => Sys2Proof.Machine.execGetVersion doe s
  | .getCapabilities doe => Sys2Proof.Machine.execGetCapabilities doe s
  | .negotiateAlgorithms doe p384 sha384 => Sys2Proof.Machine.execNegotiateAlgorithms doe p384 sha384 s
  | .getDigests doe => Sys2Proof.Machine.execGetDigests doe s
  | .getCertificate doe slot => Sys2Proof.Machine.execGetCertificate doe slot s
  | .challenge doe slot => Sys2Proof.Machine.execChallenge doe slot s
  | .getMeasurements doe sign => Sys2Proof.Machine.execGetMeasurements doe sign s
  | .kemInit doe => Sys2Proof.Machine.execKemInit doe s
  | .kemFin doe id chain signature => Sys2Proof.Machine.execKemFin doe id chain signature s
  | .pskExchange doe id => Sys2Proof.Machine.execPskExchange doe id s
  | .pskFinish doe id => Sys2Proof.Machine.execPskFinish doe id s
  | .endSession doe id => Sys2Proof.Machine.execEndSession doe id s
  | .setCertificate doe id slot ident switch own => Sys2Proof.Machine.execSetCertificate doe id slot ident switch own s
  | .getCsr doe id slot consistent err => Sys2Proof.Machine.execGetCsr doe id slot consistent err s
  | .setOwner => Sys2Proof.Machine.execSetOwner s
  | .zeroiseSession doe id => Sys2Proof.Machine.execZeroiseSession doe id s
  | .decommission doe id => Sys2Proof.Machine.execDecommission doe id s
  | .debugArm doe id => Sys2Proof.Machine.execDebugArm doe id s
  | .debugArmExpiry => Sys2Proof.Machine.execDebugArmExpiry s
  | .faultDrillEntry doe id => Sys2Proof.Machine.execFaultDrillEntry doe id s
  | .faultDrillExit doe id => Sys2Proof.Machine.execFaultDrillExit doe id s
  | .selfTestOnDemand doe id pass err => Sys2Proof.Machine.execSelfTestOnDemand doe id pass err s
  | .selftestDone pass err => Sys2Proof.Machine.execSelftestDone pass err s
  | .healthTestFailure err => Sys2Proof.Machine.execHealthTestFailure err s
  | .drbgReseed => Sys2Proof.Machine.execDrbgReseed s
  | .keyRenewal lode => Sys2Proof.Machine.execKeyRenewal lode s
  | .ideQuery id => Sys2Proof.Machine.execIdeQuery id s
  | .keyProg id stream => Sys2Proof.Machine.execKeyProg id stream s
  | .kSetGo id stream => Sys2Proof.Machine.execKSetGo id stream s
  | .kSetStop id stream => Sys2Proof.Machine.execKSetStop id stream s
  | .keyRefresh id stream => Sys2Proof.Machine.execKeyRefresh id stream s
  | .ideIntegrityFailure stream => Sys2Proof.Machine.execIdeIntegrityFailure stream s
  | .lockInterface id part stream => Sys2Proof.Machine.execLockInterface id part stream s
  | .getDeviceInterfaceReport id part => Sys2Proof.Machine.execGetDeviceInterfaceReport id part s
  | .startInterface id part => Sys2Proof.Machine.execStartInterface id part s
  | .stopInterface id part => Sys2Proof.Machine.execStopInterface id part s
  | .trcRdWrite path region value => Sys2Proof.Machine.execTrcRdWrite path region value s
  | .extest data => Sys2Proof.Machine.execExtest data s
  | .idcode => Sys2Proof.Machine.execIdcode s
  | .samplePreload data => Sys2Proof.Machine.execSamplePreload data s
  | .dbgStatus => Sys2Proof.Machine.execDbgStatus s
  | .dbgUnlock bit => Sys2Proof.Machine.execDbgUnlock bit s
  | .dbgReq bit => Sys2Proof.Machine.execDbgReq bit s
  | .dbgMem dpa write data => Sys2Proof.Machine.execDbgMem dpa write data s
  | .bypass => Sys2Proof.Machine.execBypass s
  | .tapReset => Sys2Proof.Machine.execTapReset s
  | .receiveLaneLock lode lane => Sys2Proof.Machine.execReceiveLaneLock lode lane s
  | .lanePass lode lane => Sys2Proof.Machine.execLanePass lode lane s
  | .lodeDomainOn lode => Sys2Proof.Machine.execLodeDomainOn lode s
  | .connDropWindow conn => Sys2Proof.Machine.execConnDropWindow conn s
  | .quarantineAgeOut lode => Sys2Proof.Machine.execQuarantineAgeOut lode s
  | .bitternCoreRejoin core => Sys2Proof.Machine.execBitternCoreRejoin core s

end Sys2Proof.Machine
end

