-- ==== Sys2Proof/Safety.lean ====
section
/-!
DEFINITION. What counts as a safe run: the block is not in the fatal safe state (R565), and its stores are in canonical
form, so that equal contents are equal data.
-/
namespace Sys2Proof.Machine

/-- The block is in service. -/
def State.inService (s : State) : Bool := !s.sump.fatal

/-- HBM keeps its canonical form: addresses strictly rising, and no byte listed that reads as an unlisted one. -/
def State.memoryWf (s : State) : Bool := twf (fun _ => 0#8) s.hbm && twf (fun _ => false) s.hbmBad

/-- The test access port holds an instruction of R640. -/
def State.tapWf (s : State) : Bool := decide (s.tap.ir ∈ [0x00, 0x01, 0x02, 0x10, 0x11, 0x12, 0x13, 0xFF])

/-- The byte of HBM at a DPA. -/
def State.hbmByte (s : State) (a : Nat) : Byte := tget (fun _ => 0#8) s.hbm a

/-- A way to add reduction elements: one element, or the sum of two ways (R110). -/
inductive SumTree where
  | entry (q : Nat)
  | add (a b : SumTree)

/-- The elements that a way adds, in their order. -/
def SumTree.entries : SumTree → List Nat
  | .entry q => [q]
  | .add a b => a.entries ++ b.entries

/-- The sum it comes to, with the flags that its additions raise. -/
def SumTree.sum : SumTree → Nat × Flags
  | .entry q => (q, 0)
  | .add a b => ((fixAdd a.sum.1 b.sum.1).1, a.sum.2 ||| b.sum.2 ||| (fixAdd a.sum.1 b.sum.1).2)

/-- A run of `n` steps that neither faults nor is refused and stays in service. -/
def safeRun : Nat → State → Bool
  | 0, s => s.inService
  | n + 1, s =>
    s.inService &&
      match step s with
      | .next t => safeRun n t
      | _ => false

end Sys2Proof.Machine
end

