-- ==== Sys2Proof/Certificates/Slice0/Obligations.lean ====
section
/-!
DEFINITION. The statements for the provers. Each is about the commands named in its docstring, with the rules of the
spec it formalises; `Completes c s P` says that the command runs to a next state and that this state satisfies `P`.
-/
open Sys2Proof Sys2Proof.Machine

namespace Sys2Proof.Claims

/-- `exec` answers a next state for the command, and that state satisfies `P`. -/
def Completes (c : Instr) (s : State) (P : State → Prop) : Prop := ∃ t, exec c s = .next t ∧ P t

/-- A counter of R603 after `n` more events: it saturates. -/
def plus (s : State) (a n : Nat) : Nat := min (s.ctr a + n) 0xFFFFFFFF

/-- A fault message of a source with a kind has set out, after those that were on their way. -/
def Reported (s t : State) (src kind : Nat) : Prop :=
  ∃ m : FaultMsg, t.sump.flight = s.sump.flight ++ [m] ∧ m.src = src ∧ m.kind = kind

end Sys2Proof.Claims

open Sys2Proof.Claims

/-- A step takes the command at the front of the queue and runs it on the state with the queue's rest. -/
def Sys2Proof.Claims.stepRunsTheFrontCommand : Prop :=
  ∀ (c : Instr) (rest : List Instr) (s : State),
    step { s with pending := c :: rest } = exec c { s with pending := rest }

/-- A step on an empty queue leaves the state as it is (the model's own choice, log entry 1), and right after reset the
queue is empty. -/
def Sys2Proof.Claims.emptyQueueIdles : Prop :=
  State.reset.pending = [] ∧ ∀ s : State, s.pending = [] → step s = .next s

/-- A step takes the command at the front of the queue and runs it on the state with the queue's rest. A step on an empty queue
leaves the state as it is (the model's own choice, log entry 1), and right after reset the queue is empty. -/
def Obligations.StepsAndTheQueue : Prop :=
  Claims.stepRunsTheFrontCommand ∧ Claims.emptyQueueIdles

/-! ### The Round unit -/

/-- R42: a mark whose codeword is uncorrectable, with SRC 0b11, PERIOD 7, a reserved bit or a DEPTH above 15, is counted as malformed
and has no other effect; and a mark with DEPTH 15 is accepted, its receiver then having depth 16. -/
def Obligations.MalformedMarkOnlyCounts : Prop :=
  (∀ (s : State) (l : Fin 16) (a : BitVec 17), s.sump.fatal = false → (s.lode l).state = .active → s.round.state ≠ .off →
    exec (.roundMark l a true) s = .next (s.bump Reg.ROUND_BAD_CNT)
      ∧ (s.bump Reg.ROUND_BAD_CNT).ctr Reg.ROUND_BAD_CNT = plus s Reg.ROUND_BAD_CNT 1)
  ∧ (∀ (s : State) (l : Fin 16) (a : BitVec 17) (b : Nat) (rest : List (Nat × Nat)),
    s.sump.fatal = false → (s.lode l).state = .active → s.round.state ≠ .off → (s.lode l).inbox = (1, b) :: rest →
    (bitsOf b 21 20 = 3 ∨ bitsOf b 24 22 = 7 ∨ bitsOf b 19 0 ≠ 0 ∨ 15 < bitsOf b 29 25) →
    exec (.roundMark l a false) s
      = .next ((s.setLode l { (s.lode l) with inbox := rest }).bump Reg.ROUND_BAD_CNT))
  ∧ (∀ (s : State) (l : Fin 16) (a : BitVec 17) (b : Nat) (rest : List (Nat × Nat)),
    s.sump.fatal = false → (s.lode l).state = .active → s.round.state = .locked → s.round.run = true →
    (s.lode l).inbox = (1, b) :: rest → (markFields b).wellFormed = true → bitsOf b 29 25 = 15 →
    bitsOf b 63 48 = s.fld Reg.ROUND_EPOCH 15 0 → bitsOf b 47 30 = s.fld Reg.ROUND_MASTER 17 0 → l.val = s.round.act →
    s.delayGood l = true → (s.localTime a.toNat : Int) - s.partnerTime l (markFields b) ≤ 256 →
    -256 ≤ (s.localTime a.toNat : Int) - s.partnerTime l (markFields b) →
    Completes (.roundMark l a false) s fun t => t.round.depth = 16 ∧ t.round.gotGood = true
      ∧ t.ctr Reg.ROUND_BAD_CNT = s.ctr Reg.ROUND_BAD_CNT)

/-- R43, R50: a mark with an older epoch is dropped, counted and reported; a good mark on the lode in use sets the offset of
R44, keeps the counter and clears the count of Rounds without a good mark. Where a clause rests on a reading or a choice of the
model's own, log entries 10 to 19 name it. -/
def Obligations.RoundMarkSteersOrIsStale : Prop :=
  (∀ (s : State) (l : Fin 16) (a : BitVec 17) (b : Nat) (rest : List (Nat × Nat)),
    s.sump.fatal = false → (s.lode l).state = .active → s.round.state ≠ .off → (s.lode l).inbox = (1, b) :: rest →
    (markFields b).wellFormed = true →
    (bitsOf b 63 48 + 65536 - s.fld Reg.ROUND_EPOCH 15 0) % 65536 > 32767 →
    Completes (.roundMark l a false) s fun t =>
      t.ctr Reg.ROUND_STALE_CNT = plus s Reg.ROUND_STALE_CNT 1 ∧ Reported s t (srcDevice 9) 0x502 ∧ t.round = s.round)
  ∧ (∀ (s : State) (l : Fin 16) (a : BitVec 17) (b : Nat) (rest : List (Nat × Nat)),
    s.sump.fatal = false → (s.lode l).state = .active → s.round.state = .locked → s.round.run = true →
    (s.lode l).inbox = (1, b) :: rest → (markFields b).wellFormed = true →
    bitsOf b 63 48 = s.fld Reg.ROUND_EPOCH 15 0 → bitsOf b 47 30 = s.fld Reg.ROUND_MASTER 17 0 →
    l.val = s.round.act → s.delayGood l = true →
    -256 ≤ (s.localTime a.toNat : Int) - s.partnerTime l (markFields b) →
    (s.localTime a.toNat : Int) - s.partnerTime l (markFields b) ≤ 256 →
    Completes (.roundMark l a false) s fun t =>
      t.round.cnt = s.round.cnt ∧ t.round.state = .locked ∧ t.round.gotGood = true ∧ t.round.noGood = 0
        ∧ t.round.depth = bitsOf b 29 25 + 1)

/-- R56, R35: at a boundary the counter advances by 1. -/
def Sys2Proof.Claims.roundBoundaryAdvancesTheCounter : Prop :=
  ∀ s : State, s.counting = true →
    Completes .roundBoundary s fun t => t.round.cnt = s.round.cnt + 1

/-- R50, R48, R49: a missing mark is counted; the fourth in a row with no backup lode leaves LOCKED for HOLDOVER, with its
count and report; the limit leads to UNALIGNED, with its report. -/
def Sys2Proof.Claims.missingMarksLeadToHoldover : Prop :=
  (∀ s : State, s.sump.fatal = false → s.counting = true → s.round.state ≠ .master → s.round.gotGood = false →
    s.round.missed = false →
    Completes .missingMark s fun t =>
      t.ctr Reg.ROUND_MISS_CNT = plus s Reg.ROUND_MISS_CNT 1 ∧ t.round.cnt = s.round.cnt
        ∧ (s.round.noGood < 3 → t.round.noGood = s.round.noGood + 1 ∧ t.round.state = s.round.state)
        ∧ (s.round.noGood = 3 → s.round.state = .locked → s.rctl 4 4 = 0 →
            t.round.state = .holdover ∧ t.ctr Reg.ROUND_HOLD_CNT = plus s Reg.ROUND_HOLD_CNT 1
              ∧ Reported s t (srcDevice 9) 0x500))
  ∧ (∀ s : State, s.round.state = .holdover → s.fld Reg.ROUND_HOLD 23 0 ≠ 0 →
    s.fld Reg.ROUND_HOLD 23 0 ≤ s.round.held → (s.delayHeld s.srcLode = true ∨ s.delayHeld s.bkpLode = true) →
    Completes .holdoverLimit s fun t =>
      t.round.state = .unaligned ∧ t.round.cnt = s.round.cnt ∧ Reported s t (srcDevice 9) 0x501)

/-- R51: a standby master of rank k that has waited takes over: MASTER, the last epoch plus 1 modulo 65,536, its own
identifier, depth 0, and a continuous counter. -/
def Sys2Proof.Claims.standbyTakeoverMakesAMaster : Prop :=
  ∀ s : State, (s.round.state = .holdover ∨ s.round.state = .unaligned) → s.rctl 3 2 = 2 →
    s.fld Reg.ROUND_STANDBY 15 0 ≠ 0 →
    (s.fld Reg.ROUND_STANDBY 17 16 + 1) * s.fld Reg.ROUND_STANDBY 15 0 ≤ s.round.away →
    Completes .standbyTakeover s fun t =>
      t.round.state = .master ∧ t.round.cnt = s.round.cnt ∧ t.round.depth = 0
        ∧ t.fld Reg.ROUND_EPOCH 15 0 = (s.fld Reg.ROUND_EPOCH 15 0 + 1) % 65536
        ∧ t.fld Reg.ROUND_MASTER 17 0 = s.devId % 2 ^ 18

/-- R56, R35: at a boundary the counter advances by 1. R50, R48, R49: a missing mark is counted; the fourth in a row with no
backup lode leaves LOCKED for HOLDOVER, with its count and report; the limit leads to UNALIGNED, with its report. R51: a standby
master of rank k that has waited takes over: MASTER, the last epoch plus 1 modulo 65,536, its own identifier, depth 0, and a
continuous counter. Where a clause rests on a reading or a choice of the model's own, log entries 10 to 19 name it. -/
def Obligations.RoundBoundariesAndLostMarks : Prop :=
  Claims.roundBoundaryAdvancesTheCounter ∧ Claims.missingMarksLeadToHoldover ∧ Claims.standbyTakeoverMakesAMaster

/-- R44, R389, R40: an exchange sends one request a listed lode and remembers it; a response gives the delay and offset of R44;
a timeout forgets the request; a reference window and a PPS edge leave the finding and the stamp. Where a clause rests on a
reading or a choice of the model's own, log entries 10 to 19 name it. -/
def Obligations.DelayExchangeAndReferences : Prop :=
  (∀ (s : State) (l : Fin 16) (t1 : BitVec 56), s.round.state ≠ .off → s.sump.fatal = false → 16 ≤ s.round.sinceExch →
    (s.lode l).state = .active →
    Completes (.delayExchange [(l, t1)]) s fun t =>
      (t.delay l).sent = some t1.toNat ∧ (t.delay l).id = ((s.delay l).id + 1) % 65536 ∧ t.round.sinceExch = 0)
  ∧ (∀ (s : State) (l : Fin 16) (t4 : BitVec 56) (b t1 : Nat) (rest : List (Nat × Nat)),
    s.sump.fatal = false → (s.lode l).state = .active → (s.lode l).inbox = (3, b) :: rest → b < 2 ^ 128 →
    (s.delay l).sent = some t1 → b / 2 ^ 112 = (s.delay l).id → (s.delay l).kept = [] →
    Completes (.delayRsp l t4) s fun t =>
      (t.delay l).sent = none
        ∧ (t.delay l).kept = [(signed 56 ((t4.toNat + 2 ^ 56 - t1) % 2 ^ 56)
            - signed 56 ((b % 2 ^ 56 + 2 ^ 56 - b / 2 ^ 56 % 2 ^ 56) % 2 ^ 56)).toNat])
  ∧ (∀ (s : State) (l : Fin 16), (s.delay l).sent.isSome = true →
    Completes (.delayRspTimeout l) s fun t => (t.delay l).sent = none ∧ (t.delay l).kept = (s.delay l).kept)
  ∧ (∀ (s : State) (ok : Bool), exec (.referenceWindow ok) s = .next { s with round := { s.round with finding := ok } })
  ∧ (∀ s : State, s.counting = true →
    Completes .ppsEdge s fun t =>
      t.cfg Reg.ROUND_PPS_RND_LO = BitVec.ofNat 32 s.rnd ∧ t.bit Reg.ROUND_PPS_OFS 31 = true ∧ t.round.cnt = s.round.cnt)

/-! ### Number formats and arithmetic -/

/-- R83, R87: with no bias, every code of binary16, bfloat16, E4M3, E5M2 and INT8 converts into binary32 with no condition,
and the value it gives is the source value. -/
def Sys2Proof.Claims.wideningIsExact : Prop :=
  ∀ f ∈ [Elem.b16, Elem.bf16, Elem.e4m3, Elem.e5m2, Elem.i8], ∀ c < 2 ^ f.bits,
    (toB32 (f.decode c)).2 = 0
      ∧ match f.decode c, Elem.b32.decode (toB32 (f.decode c)).1 with
        | .nan, .nan => True
        | .inf m, .inf n => m = n
        | .fin m a x, .fin n b y => m = n ∧ atGrid a x (min x y) = atGrid b y (min x y)
        | _, _ => False

/-- R61 to R66, R77, R79: decoding a code and writing its value back into the same format under any control gives the same
code and no condition, for every code that is neither a NaN nor an infinity. -/
def Sys2Proof.Claims.decodeThenEncodeIsIdentity : Prop :=
  ∀ (f : Elem) (k : Ctl) (r c : Nat) (neg : Bool) (m : Nat) (e : Int), c < 2 ^ f.bits → f.decode c = .fin neg m e →
    encodeVal f k r 0 1 (f.decode c) = ⟨c, 0, false⟩

/-- R98, R93, R94: a window accumulator that takes the same addends in two orders, with O clear at both ends, holds the same
fields. Where a clause rests on a reading or a choice of the model's own, log entries 20 to 23 name it. -/
def Obligations.WindowSumHasNoOrder : Prop :=
  ∀ (a : WAcc) (vs ws : List Val), vs.Perm ws → (a.takeAll vs).o = false → (a.takeAll ws).o = false →
    a.takeAll vs = a.takeAll ws

/-- R108 to R110: with at most 2^H contributions no sum saturates, and the sum is the exact sum of the entries. -/
def Sys2Proof.Claims.fixedPointSumIsExact : Prop :=
  ∀ (E : Int) (H : Nat) (vs : List Val), H ≤ 18 → vs.length ≤ 2 ^ H → (∀ v ∈ vs, v ≠ .nan) →
    (∀ n ≤ vs.length, (fixAdd ((vs.take n).foldl (fun a v => (fixAdd a (fixEnter E H v).1).1) 0)
        (vs[n]?.elim 0 fun v => (fixEnter E H v).1)).2 = 0)
      ∧ signed 64 (vs.foldl (fun a v => (fixAdd a (fixEnter E H v).1).1) 0)
          = (vs.map fun v => signed 64 (fixEnter E H v).1).sum

/-- R83, R87: with no bias, every code of binary16, bfloat16, E4M3, E5M2 and INT8 converts into binary32 with no condition, and
the value it gives is the source value. R61 to R66, R77, R79: decoding a code and writing its value back into the same format
under any control gives the same code and no condition, for every code that is neither a NaN nor an infinity. R108 to R110: with
at most 2^H contributions no sum saturates, and the sum is the exact sum of the entries. Where a clause rests on a reading or a
choice of the model's own, log entries 20 to 23 name it. -/
def Obligations.NumbersConvertExactly : Prop :=
  Claims.wideningIsExact ∧ Claims.decodeThenEncodeIsIdentity ∧ Claims.fixedPointSumIsExact

/-- R110: two elements add. A NaN element gives the NaN element; any other sum saturates at ±(2^63 − 1), and WOVF is raised when it
does; and at most 2^H contributions within the limit of R109 add without saturation, to the exact sum, in any order and any shape. -/
def Obligations.ReductionElementsAdd : Prop :=
  (∀ a b : Nat, a % 2 ^ 64 = fixNan ∨ b % 2 ^ 64 = fixNan → (fixAdd a b).1 = fixNan)
  ∧ (∀ a b : Nat, a % 2 ^ 64 ≠ fixNan → b % 2 ^ 64 ≠ fixNan →
    (fixAdd a b).1 = unsigned 64 (max (-(2 ^ 63 - 1)) (min (2 ^ 63 - 1) (signed 64 a + signed 64 b)))
      ∧ ((fixAdd a b).2 = fWOVF ↔ 2 ^ 63 - 1 < signed 64 a + signed 64 b ∨ signed 64 a + signed 64 b < -(2 ^ 63 - 1)))
  ∧ (∀ (H : Nat) (t : SumTree), H ≤ 18 → t.entries.length ≤ 2 ^ H →
    (∀ q ∈ t.entries, q < 2 ^ 64 ∧ q ≠ fixNan ∧ -(2 ^ (63 - H) - 1) ≤ signed 64 q ∧ signed 64 q ≤ 2 ^ (63 - H) - 1) →
    t.sum.2 = 0 ∧ signed 64 t.sum.1 = (t.entries.map (signed 64)).sum ∧ ∀ u : SumTree, u.entries.Perm t.entries → u.sum = t.sum)

/-! ### Sequencers, engines, core store and pegs -/

namespace Sys2Proof.Claims

/-- The sequencer of a core can issue its row, and the row reads as this trick (R159, R189). -/
def Issues (s : State) (c : Nat) (a : Act) (sig : Option Nat) : Prop :=
  (s.core c).canIssue = true ∧ s.sump.fatal = false ∧
    ∃ r, tfind (s.core c).window (s.core c).row = some r ∧ r.poison = false ∧ decodeTrick (s.rowEnv c) r.words = .ok (a, sig)

/-- The row after the one at the sequencer lies in the table area. -/
def HasNext (s : State) (c : Nat) : Prop := (s.core c).row + 1 < (s.core c).rows

/-- The sequencer of the core stands at a row, with these open calls and loops, and runs; the pegs, HBM and the other
cores are as before. -/
def At (s t : State) (c row : Nat) (calls : List Nat) (loops : List LoopEnt) : Prop :=
  (t.core c).row = row ∧ (t.core c).seq = .run ∧ (t.core c).calls = calls ∧ (t.core c).loops = loops
    ∧ (t.core c).store = (s.core c).store ∧ (t.core c).acc = (s.core c).acc
    ∧ t.pegs = s.pegs ∧ t.hbm = s.hbm ∧ ∀ d, d ≠ c → t.core d = s.core d

/-- The engine trick of a kind issues: it enters its engine's queue last, with its ranges as entries, and the sequencer goes
on at the next row (R117, R142). The errors that descriptor reads find are handled first. -/
def EngineIssues (cmd : List EccErr → Instr) (c : Nat) (kind : EngOp → Prop) : Prop :=
  ∀ (s : State) (errs : List EccErr) (e : Nat) (op : EngOp) (rd wr : List (Nat × Nat)) (sig : Option Nat),
    (s.core c).canIssue = true → s.sump.fatal = false → Issues (s.storeErrs c errs) c (.engine e op rd wr) sig → kind op →
    HasNext (s.storeErrs c errs) c → (((s.storeErrs c errs).core c).queue e).length < 4 →
    ((s.storeErrs c errs).core c).hazardFree rd wr = true →
    Completes (cmd errs) s fun t =>
      (∃ k, (t.core c).queue e = ((s.storeErrs c errs).core c).queue e ++ [k] ∧ k.op = op ∧ k.row = ((s.storeErrs c errs).core c).row
          ∧ (t.core c).ranges = ((s.storeErrs c errs).core c).ranges
              ++ rd.map (fun r => ⟨r.1, r.2, false, k.id⟩) ++ wr.map (fun r => ⟨r.1, r.2, true, k.id⟩))
        ∧ (t.core c).row = ((s.storeErrs c errs).core c).row + 1 ∧ t.pegs = s.pegs ∧ t.hbm = s.hbm

end Sys2Proof.Claims

/-- R187, R192, R161: NOP goes on at the next row, HALT ends issue at its own row, and TFENCE, once no range entry holds a
write, empties the window and goes on. -/
def Sys2Proof.Claims.nopHaltTfence : Prop :=
  ∀ (s : State) (c : Fin 104) (sig : Option Nat),
    (Issues s c .nop sig → HasNext s c →
      Completes (.nop c) s fun t => At s t c ((s.core c).row + 1) (s.core c).calls (s.core c).loops)
    ∧ (Issues s c .halt sig →
      Completes (.halt c) s fun t => (t.core c) = { s.core c with halt := true } ∧ t.pegs = s.pegs ∧ t.hbm = s.hbm)
    ∧ (Issues s c .tfence sig → HasNext s c → (s.core c).ranges.any (·.write) = false →
      Completes (.tfence c) s fun t =>
        At s t c ((s.core c).row + 1) (s.core c).calls (s.core c).loops ∧ (t.core c).window = [])

/-- R181: what LOOP, ENDLOOP, CALL and RET do to the call stack, the loop stack and the next row. -/
def Sys2Proof.Claims.loopsAndCalls : Prop :=
  ∀ (s : State) (c : Fin 104) (sig : Option Nat),
    (∀ n, Issues s c (.loop n) sig → HasNext s c → (s.core c).loops.length < 8 →
      Completes (.loop c) s fun t => At s t c ((s.core c).row + 1) (s.core c).calls
        (⟨(s.core c).row + 1, n, 0, (s.core c).calls.length⟩ :: (s.core c).loops))
    ∧ (∀ l ls, Issues s c .endloop sig → (s.core c).loops = l :: ls → l.depth = (s.core c).calls.length →
      l.index < l.count → l.start < (s.core c).rows →
      Completes (.endloop c) s fun t => At s t c l.start (s.core c).calls ({ l with index := l.index + 1 } :: ls))
    ∧ (∀ l ls, Issues s c .endloop sig → (s.core c).loops = l :: ls → l.depth = (s.core c).calls.length →
      l.count ≤ l.index → HasNext s c →
      Completes (.endloop c) s fun t => At s t c ((s.core c).row + 1) (s.core c).calls ls)
    ∧ (∀ n, Issues s c (.call n) sig → (s.core c).calls.length < 8 → n < (s.core c).rows →
      Completes (.call c) s fun t => At s t c n (((s.core c).row + 1) :: (s.core c).calls) (s.core c).loops)
    ∧ (∀ r rs, Issues s c .ret sig → (s.core c).calls = r :: rs → r < (s.core c).rows →
      (s.core c).loops.any (fun l => decide (l.depth = (s.core c).calls.length)) = false →
      Completes (.ret c) s fun t => At s t c r rs (s.core c).loops)

/-- R117, R142, R171 to R178: an engine trick that passes its checks enters the queue of its engine. -/
def Sys2Proof.Claims.engineTricksIssue : Prop :=
  ∀ c : Fin 104,
    EngineIssues (.mm c) c (fun o => ∃ l r t m n k st wb cv sd, o = .mm l r t m n k st wb cv sd)
    ∧ EngineIssues (.vec c) c (fun o => ∃ f sh a b x d st wr wb cv sd, o = .vec f sh a b x d st wr wb cv sd)
    ∧ EngineIssues (.tu c) c (fun o => ∃ f a d cv sd, o = .tu f a d cv sd)
    ∧ EngineIssues (.stageIn c) c (fun o => State.isStream .stageIn o = true)
    ∧ EngineIssues (.stageOut c) c (fun o => State.isStream .stageOut o = true)
    ∧ EngineIssues (.gather c) c (fun o => State.isStream .gather o = true)
    ∧ EngineIssues (.scatter c) c (fun o => State.isStream .scatter o = true)
    ∧ EngineIssues (.copyLocal c) c (fun o => State.isStream .copyLocal o = true)

/-- R184: PSIG, PARM and PRESET send their operation to the device peg of R213 when they issue, and go on at the next row;
the peg itself has not changed yet. -/
def Sys2Proof.Claims.pegTricksSendOperations : Prop :=
  ∀ (s : State) (c : Fin 104) (sig : Option Nat) (p d : Nat), HasNext s c →
    s.pegOfCtx ((s.core c).ctx.getD 0) p = some d →
    (∀ n, Issues s c (.psig p n) sig → Completes (.psig c) s fun t =>
      t.pegOps = s.pegOps ++ [(d, .signal n)] ∧ At s t c ((s.core c).row + 1) (s.core c).calls (s.core c).loops)
    ∧ (∀ x, Issues s c (.parm p x) sig → Completes (.parm c) s fun t =>
      t.pegOps = s.pegOps ++ [(d, .arm x 1)] ∧ At s t c ((s.core c).row + 1) (s.core c).calls (s.core c).loops)
    ∧ (Issues s c (.preset p) sig → Completes (.preset c) s fun t =>
      t.pegOps = s.pegOps ++ [(d, .reset)] ∧ At s t c ((s.core c).row + 1) (s.core c).calls (s.core c).loops)

/-- R182, R183, R184: PWAIT, RWAIT and DEADLINE. A Round that has begun ends an RWAIT at once; a deadline evaluated after its
Round is met or missed by the peg's readiness, and a miss calls the fallback sub-table. -/
def Sys2Proof.Claims.waitsAndDeadlines : Prop :=
  ∀ (s : State) (c : Fin 104) (sig : Option Nat),
    (∀ p d, Issues s c (.pwait p) sig → s.pegOfCtx ((s.core c).ctx.getD 0) p = some d →
      Completes (.pwait c) s fun t =>
        (t.core c) = { s.core c with seq := .wait, wait := some (.peg d) } ∧ t.pegOps = s.pegOps ++ [(d, .wait (.seq c))])
    ∧ (∀ n, Issues s c (.rwait n) sig → s.counting = true → HasNext s c → (s.core c).base + n ≤ s.rnd →
      Completes (.rwait c) s fun t => At s t c ((s.core c).row + 1) (s.core c).calls (s.core c).loops)
    ∧ (∀ n, Issues s c (.rwait n) sig → s.rnd < (s.core c).base + n →
      Completes (.rwait c) s fun t =>
        (t.core c) = { s.core c with seq := .wait, wait := some (.round ((s.core c).base + n)) } ∧ t.pegs = s.pegs)
    ∧ (∀ p q fb n, Issues s c (.deadline p fb n) sig → s.pegOfCtx ((s.core c).ctx.getD 0) p = some q →
      s.rnd < (s.core c).base + n →
      Completes (.deadline c) s fun t =>
        (t.core c) = { s.core c with seq := .wait, wait := some (.deadline q ((s.core c).base + n) fb) }
          ∧ t.pegOps = s.pegOps ++ [(q, .wait (.seq c))])
    ∧ (∀ p q fb n, Issues s c (.deadline p fb n) sig → s.pegOfCtx ((s.core c).ctx.getD 0) p = some q →
      s.counting = true → (s.core c).base + n ≤ s.rnd → HasNext s c → (s.peg q).ready = true →
      Completes (.deadline c) s fun t => At s t c ((s.core c).row + 1) (s.core c).calls (s.core c).loops)
    ∧ (∀ p q fb n, Issues s c (.deadline p fb n) sig → s.pegOfCtx ((s.core c).ctx.getD 0) p = some q →
      s.counting = true → (s.core c).base + n ≤ s.rnd → (s.core c).calls.length < 8 → fb < (s.core c).rows →
      (s.peg q).ready = false →
      Completes (.deadline c) s fun t => At s t c fb (((s.core c).row + 1) :: (s.core c).calls) (s.core c).loops)

/-- R187, R192, R161: NOP goes on at the next row, HALT ends issue at its own row, and TFENCE, once no range entry holds a
write, empties the window and goes on. R181: what LOOP, ENDLOOP, CALL and RET do to the call stack, the loop stack and the next
row. R182, R183, R184: PWAIT, RWAIT and DEADLINE. A Round that has begun ends an RWAIT at once; a deadline evaluated after its
Round is met or missed by the peg's readiness, and a miss calls the fallback sub-table. Where a clause rests on a reading or a
choice of the model's own, log entries 24 to 33 name it. -/
def Obligations.ControlTricksAndWaits : Prop :=
  Claims.nopHaltTfence ∧ Claims.loopsAndCalls ∧ Claims.waitsAndDeadlines

/-- R185, R186, R337: ENQ is held with its list until the queue takes it, PHASE leaves the context's request, TMARK goes on
at the next row. -/
def Sys2Proof.Claims.enqPhaseTmark : Prop :=
  ∀ (s : State) (c : Fin 104) (sig : Option Nat),
    (∀ cls u base len, Issues s c (.enq cls u base len) sig → (s.core c).writeHolds base (base + 32 * len - 1) = false →
      Completes (.enq c) s fun t =>
        (∃ e, (t.core c) = { s.core c with enq := some (e, base, len) }
          ∧ (cls = 2 → e = 16 + c.val / 26) ∧ (cls < 2 → e = 4 * (c.val / 26) + 2 * cls + u)) ∧ t.lists = s.lists)
    ∧ (∀ n x, Issues s c (.phase n) sig → HasNext s c → (s.core c).ctx = some x → s.round.state ≠ .off →
      Completes (.phase c) s fun t =>
        (t.context x) = { s.context x with op := n } ∧ At s t c ((s.core c).row + 1) (s.core c).calls (s.core c).loops)
    ∧ (∀ g v, Issues s c (.tmark g v) sig → HasNext s c →
      Completes (.tmark c) s fun t => At s t c ((s.core c).row + 1) (s.core c).calls (s.core c).loops)

/-- R189, R190, R194: the next aligned group of rows enters the window as the core store holds it, but for rows that an
issued write still covers. -/
def Sys2Proof.Claims.rowCaptureReadsTheTable : Prop :=
  ∀ (s : State) (c : Fin 104) (r : Nat), (s.core c).pwr = .run → (s.core c).isolated = false → (s.core c).halt = false →
    (s.core c).seq = .run → s.sump.fatal = false → r ∈ (s.core c).captureRows →
    (s.core c).writeHolds (rowOff (s.core c).tbl r) (rowOff (s.core c).tbl r + 31) = false →
    Completes (.rowCapture c []) s fun t =>
      tfind (t.core c).window r
        = some ⟨wordsOf ((s.core c).bytes (rowOff (s.core c).tbl r) 32), (s.core c).poisoned (rowOff (s.core c).tbl r) 32⟩
      ∧ (t.core c).row = (s.core c).row ∧ (t.core c).store = (s.core c).store

/-- R184: PSIG, PARM and PRESET send their operation to the device peg of R213 when they issue, and go on at the next row; the
peg itself has not changed yet. R185, R186, R337: ENQ is held with its list until the queue takes it, PHASE leaves the context's
request, TMARK goes on at the next row. R189, R190, R194: the next aligned group of rows enters the window as the core store
holds it, but for rows that an issued write still covers. Where a clause rests on a reading or a choice of the model's own, log
entries 24 to 33 name it. -/
def Obligations.PegAndOtherTricksIssue : Prop :=
  Claims.pegTricksSendOperations ∧ Claims.enqPhaseTmark ∧ Claims.rowCaptureReadsTheTable

/-- R120, R142: a compute engine starts its oldest trick, and the read entries of that trick are free; the stream engine
starts its own. -/
def Sys2Proof.Claims.engineStartFreesReads : Prop :=
  ∀ (s : State) (c : Fin 104) (e : Fin 8) (k : Trick) (rest : List Trick), (s.core c).pwr = .run →
    (s.core c).isolated = false → s.sump.fatal = false → (s.core c).queue e = k :: rest → k.running = none →
    k.stopped = false →
    Completes (.engineTrickStart c e []) s fun t =>
      (∃ r n, (t.core c).queue e = { k with running := some r, rng := n } :: rest)
        ∧ (e.val < 7 → ∀ x ∈ (t.core c).ranges, x.id = k.id → x.write = true)
        ∧ (t.core c).store = (s.core c).store

/-- R179: a compute trick that completes signals its SIG, whether or not its output is poisoned. -/
def Sys2Proof.Claims.trickCompletionSignals : Prop :=
  ∀ (s : State) (c : Fin 104) (e : Fin 8) (f : EngFault) (cc : List (Fin 4096 × SliceErr)) (fills : List HostFill)
    (k : Trick) (rest : List Trick) (r : Running) (p : Nat), (s.core c).pwr = .run → (s.core c).isolated = false →
    s.sump.fatal = false → e.val < 7 → (s.core c).queue e = k :: rest → k.running = some r → k.stopped = false →
    k.sig = some p →
    Completes (.trickComplete c e f cc fills) s fun t => (p, PegOp.signal 1) ∈ t.pegOps

/-- R162, R163, R178: an index lane out of range stops a GATHER or SCATTER and gives the sequencer fault GATHER, recorded with
the row of the stream trick, which stays in its engine. -/
def Sys2Proof.Claims.indexLaneFaultStops : Prop :=
  ∀ (s : State) (c : Fin 104) (fills : List HostFill) (k : Trick) (rest : List Trick) (n : Nat), (s.core c).pwr = .run →
    (s.core c).isolated = false → s.sump.fatal = false → (s.core c).queue 7 = k :: rest →
    k.stopped = false → (s.streamRun c fills k.op.streamRows).1 = .index n →
    ((s.streamRun c fills k.op.streamRows).2.core c).ctx = none →
    Completes (.indexLaneFault c [] fills) s fun t =>
      t.cfg (Reg.SEQ_FAULT (c.val / 26) (c.val % 26)) = BitVec.ofNat 32 (2 ^ 31 + n * 65536 + k.row)
        ∧ (t.core c).seq = .fault ∧ ((t.core c).queue 7).length = rest.length + 1

/-- R117, R142, R171 to R178: an engine trick that passes its checks enters the queue of its engine. R120, R142: a compute
engine starts its oldest trick, and the read entries of that trick are free; the stream engine starts its own. R179: a compute
trick that completes signals its SIG, whether or not its output is poisoned. R162, R163, R178: an index lane out of range stops
a GATHER or SCATTER and gives the sequencer fault GATHER, recorded with the row of the stream trick, which stays in its engine.
Where a clause rests on a reading or a choice of the model's own, log entries 24 to 33 name it. -/
def Obligations.EngineTricksIssueStartAndComplete : Prop :=
  Claims.engineTricksIssue ∧ Claims.engineStartFreesReads ∧ Claims.trickCompletionSignals ∧ Claims.indexLaneFaultStops

/-- R187, R195, R196: a core that issued HALT reports HALTED once its engines are empty, and the hand completes with its last
core; a core that drains for a preemption is SUSPENDED with its resume row kept, and in RUN if its clocks stood. Where a clause rests on a reading or a choice
of the model's own, log entries 24 to 33 name it. -/
def Obligations.HaltedAndSuspended : Prop :=
  (∀ (s : State) (c : Fin 104) (x d : Nat), s.sump.fatal = false → (s.core c).halt = true → (s.core c).seq = .run →
    (s.core c).stop = none → (s.core c).isolated = false → (s.core c).enginesIdle = true → (s.core c).ctx = some x →
    d ∈ s.coresOf x → d ≠ c.val → (s.core d).seq ≠ .halted →
    Completes (.halted c) s fun t =>
      (t.core c) = { s.core c with seq := .halted } ∧ (t.context x) = { s.context x with lastHalt := s.rnd })
  ∧ (∀ (s : State) (c : Fin 104) (x : Nat), s.sump.fatal = false → (s.core c).halt = true → (s.core c).seq = .run →
    (s.core c).stop = none → (s.core c).isolated = false → (s.core c).enginesIdle = true → (s.core c).ctx = some x →
    s.coresOf x = [c.val] → (s.context x).state = .running → (s.context x).preempt = none → (s.context x).launch = none →
    Completes (.halted c) s fun t => (t.context x).state = .empty ∧ (t.core c).seq = .idle ∧ (t.core c).ctx = none)
  ∧ (∀ (s : State) (c : Fin 104) (x n : Nat) (fills : List HostFill), (s.core c).ctx = some x →
    (s.context x).state = .preempting → (s.context x).cancel = none → (s.core c).stop = some .preempt →
    (s.core c).isolated = false → s.sump.fatal = false → (s.core c).seq = .draining → (s.core c).enginesIdle = true →
    Completes (.preemptionBoundary c n [] fills) s fun t =>
      (t.core c) = { s.core c with seq := .suspended, parked := true, wait := none, enq := none
                                   pwr := if (s.core c).pwr = .clockStop then .run else (s.core c).pwr })

/-- R150, R155: the power states of a core: the end of INIT, and into and out of CLOCK_STOP. -/
def Sys2Proof.Claims.corePowerStates : Prop :=
  ∀ (s : State) (c : Fin 104),
    ((s.core c).pwr = .init → s.sump.fatal = false →
      exec (.coreInitDone c) s = .next (s.setCore c { s.core c with pwr := .run }))
    ∧ ((s.core c).pwr = .run → (s.core c).seq = .wait → (s.core c).enginesIdle = true → (s.core c).isolated = false →
      (s.core c).stop = none →
      Completes (.clockStopEntry c) s fun t => (t.core c) = { s.core c with pwr := .clockStop } ∧ t.pegs = s.pegs)
    ∧ ((s.core c).pwr = .clockStop →
      Completes (.clockStopExit c) s fun t => (t.core c) = { s.core c with pwr := .run } ∧ t.pegs = s.pegs)

/-- R144, R148, R149: a correcting write-back takes the oldest waiting word, a row is remapped to the next free spare row of
its bank, and a scrub step walks on, counting a completed pass. -/
def Sys2Proof.Claims.coreStoreUpkeep : Prop :=
  ∀ (s : State) (c : Fin 104),
    (∀ w ws, (s.core c).wb = w :: ws →
      exec (.correctingWriteBack c) s = .next (s.setCore c { s.core c with wb := ws }))
    ∧ (∀ row rest, (s.core c).remap = row :: rest → (s.core c).spareTaken (row / 1024) < 16 →
      Completes (.rowRemap c) s fun t =>
        (t.core c).remap = rest ∧ tfind (t.core c).spare row = some ((s.core c).spareTaken (row / 1024) + 1)
          ∧ (t.core c).store = (s.core c).store)
    ∧ (s.bit (Reg.CSTORE_SCRUB_CTL (c.val / 26)) 16 = true → (s.core c).pwr = .run → (s.core c).scrub = 1039 →
      Completes (.coreStoreScrub c []) s fun t =>
        (t.core c) = { s.core c with scrub := 0 }
          ∧ t.ctr (Reg.CSTORE_SCRUB_PASS (c.val / 26) (c.val % 26)) = plus s (Reg.CSTORE_SCRUB_PASS (c.val / 26) (c.val % 26)) 1)
    ∧ (s.bit (Reg.CSTORE_SCRUB_CTL (c.val / 26)) 16 = true → (s.core c).pwr = .run → (s.core c).scrub < 1039 →
      exec (.coreStoreScrub c []) s = .next (s.setCore c { s.core c with scrub := (s.core c).scrub + 1 }))

/-- R150, R155: the power states of a core: the end of INIT, and into and out of CLOCK_STOP. R144, R148, R149: a correcting
write-back takes the oldest waiting word, a row is remapped to the next free spare row of its bank, and a scrub step walks on,
counting a completed pass. Where a clause rests on a reading or a choice of the model's own, log entries 24 to 33 name it. -/
def Obligations.CorePowerAndStoreUpkeep : Prop :=
  Claims.corePowerStates ∧ Claims.coreStoreUpkeep

/-- R209 to R211: one fabric cycle at a peg applies RESET, then the signals as one sum that saturates, then ARM, and a peg
that is then ready lets every waiter go; the other pegs stay. -/
def Sys2Proof.Claims.pegCycleOrder : Prop :=
  ∀ (s : State) (p : Fin 32768) (n : Nat) (ops : List PegOp) (rest : List (Nat × PegOp)),
    pegTake p n s.pegOps = (ops, rest) → ops ≠ [] →
    Completes (.pegOperations p n none) s fun t =>
      t.pegOps = rest ∧ (∀ q, q ≠ p.val → t.peg q = s.peg q)
      ∧ (PegOp.reset ∈ ops → (t.peg p).count = min (pegSum ops).1 0xFFFFFFFF ∧ (t.peg p).poison = false)
      ∧ (PegOp.reset ∉ ops → (s.peg p).poison = false → (s.peg p).count ≤ 0xFFFFFFFF →
          (t.peg p).count = min ((s.peg p).count + (pegSum ops).1) 0xFFFFFFFF)
      ∧ (PegOp.reset ∉ ops → (s.peg p).poison = true → (t.peg p).count = (s.peg p).count)
      ∧ (∀ x o, pegArm ops = some (x, o) → (t.peg p).target = x ∧ (t.peg p).armed = true)
      ∧ ((t.peg p).ready = true → ∀ w, (p.val, w) ∉ t.waits)

/-- R183, R188, R218: readiness that reaches a waiting sequencer ends its wait: a PWAIT goes on at the next row, and a
DEADLINE is met. -/
def Sys2Proof.Claims.readinessReleasesTheWaiter : Prop :=
  ∀ (s : State) (i p : Nat) (c : Fin 104), s.sump.fatal = false → s.wakes[i]? = some (p, .seq c) →
    (s.core c).seq = .wait → (s.core c).isolated = false → (s.core c).stop = none → (s.core c).pwr = .run → HasNext s c →
    ((s.core c).wait = some (.peg p) ∨ ∃ d fb, (s.core c).wait = some (.deadline p d fb)) →
    Completes (.pegReadyWake i) s fun t =>
      (t.core c).row = (s.core c).row + 1 ∧ (t.core c).seq = .run ∧ (t.core c).wait = none ∧ (p, Waiter.seq c) ∉ t.wakes
        ∧ t.pegs = s.pegs

/-- R209 to R211: one fabric cycle at a peg applies RESET, then the signals as one sum that saturates, then ARM, and a peg that
is then ready lets every waiter go; the other pegs stay. R183, R188, R218: readiness that reaches a waiting sequencer ends its
wait: a PWAIT goes on at the next row, and a DEADLINE is met. Where a clause rests on a reading or a choice of the model's own,
log entries 24 to 33 name it. -/
def Obligations.PegCyclesAndReadiness : Prop :=
  Claims.pegCycleOrder ∧ Claims.readinessReleasesTheWaiter

/-! ### HBM, its controllers and the regulators -/

/-- R224, R226, R228, R233, R234: a read that meets no error returns the line's bytes with its poison; a write changes the
bytes it names and no other byte of HBM, a whole line clearing the poison and part of a poisoned line changing nothing; and
a request that fails after its retries writes nothing. Refresh changes no state (R229). -/
def Sys2Proof.Claims.hbmRequestsReadAndWriteTheirLine : Prop :=
  (∀ (s : State) (line : Fin 4294967296) (ctx : Option (Fin 64)), populated (128 * line.val) = true →
    s.hbmServes line = true →
    (Completes (.hbmRequest line .read .clean ctx) s fun t =>
      (t.ctl (stackOf line)).sent = some ((List.range 128).map (fun i => s.hbmByte (128 * line.val + i)), s.lineBad line)
        ∧ t.hbm = s.hbm ∧ t.hbmBad = s.hbmBad ∧ t.reg = s.reg ∧ t.sump = s.sump)
    ∧ (∀ bs : List Byte, bs.length = 128 → Completes (.hbmRequest line (.write 0 bs) .clean ctx) s fun t =>
      (∀ i, i < 128 → t.hbmByte (128 * line.val + i) = bs.getD i 0#8)
        ∧ (∀ a, a < 128 * line.val ∨ 128 * line.val + 128 ≤ a → t.hbmByte a = s.hbmByte a)
        ∧ t.lineBad line = false ∧ (∀ l, l ≠ line.val → t.lineBad l = s.lineBad l) ∧ t.reg = s.reg ∧ t.sump = s.sump)
    ∧ (∀ (off : Fin 128) (bs : List Byte), off.val + bs.length < 128 → s.lineBad line = true →
      Completes (.hbmRequest line (.write off bs) .clean ctx) s fun t => t.hbm = s.hbm ∧ t.hbmBad = s.hbmBad)
    ∧ (∀ (off : Fin 128) (bs : List Byte), Completes (.hbmRequest line (.write off bs) .failed ctx) s fun t =>
      t.hbm = s.hbm ∧ t.hbmBad = s.hbmBad
        ∧ t.ctr (Reg.HBMC_PAR_FAIL_CNT (stackOf line)) = plus s (Reg.HBMC_PAR_FAIL_CNT (stackOf line)) 1))
  ∧ ∀ (s : State) (k : Fin 8), exec (.hbmRefresh k) s = .next s

/-- R233: an error that the check bits detect and cannot correct makes the line poisoned, counts in UE_CNT, is recorded in
ERR_ADDR with its line, reports HBM_UE from the stack's controller, and leaves the bytes and every other line alone. -/
def Sys2Proof.Claims.uncorrectableErrorsPoisonTheLine : Prop :=
  ∀ (s : State) (line : Fin 4294967296) (h : Fin 2) (ctx : Option (Fin 64)), populated (128 * line.val) = true →
    s.hbmServes line = true → s.lineBad line = false →
    Completes (.hbmRequest line .read (.double h) ctx) s fun t =>
      t.lineBad line = true ∧ (∀ l, l ≠ line.val → t.lineBad l = s.lineBad l) ∧ t.hbm = s.hbm
        ∧ t.ctr (Reg.HBMC_UE_CNT (stackOf line)) = plus s (Reg.HBMC_UE_CNT (stackOf line)) 1
        ∧ t.cfg (Reg.HBMC_ERR_ADDR (stackOf line)) = BitVec.ofNat 32 (2 ^ 31 + line.val % 2 ^ 29)
        ∧ Reported s t (srcRegion (stackOf line / 2) (2 + stackOf line % 2)) 0x101
        ∧ ((t.ctl (stackOf line)).sent.map (·.2)) = some true

/-- R224, R226, R228, R233, R234: a read that meets no error returns the line's bytes with its poison; a write changes the bytes
it names and no other byte of HBM, a whole line clearing the poison and part of a poisoned line changing nothing; and a request
that fails after its retries writes nothing. Refresh changes no state (R229). R233: an error that the check bits detect and
cannot correct makes the line poisoned, counts in UE_CNT, is recorded in ERR_ADDR with its line, reports HBM_UE from the stack's
controller, and leaves the bytes and every other line alone. Where a clause rests on a reading or a choice of the model's own,
log entries 34 to 41 name it. -/
def Obligations.HbmLinesAndErrors : Prop :=
  Claims.hbmRequestsReadAndWriteTheirLine ∧ Claims.uncorrectableErrorsPoisonTheLine

/-- R230, R235 to R239: the maintenance of a stack. A lane repair takes its channel out of service and back, one repair lane
fewer; without a lane the stack is lost. A soft repair takes the oldest candidate and counts as done, or as failed where the
bank has no spare row. A scrub read moves on to the next line and counts a pass at the end of the populated range. -/
def Sys2Proof.Claims.stackMaintenance : Prop :=
  ∀ (s : State) (k : Fin 8), s.sump.fatal = false →
    (∀ (c : Fin 32) (lane x : Byte), (s.ctl k).state = .run → (s.ctl k).sppr = none →
      (Completes (.laneRepair k c lane (some x)) s fun t =>
        (t.ctl k).state = .repair ∧ (t.ctl k).ch = c.val ∧ t.hbm = s.hbm ∧ ∀ j, j ≠ k.val → t.ctl j = s.ctl j)
      ∧ (Completes (.laneRepair k c lane none) s fun t =>
        (t.ctl k).state = .lost ∧ t.hbm = s.hbm ∧ (∃ m ∈ t.sump.lines, m.kind = 0x104) ∧ ∀ j, j ≠ k.val → t.ctl j = s.ctl j))
    ∧ ((s.ctl k).state = .repair → (s.ctl k).ch < 32 → 0 < s.fld (Reg.HBMC_LANE k (s.ctl k).ch) 7 0 →
      Completes (.laneRepairDone k) s fun t =>
        (t.ctl k).state = .run ∧ t.fld (Reg.HBMC_LANE k (s.ctl k).ch) 7 0 + 1 = s.fld (Reg.HBMC_LANE k (s.ctl k).ch) 7 0
          ∧ t.ctr (Reg.HBMC_LANE_RPR_CNT k) = plus s (Reg.HBMC_LANE_RPR_CNT k) 1 ∧ t.hbm = s.hbm)
    ∧ (∀ row rest, (s.ctl k).state = .run → s.bit (Reg.HBMC_CTL k) 17 = true → (s.ctl k).sppr = none →
      (s.ctl k).cand = row :: rest →
      Completes (.sppr k) s fun t => (t.ctl k) = { s.ctl k with sppr := some row, cand := rest } ∧ t.hbm = s.hbm)
    ∧ (∀ row (spare : Bool), (s.ctl k).sppr = some row →
      Completes (.spprDone k spare) s fun t =>
        (t.ctl k).sppr = none ∧ t.hbm = s.hbm ∧ t.hbmBad = s.hbmBad
          ∧ t.ctr (Reg.HBMC_SPPR_CNT k) = plus s (Reg.HBMC_SPPR_CNT k) (b2n spare)
          ∧ t.ctr (Reg.HBMC_SPPR_FAIL_CNT k) = plus s (Reg.HBMC_SPPR_FAIL_CNT k) (b2n (!spare)))
    ∧ (s.bit (Reg.HBMC_CTL k) 16 = true → (s.ctl k).state = .run → (s.ctl k).sppr = none → (s.ctl k).passed = [] →
      Completes (.patrolScrub k .clean) s fun t =>
        (t.ctl k).scrub = (if (s.ctl k).scrub + 1 = 402653184 then 0 else (s.ctl k).scrub + 1) ∧ t.hbm = s.hbm
          ∧ t.ctr (Reg.HBMC_SCRUB_PASS k) = plus s (Reg.HBMC_SCRUB_PASS k) (b2n (decide ((s.ctl k).scrub + 1 = 402653184))))

/-- R253: a temperature below every threshold from level 0 keeps level 0; one that reaches a threshold raises the level at
once, and the region's throttle level with it. Level 3 reports HBM_CRIT. -/
def Sys2Proof.Claims.temperatureSetsTheThrottleLevel : Prop :=
  ∀ (s : State) (k : Fin 8) (temp : Byte), (s.ctl k).state ≠ .off → (s.ctl k).level = 0 → tget (fun _ => 0) s.thr (k.val / 2) = 0 →
    s.fld (Reg.HBMC_THERM k) 23 16 + 5 < s.fld (Reg.HBMC_THERM k) 31 24 →
    Completes (.stackTemperatureRead k temp) s fun t =>
      (t.ctl k).valid = true ∧ (t.ctl k).temp = temp.toNat
        ∧ (t.ctl k).level = (if s.fld (Reg.HBMC_THERM k) 31 24 ≤ temp.toNat then 3
            else if s.fld (Reg.HBMC_THERM k) 23 16 + 5 ≤ temp.toNat then 2
            else if s.fld (Reg.HBMC_THERM k) 23 16 ≤ temp.toNat then 1 else 0)
        ∧ tget (fun _ => 0) t.thr (k.val / 2) = (t.ctl k).level
        ∧ (s.fld (Reg.HBMC_THERM k) 31 24 ≤ temp.toNat → Reported s t (srcRegion (k.val / 2) (2 + k.val % 2)) 0x105)

/-- R250: at the start of a period a bucket gains RATE tokens and is then capped at BURST, and each waiting class is counted
once. -/
def Sys2Proof.Claims.regulatorPeriodFillsTheBuckets : Prop :=
  ∀ (s : State) (r : Fin 4) (n : Fin 9), tget (fun _ => 0) s.thr r < 2 →
    Completes .regulatorPeriod s fun t =>
      t.tok (18 * r.val + 2 * n.val) = min (s.tok (18 * r.val + 2 * n.val) + s.fld (Reg.SC_REG_SC r n) 12 0) (s.fld (Reg.SC_REG_SC r n) 31 16)
        ∧ t.tok (18 * r.val + 2 * n.val + 1)
          = min (s.tok (18 * r.val + 2 * n.val + 1) + s.fld (Reg.SC_REG_HBM r n) 12 0) (s.fld (Reg.SC_REG_HBM r n) 31 16)
        ∧ t.short = [] ∧ t.hbm = s.hbm ∧ t.slice = s.slice
        ∧ (s.short = [9 * r.val + n.val] → t.ctr (Reg.SC_WAIT r n) = plus s (Reg.SC_WAIT r n) 1)

/-- R230, R235 to R239: the maintenance of a stack. A lane repair takes its channel out of service and back, one repair lane
fewer; without a lane the stack is lost. A soft repair takes the oldest candidate and counts as done, or as failed where the
bank has no spare row. A scrub read moves on to the next line and counts a pass at the end of the populated range. R253: a
temperature below every threshold from level 0 keeps level 0; one that reaches a threshold raises the level at once, and the
region's throttle level with it. Level 3 reports HBM_CRIT. R250: at the start of a period a bucket gains RATE tokens and is then
capped at BURST, and each waiting class is counted once. Where a clause rests on a reading or a choice of the model's own, log
entries 34 to 41 name it. -/
def Obligations.StackUpkeepAndRegulators : Prop :=
  Claims.stackMaintenance ∧ Claims.temperatureSetsTheThrottleLevel ∧ Claims.regulatorPeriodFillsTheBuckets

/-! ### Translation -/

/-- R264, R268, R277, R278: a page walk of a flat segment changes nothing; a request outside its segment, without one, or
without the right it needs, sets out as a fault of that kind with no entry read; and a level 2 entry that is not present
gives NOT_PRESENT at level 2. -/
def Sys2Proof.Claims.walksAndTheirFaults : Prop :=
  ∀ (s : State) (a : Agent) (x : Fin 64) (dva : BitVec 48) (acc : Fin 4) (pos : DWord), s.sump.fatal = false →
    (s.context x).state ≠ .free →
    let sg := dva.toNat / 2 ^ 44 % 16
    let off := dva.toNat % 2 ^ 44
    let g := s.seg x sg
    let fault (kind lvl pte : Nat) : XFault := ⟨x, kind, acc, lvl, sg, agentReq a, agentUnit a, dva.toNat, pos.toNat, pte⟩
    (g.valid = true → off < g.bytes → rights acc g.rd g.wr g.atomics = true → g.type < 2 →
      exec (.pageWalk a x dva acc pos false) s = .next s)
    ∧ (g.valid = false → Completes (.pageWalk a x dva acc pos false) s fun t =>
      t = { s with xl := { s.xl with faults := s.xl.faults ++ [fault 1 3 0] } })
    ∧ (g.valid = true → g.bytes ≤ off → Completes (.pageWalk a x dva acc pos false) s fun t =>
      t = { s with xl := { s.xl with faults := s.xl.faults ++ [fault 2 3 0] } })
    ∧ (g.valid = true → off < g.bytes → rights acc g.rd g.wr g.atomics = false →
      Completes (.pageWalk a x dva acc pos false) s fun t =>
        t = { s with xl := { s.xl with faults := s.xl.faults ++ [fault 4 3 0] } })
    ∧ (∀ d, g.valid = true → off < g.bytes → rights acc g.rd g.wr g.atomics = true → 2 ≤ g.type →
      s.xl.utlb = [] → s.xl.rtlb = [] → s.xl.walkc = [] →
      ((s.bump (Reg.RTLB_UTLB_MISS_CNT (agentRegion a))).bump (Reg.RTLB_MISS_CNT (agentRegion a))).readPte (s.ctxCls x)
        (g.base + 8 * pteIndex 2 off) = d → d.1.2 = false →
      bitOf (fieldAt d.1.1 ((g.base + 8 * pteIndex 2 off) % 128) 8) 63 = false →
      Completes (.pageWalk a x dva acc pos false) s fun t =>
        t.xl.faults = d.2.xl.faults ++ [fault 3 2 (fieldAt d.1.1 ((g.base + 8 * pteIndex 2 off) % 128) 8)]
          ∧ t.hbm = d.2.hbm ∧ t.xl.rtlb = [])

/-- R278, R280: the first fault of a context writes the record and sets FAULTED; one that arrives while FAULTED is set only
adds to MORE. A fault of the fabric receive path leaves the context as it is; another suspends a running one. -/
def Sys2Proof.Claims.faultRecords : Prop :=
  ∀ (s : State) (f : XFault) (rest : List XFault), s.sump.fatal = false → s.xl.faults = f :: rest → f.ctx < 64 →
    (f.req = 4 → s.bit (Reg.XLAT_CTX f.ctx) 0 = false → Completes (.translationFault 1) s fun t =>
      t.cfg (Reg.XLAT_FLT_W0 f.ctx) = BitVec.ofNat 32 (2 ^ 31 + f.kind * 2 ^ 24 + f.acc * 2 ^ 22 + f.lvl * 2 ^ 20
          + f.seg * 2 ^ 16 + f.req * 2 ^ 12 + f.unit)
        ∧ t.cfg (Reg.XLAT_FLT_W1 f.ctx) = BitVec.ofNat 32 f.dva ∧ t.cfg (Reg.XLAT_FLT_W3 f.ctx) = BitVec.ofNat 32 f.pos
        ∧ t.bit (Reg.XLAT_CTX f.ctx) 0 = true ∧ t.ctr Reg.XLAT_FLT_CNT = plus s Reg.XLAT_FLT_CNT 1
        ∧ t.xl.faults = rest ∧ t.ctx = s.ctx ∧ t.sump = s.sump ∧ t.hbm = s.hbm)
    ∧ (f.req = 4 → s.bit (Reg.XLAT_CTX f.ctx) 0 = true → Completes (.translationFault 1) s fun t =>
      t.cfg (Reg.XLAT_FLT_W0 f.ctx) = s.cfg (Reg.XLAT_FLT_W0 f.ctx)
        ∧ t.fld (Reg.XLAT_CTX f.ctx) 23 16 = min 255 (s.fld (Reg.XLAT_CTX f.ctx) 23 16 + 1) ∧ t.ctx = s.ctx)
    ∧ (f.req ≠ 4 → (s.context f.ctx).state = .running → Completes (.translationFault 1) s fun t =>
      (t.context f.ctx).state = .suspended ∧ (t.context f.ctx).causes = [.xlat] ∧ t.hbm = s.hbm)

/-- R264, R268, R277, R278: a page walk of a flat segment changes nothing; a request outside its segment, without one, or
without the right it needs, sets out as a fault of that kind with no entry read; and a level 2 entry that is not present gives
NOT_PRESENT at level 2. R278, R280: the first fault of a context writes the record and sets FAULTED; one that arrives while
FAULTED is set only adds to MORE. A fault of the fabric receive path leaves the context as it is; another suspends a running
one. Where a clause rests on a reading or a choice of the model's own, log entries 42 to 48 name it. -/
def Obligations.WalksAndFaultRecords : Prop :=
  Claims.walksAndTheirFaults ∧ Claims.faultRecords

/-- R282, R285: the mark of an invalidation removes every entry of the context that meets its range from the micro-TLBs, the
region TLBs and the walk caches, and every other entry stays; a ninth waits; and an invalidation whose drain has ended leaves
and is counted. Where a clause rests on a reading or a choice of the model's own, log entries 42 to 48 name it. -/
def Obligations.InvalidationMarksAndDrains : Prop :=
  ∀ (s : State) (v : Inval) (rest : List Inval), s.sump.fatal = false →
    (s.xl.invs = v :: rest → v.marked = false → (s.xl.invs.filter (·.marked)).length < 8 →
      Completes .invalidationMark s fun t =>
        (∀ k e, e ∈ tget (fun _ => []) t.xl.utlb k → e.meets v.ctx v.lo v.hi = false)
          ∧ (∀ k e, e ∈ tget (fun _ => []) t.xl.rtlb k → e.meets v.ctx v.lo v.hi = false)
          ∧ (∀ k e, e ∈ tget (fun _ => []) t.xl.walkc k → e.meets v.ctx v.lo v.hi = false)
          ∧ (∀ k e, e ∈ tget (fun _ => []) s.xl.rtlb k → e.meets v.ctx v.lo v.hi = false → e ∈ tget (fun _ => []) t.xl.rtlb k)
          ∧ (t.xl.invs.head?.map (·.marked)) = some true ∧ t.xl.invs.length = s.xl.invs.length ∧ t.hbm = s.hbm ∧ t.reg = s.reg)
    ∧ (8 ≤ (s.xl.invs.filter (·.marked)).length → exec .invalidationMark s = .next s)
    ∧ (s.xl.invs = v :: rest → v.marked = true → s.drainedInv v = true → v.cmd = none →
      Completes (.invalidationDrain 0) s fun t =>
        t.xl.invs = rest ∧ t.ctr Reg.XLAT_INV_CNT = plus s Reg.XLAT_INV_CNT 1 ∧ t.hbm = s.hbm)

/-! ### The device cache -/

namespace Sys2Proof.Claims

/-- The device cache takes requests, nothing of a line waits, and its buffers have room. -/
def DcOpen (s : State) (line : Nat) : Prop :=
  s.dc.state = .run ∧ s.hl.attach = .attached ∧ s.sump.fatal = false ∧ line ∉ s.dc.evb ∧ s.dc.wt = [] ∧ s.dc.fills = []
    ∧ s.dc.evb.length < 64

end Sys2Proof.Claims

/-- R294 to R299: a read hit delivers the line and a miss sends RdShared or RdCurr under its hint; a write merges on a hit,
leaves the core copies out, allocates nothing on a miss, and stands in the write-through buffer until the host's global
observation; a zero-line that misses installs its zeros at that observation. -/
def Sys2Proof.Claims.deviceCacheReadsAndWrites : Prop :=
  ∀ (s : State) (line : Fin 70368744177664) (cls : Fin 9), DcOpen s line →
    (∀ (a : Agent) (l : DLine) (h : Fin 4), s.dcLine line = some l → h.val ≠ 3 →
      Completes (.dcRead a line h cls .clean) s fun t =>
        t.out = s.out ++ [.memData a line l.data false] ∧ t.ctr Reg.DC_HIT_CNT = plus s Reg.DC_HIT_CNT 1
          ∧ (∀ n, (t.dcLine n).map (·.data) = (s.dcLine n).map (·.data)) ∧ t.dc.fills = [])
    ∧ (∀ a : Agent, s.dcKey line = none →
      Completes (.dcRead a line 1 cls .clean) s fun t =>
        t.out = s.out ++ [.cacheReq 0 line 0 []] ∧ t.dc.lines = s.dc.lines ∧ t.ctr Reg.DC_MISS_CNT = plus s Reg.DC_MISS_CNT 1
          ∧ t.dc.fills.map (fun f => (f.line, f.key)) = [(line.val, none)])
    ∧ (∀ (off : Fin 64) (bs : List Byte) (a : Agent) (ctx : Option (Fin 64)), bs ≠ [] → off.val + bs.length ≤ 64 →
      Completes (.dcWrite line off bs a ctx cls .clean) s fun t =>
        t.dcLine line = (s.dcLine line).map (fun l => { l with data := mergeAt l.data off bs, pres := 0 })
          ∧ (∀ n, n ≠ line.val → t.dcLine n = s.dcLine n)
          ∧ (∃ w, t.dc.wt = [w] ∧ w.line = line.val ∧ w.off = off.val ∧ w.data = bs)
          ∧ t.out = s.out ++ [.cacheReq (if bs.length = 64 then 2 else 3) line off bs])
    ∧ (s.dcKey line = none → s.dcMask cls ≠ 0 →
      Completes (.zeroLine line cls) s fun t =>
        t.dcKey line = none ∧ (∃ w i, t.dc.wt = [w] ∧ w.line = line.val ∧ w.zero = some i ∧ w.data = List.replicate 64 0#8)
          ∧ t.ctr Reg.DC_ZERO_CNT = plus s Reg.DC_ZERO_CNT 1)

/-- R295, R298, R299, R303: a line installs with the second of its chunks; the oldest write of a line is freed by its global
observation and counts; and the host's completion frees an eviction-buffer entry. -/
def Sys2Proof.Claims.deviceCacheCompletions : Prop :=
  ∀ (s : State) (line : Fin 70368744177664), s.hl.attach = .attached → s.sump.fatal = false →
    (∀ (f : Fill) (i : Nat) (lo d : List Byte), s.dc.fills = [f] → f.line = line.val → f.key = some i → f.lo = some lo →
      f.hi = none → f.agent = none → line.val ∉ s.dc.evb → d.length = 32 → tfind s.dc.lines i = none →
      Completes (.fillChunk line true d) s fun t =>
        t.dc.fills = [] ∧ tfind t.dc.lines i = some ⟨line, f.cls, f.pres, lo ++ d, f.pf⟩ ∧ t.out = s.out)
    ∧ (∀ (w : Wt) (rest : List Wt), s.dc.wt = w :: rest → w.line = line.val → w.zero = none → w.owner = .bittern → s.dc.op = none →
      Completes (.globalObservation line) s fun t =>
        t.dc.wt = rest.filter (fun v => decide (v.id ≠ w.id)) ∧ t.dc.lines = s.dc.lines
          ∧ t.ctr Reg.DC_WT_CNT = plus s Reg.DC_WT_CNT 1)
    ∧ (s.dc.evb = [line.val] → s.dc.fills = [] → s.dc.op = none →
      Completes (.cleanEvictDone line) s fun t => t.dc = { s.dc with evb := [] } ∧ t.out = s.out)

/-- R294 to R299: a read hit delivers the line and a miss sends RdShared or RdCurr under its hint; a write merges on a hit,
leaves the core copies out, allocates nothing on a miss, and stands in the write-through buffer until the host's global
observation; a zero-line that misses installs its zeros at that observation. R295, R298, R299, R303: a line installs with the
second of its chunks; the oldest write of a line is freed by its global observation and counts; and the host's completion frees
an eviction-buffer entry. Where a clause rests on a reading or a choice of the model's own, log entries 49 to 56 name it. -/
def Obligations.DeviceCacheRequests : Prop :=
  Claims.deviceCacheReadsAndWrites ∧ Claims.deviceCacheCompletions

/-- R304, R305, R308: the answers to host snoops of a line that is present and of one that is absent; SnpInv removes the line
and makes a fill in flight install nothing; the sweep of INIT leaves the cache empty and in RUN. Where a clause rests on a
reading or a choice of the model's own, log entries 49 to 56 name it. -/
def Obligations.HostSnoopsAndTheSweep : Prop :=
  ∀ (s : State) (line : Fin 70368744177664), s.hl.up = true →
    (s.dc.state ≠ .off → (s.dcKey line).isSome = true →
      (Completes (.hostSnpinv line) s fun t =>
        t.out = s.out ++ [.snpRsp line 1] ∧ tfind t.dc.lines ((s.dcKey line).getD 0) = none
          ∧ t.ctr Reg.DC_SNP_INV_CNT = plus s Reg.DC_SNP_INV_CNT 1 ∧ t.dc.evb = s.dc.evb)
      ∧ (Completes (.hostSnpdata line) s fun t => t.out = s.out ++ [.snpRsp line 2] ∧ t.dc = s.dc ∧ t.cores = s.cores)
      ∧ (Completes (.hostSnpcur line) s fun t => t.out = s.out ++ [.snpRsp line 2] ∧ t.dc = s.dc ∧ t.cores = s.cores))
    ∧ (s.dc.state ≠ .off → s.dcKey line = none →
      (Completes (.hostSnpinv line) s fun t =>
        t.out = s.out ++ [.snpRsp line 0] ∧ t.dc.lines = s.dc.lines ∧ ∀ f ∈ t.dc.fills, f.line = line.val → f.key = none)
      ∧ (Completes (.hostSnpdata line) s fun t => t.out = s.out ++ [.snpRsp line 0] ∧ t.dc = s.dc))
    ∧ (s.dc.state = .init → s.dc.op = none →
      Completes .dcInitSweep s fun t => t.dc = { s.dc with lines := [], state := .run, set := 16383 } ∧ t.out = s.out)

/-! ### Coherence -/

namespace Sys2Proof.Claims

/-- A line of HBM that its slice holds clean of poison, with no transaction on it and in DEVICE bias. -/
def Held (s : State) (line : Nat) (l : SLine) : Prop :=
  s.sump.fatal = false ∧ populated (128 * line) = true ∧ s.sLine line = some l ∧ l.poison = 0 ∧ l.data.length = 128
    ∧ s.blocked line = false ∧ s.biasStuck line = false ∧ s.hostBias line = false

/-- The epoch a core's messages carry is the current one (R328). -/
def Fresh (s : State) (c : Fin 104) (e : Byte) : Prop := s.fld (Reg.DIR_EPOCH (c.val / 26) (c.val % 26)) 7 0 = e.toNat

/-- A Grant has set out after the others, and the transaction stays open until its Ack. -/
def Granted (s t : State) (g : Grant) : Prop :=
  t.coh.grants = s.coh.grants ++ [g] ∧ (∃ u ∈ t.coh.open_, u.line = g.line ∧ u.core = some g.core ∧ u.granted = true)
    ∧ t.hbm = s.hbm ∧ t.sump = s.sump

end Sys2Proof.Claims

/-- R317 to R319, R321: requests of a core cache for a line that the slice holds and no other core cache has: RdS is granted E
with the slice's data, RdO and OwnND are granted M, an Upg of the only copy M; DirtyN makes E into M; EvC drops the copy;
WbM leaves its data dirty in the slice. -/
def Sys2Proof.Claims.coreCacheRequestsAtTheHome : Prop :=
  ∀ (s : State) (c : Fin 104) (e : Byte) (line : Fin 4294967296) (l : SLine), Held s line l → Fresh s c e →
    (s.holders line = [] →
      (∀ h : Fin 4, Completes (.rds c e (.hbm line) h .clean) s fun t => Granted s t ⟨c, line, .e, l.data, 0, 0, []⟩)
      ∧ (∀ (h : Fin 4) (off : Fin 128) (bs : List Byte), off.val + bs.length ≤ 128 →
        Completes (.rdo c e line h off bs .clean) s fun t => Granted s t ⟨c, line, .m, l.data, 0, off, bs⟩)
      ∧ (∀ (h : Fin 4) (bs : List Byte), bs.length = 128 →
        Completes (.ownnd c e line h bs) s fun t => Granted s t ⟨c, line, .m, bs, 0, 0, bs⟩))
    ∧ (∀ (k : CLine) (off : Fin 128) (bs : List Byte), s.holders line = [c.val] → (s.core c).ccLine line = some k → k.line = line.val →
      k.poison = 0 → off.val + bs.length ≤ 128 →
      (k.st = .s → Completes (.upg c e line off bs) s fun t => Granted s t ⟨c, line, .m, k.data, 0, off, bs⟩)
      ∧ (k.st = .e → Completes (.dirtyn c e line off bs) s fun t =>
        (∃ m, (t.core c).ccLine line = some m ∧ m.st = .m
          ∧ m.data = if bs.length = 128 then bs else mergeAt k.data off bs) ∧ t.slice = s.slice ∧ t.coh = s.coh)
      ∧ (k.st ≠ .m → Completes (.evc c e (.hbm line)) s fun t =>
        t.slice = s.slice ∧ t.hbm = s.hbm ∧ t.coh = s.coh
          ∧ tfind (t.core c).cc (((s.core c).ccKey line).getD 0) = none)
      ∧ (k.st = .m → Completes (.wbm c e line) s fun t =>
        t.sLine line = some { l with data := k.data, dirty := true, poison := 0 } ∧ t.hbm = s.hbm ∧ t.coh = s.coh
          ∧ tfind (t.core c).cc (((s.core c).ccKey line).getD 0) = none))

/-- R328: a message of a core cache with an epoch that is not the current one is dropped: it is counted, recorded and
reported, and no line, duplicate tag or transaction changes. -/
def Sys2Proof.Claims.staleMessagesChangeNoLine : Prop :=
  ∀ (s : State) (c : Fin 104) (e : Byte) (line : Fin 4294967296) (off : Fin 128) (bs : List Byte) (h : Fin 4) (err : SliceErr) (i : Instr),
    ¬ Fresh s c e → s.sump.fatal = false → populated (128 * line.val) = true → bs.length = 128 →
    i ∈ [.rds c e (.hbm line) h err, .rdo c e line h off bs err, .ownnd c e line h bs, .upg c e line off bs, .dirtyn c e line off bs,
      .evc c e (.hbm line), .wbm c e line] →
    Completes i s fun t =>
      t.ctr (Reg.DIR_STALE_CNT (c.val / 26)) = plus s (Reg.DIR_STALE_CNT (c.val / 26)) 1
        ∧ t.cfg (Reg.DIR_STALE (c.val / 26)) = BitVec.ofNat 32 (2 ^ 31 + c.val % 26 * 65536 + e.toNat)
        ∧ Reported s t (srcRegion (c.val / 26) 1) 0x202
        ∧ t.cores = s.cores ∧ t.slice = s.slice ∧ t.coh = s.coh ∧ t.hbm = s.hbm ∧ t.hbmBad = s.hbmBad

/-- R317 to R319, R321: requests of a core cache for a line that the slice holds and no other core cache has: RdS is granted E
with the slice's data, RdO and OwnND are granted M, an Upg of the only copy M; DirtyN makes E into M; EvC drops the copy; WbM
leaves its data dirty in the slice. R328: a message of a core cache with an epoch that is not the current one is dropped: it is
counted, recorded and reported, and no line, duplicate tag or transaction changes. Where a clause rests on a reading or a choice
of the model's own, log entries 57 to 63 name it. -/
def Obligations.CoreCacheMessages : Prop :=
  Claims.coreCacheRequestsAtTheHome ∧ Claims.staleMessagesChangeNoLine

/-- R226, R247, R324: non-caching accesses of a line that the slice holds and no core cache has: a read returns its data and
changes no data, a write of the whole line replaces it, an atomic leaves the result of its operation; and an address that is no
memory reads as poison, is reported, and changes nothing. Where a clause rests on a reading or a choice of the model's own, log
entries 57 to 63 name it. -/
def Obligations.NonCachingAccesses : Prop :=
  (∀ (s : State) (a : Agent) (n : Fin 8589934592) (l : SLine) (cls : Fin 9), Held s n l → s.holders n = [] →
    (Completes (.ncrd a none n 0 cls .clean) s fun t =>
      t.out = s.out ++ [.memData a n l.data false] ∧ (t.sLine n).map (·.data) = some l.data ∧ t.hbm = s.hbm ∧ t.cores = s.cores)
    ∧ (∀ bs : List Byte, bs.length = 128 → Completes (.ncwr a none n 0 cls 0 bs) s fun t =>
      (t.sLine n).map (fun m => (m.data, m.dirty)) = some (bs, true) ∧ t.hbm = s.hbm ∧ t.out = s.out ∧ t.cores = s.cores)
    ∧ (∀ (op : AtomOp) (off : Fin 128) (cmp : DWord) (v : List Byte), op ≠ .radd64 → off.val % 8 = 0 →
      op ≠ .fadd → op ≠ .fmin → op ≠ .fmax →
      Completes (.ncat a none n 0 cls op true off cmp v none) s fun t =>
        (t.sLine n).map (·.data) = some (atomLine op 8 off cmp.toNat v l.data).1 ∧ t.hbm = s.hbm
          ∧ t.out = s.out ++ [.memData a n (leBytes 8 (atomLine op 8 off cmp.toNat v l.data).2.1) false]
          ∧ t.ctr (Reg.SC_ATOMIC_CNT (homeOf n)) = plus s (Reg.SC_ATOMIC_CNT (homeOf n)) 1
          ∧ t.ctr (Reg.DIR_FAR_CNT (homeOf n)) = plus s (Reg.DIR_FAR_CNT (homeOf n)) 1))
  ∧ (∀ (s : State) (a : Agent) (n : Fin 8589934592) (h : Fin 4) (cls : Fin 9) (err : SliceErr), s.sump.fatal = false →
    populated (128 * n.val) = false → coreStoreAt (128 * n.val) = none → inRegFile (128 * n.val) = false →
    (Completes (.ncrd a none n h cls err) s fun t =>
      t.out = s.out ++ [.memData a n (List.replicate 128 0#8) true] ∧ Reported s t (srcRegion (agentRegion a) 0) 0x112
        ∧ t.hbm = s.hbm ∧ t.slice = s.slice)
    ∧ (∀ (off : Fin 128) (bs : List Byte), bs ≠ [] → Completes (.ncwr a none n h cls off bs) s fun t =>
      t.out = s.out ∧ Reported s t (srcRegion (agentRegion a) 0) 0x112 ∧ t.hbm = s.hbm ∧ t.slice = s.slice))

/-- R317, R320: snoops of a line with no open transaction left: under a hold SnpInv is deferred and counted and nothing moves;
without one SnpInv takes the copy away and SnpShr leaves it shared, M data reaching the slice; SnpCur changes no copy. -/
def Sys2Proof.Claims.snoopsAndHolds : Prop :=
  ∀ (s : State) (c : Fin 104) (line : Fin 4294967296) (l : SLine) (k : CLine) (kind : SnpKind),
    s.coh.snoops = [⟨c, line, kind, false⟩] → (∀ t ∈ s.coh.open_, t.line ≠ line.val) → s.sLine line = some l →
    (s.core c).ccLine line = some k → k.line = line.val → k.st = .m →
    (kind = .inv → (c.val, line.val) ∈ s.coh.holds → Completes (.snpinv c line) s fun t =>
      t.coh = { s.coh with snoops := [⟨c, line, .inv, true⟩] } ∧ t.cores = s.cores ∧ t.slice = s.slice
        ∧ t.ctr (Reg.DIR_SNP_DEFER_CNT (c.val / 26)) = plus s (Reg.DIR_SNP_DEFER_CNT (c.val / 26)) 1)
    ∧ (kind = .inv → (c.val, line.val) ∉ s.coh.holds → Completes (.snpinv c line) s fun t =>
      t.coh = { s.coh with snoops := [] } ∧ tfind (t.core c).cc (((s.core c).ccKey line).getD 0) = none
        ∧ t.sLine line = some { l with data := k.data, dirty := true, poison := k.poison })
    ∧ (kind = .shr → (c.val, line.val) ∉ s.coh.holds → Completes (.snpshr c line) s fun t =>
      t.coh = { s.coh with snoops := [] } ∧ (t.core c).ccLine line = some { k with st := .s }
        ∧ t.sLine line = some { l with data := k.data, dirty := true, poison := k.poison })
    ∧ (kind = .cur → Completes (.snpcur c line) s fun t =>
      t.coh = { s.coh with snoops := [] } ∧ t.cores = s.cores ∧ t.slice = s.slice)

/-- R318, R320, R323, R327: a Grant installs its line, with the write that asked for it, and starts a hold where it gives
ownership; the Ack closes the transaction; a hold without deferred snoops just ends; a snoop timeout is counted, reported and
fences the core; and the end of a reclamation walk that poisoned lines is reported once. -/
def Sys2Proof.Claims.grantsAcksAndTimeouts : Prop :=
  ∀ (s : State) (c : Fin 104) (line : Fin 4294967296),
    (∀ (g : Grant) (l : CLine), s.coh.grants = [g] → g.core = c.val → g.line = line.val → g.poison = 0 → g.st = .m →
      (s.core c).ccLine line = some l → l.line = line.val →
      Completes (.grant c (.hbm line)) s fun t =>
        (∃ m, (t.core c).ccLine line = some m ∧ m.st = .m
          ∧ m.data = if g.wdata.length = 128 then g.wdata else mergeAt g.data g.off g.wdata)
          ∧ t.coh.grants = [] ∧ (c.val, line.val) ∈ t.coh.acks ∧ (c.val, line.val) ∈ t.coh.holds ∧ t.hbm = s.hbm)
    ∧ (∀ e : Byte, Fresh s c e → s.coh.acks = [(c.val, line.val)] → s.coh.waiting = [] →
      Completes (.coherenceAck c e line) s fun t =>
        t = { s with coh := { s.coh with
          acks := [], open_ := s.coh.open_.filter fun u => !(decide (u.line = line.val) && decide (u.core = some c.val)) } })
    ∧ (s.coh.holds = [(c.val, line.val)] → s.coh.snoops = [] →
      Completes (.holdExpiry c line) s fun t => t = { s with coh := { s.coh with holds := [] } })
    ∧ (∀ n : Snoop, s.coh.snoops = [n] → n.core = c.val → n.line = line.val → (s.core c).ccLine line = none →
      (∀ t ∈ s.coh.open_, t.line ≠ line.val) →
      Completes (.snoopTimeout c line) s fun t =>
        t.coh.snoops = [] ∧ t.ctr (Reg.DIR_SNP_TO_CNT (c.val / 26)) = plus s (Reg.DIR_SNP_TO_CNT (c.val / 26)) 1
          ∧ Reported s t (srcRegion (c.val / 26) 1) 0x200 ∧ t.hbm = s.hbm)
    ∧ (∀ (r : Fin 4) (w : Reclaim), tfind s.coh.walk r = some w → 0 < w.poisoned →
      Completes (.reclaimWalkEnd r) s fun t => tfind t.coh.walk r = none ∧ Reported s t (srcRegion r 1) 0x201 ∧ t.hbm = s.hbm)

/-- R317, R320: snoops of a line with no open transaction left: under a hold SnpInv is deferred and counted and nothing moves;
without one SnpInv takes the copy away and SnpShr leaves it shared, M data reaching the slice; SnpCur changes no copy. R318,
R320, R323, R327: a Grant installs its line, with the write that asked for it, and starts a hold where it gives ownership; the
Ack closes the transaction; a hold without deferred snoops just ends; a snoop timeout is counted, reported and fences the core;
and the end of a reclamation walk that poisoned lines is reported once. Where a clause rests on a reading or a choice of the
model's own, log entries 57 to 63 name it. -/
def Obligations.SnoopsGrantsAndTimeouts : Prop :=
  Claims.snoopsAndHolds ∧ Claims.grantsAcksAndTimeouts

/-! ### Lists, copy engines and the Silt codecs -/

namespace Sys2Proof.Claims

/-- The list at an entry runs, and the descriptor it has reached is this one. -/
def Reached (s : State) (e : Fin 16) (n : Fin 64) (l : CList) (d : Dsc) : Prop :=
  s.list (listKey e n) = some l ∧ l.st = .running ∧ l.unit < l.units.length ∧ s.sump.fatal = false
    ∧ descAt false l.units l.unit = d

/-- What an engine needs to issue the chunk its list has reached, as R349 to R351 count it. -/
def chunkEnv (s : State) (e : Fin 16) (n : Fin 64) (l : CList) (d : Dsc) (fills : List HostFill) : ChunkEnv :=
  ⟨e, n, l, d, s.ceWho e n l, fills, l.desc % 256 * 2 ^ 56 + d.srcPos l.off l.enc % 2 ^ 56, s⟩

end Sys2Proof.Claims

/-- R337, R338, R339, R348: an engine with room accepts the list of a held ENQ and the core's next row follows; a free engine
starts its oldest list; and a descriptor whose writes are complete signals its SIG once and counts. Where a clause rests on a
reading or a choice of the model's own, log entries 64 to 72 name it. -/
def Obligations.ListsAreAcceptedStartedAndCompleted : Prop :=
  (∀ (s : State) (c : Fin 104) (e base n i : Nat), (s.core c).enq = some (e, base, n) → s.sump.fatal = false →
    (s.core c).isolated = false → (s.core c).pwr = .run → s.listRoom e ((s.core c).ctx.getD 0) n = some i →
    (s.core c).row + 1 < (s.core c).rows →
    Completes (.listAccept c []) s fun t =>
      (∃ l, t.list (listKey e i) = some l ∧ l.ctx = (s.core c).ctx.getD 0 ∧ l.st = .accepted ∧ l.id = s.nextList
        ∧ l.units = unitsOf ((s.core c).bytes base (32 * n)) (fun u => (s.core c).poisoned (base + 32 * u) 32) n 0)
        ∧ (∀ k, k ≠ listKey e i → t.list k = s.list k) ∧ (t.core c).enq = none ∧ (t.core c).row = (s.core c).row + 1
        ∧ t.pegs = s.pegs ∧ t.hbm = s.hbm)
  ∧ (∀ (s : State) (e : Fin 20) (k : Nat) (l : CList), s.nextStart e = some (k, l) → s.sump.fatal = false →
    ((s.engLists e).filter fun q => decide (q.2.st = .running ∨ q.2.st = .gated)).length < runLimit e →
    Completes (.listStart e) s fun t =>
      t.list k = some { l with st := .running, status := 0 } ∧ (∀ j, j ≠ k → t.list j = s.list j) ∧ t.hbm = s.hbm)
  ∧ (∀ (s : State) (e : Fin 20) (n : Fin 64) (desc : Byte) (l : CList) (p : Nat), s.list (listKey e n) = some l →
    l.fins = [⟨desc.toNat, some p⟩] → desc.toNat ∉ l.sigged → s.descQuiet (listKey e n) l desc.toNat = true →
    s.sump.fatal = false → l.unit < l.units.length → l.st = .running →
    Completes (.descriptorComplete e n desc) s fun t =>
      t.pegOps = s.pegOps ++ [(p, .signal 1)] ∧ t.pegs = s.pegs
        ∧ t.list (listKey e n) = some { l with fins := [], sigged := l.sigged ++ [desc.toNat] }
        ∧ t.ctr (State.ceCnt e 0) = plus s (State.ceCnt e 0) (b2n (decide (e.val < 16))) ∧ t.hbm = s.hbm)

/-- R344, R349 to R351, R365: NOP and FENCE descriptors issue at once, a FENCE holding later writes; a copy engine's chunk that
goes through moves the list on by what it did and leaves memory as the chunk left it; and one that stops aborts the list. The
fields of the list follow from what the chunk reports. Where a clause rests on a reading or a choice of the model's own, log
entries 64 to 72 name it. -/
def Obligations.DescriptorsRunInChunks : Prop :=
  ∀ (s : State) (e : Fin 16) (n : Fin 64) (l : CList) (d : Dsc), Reached s e n l d → l.open_ = true →
    (∀ (c : Instr) (ty : Nat), (c, ty) ∈ [(.nopDescriptor (e.castLE (by decide)) n, 0x00), (.fenceDescriptor (e.castLE (by decide)) n, 0x01)] →
      d.ty = ty →
      Completes c s fun t =>
        (∃ m, t.list (listKey e n) = some m ∧ m.desc = l.desc + 1 ∧ m.unit = l.unit + d.n ∧ m.open_ = false
          ∧ m.hold = (l.hold || decide (ty = 1)) ∧ (m.fins.map (·.desc)) = l.fins.map (·.desc) ++ [l.desc])
          ∧ t.hbm = s.hbm ∧ t.slice = s.slice ∧ t.pegOps = s.pegOps)
    ∧ (∀ (c : Instr) (ty : Nat) (fills : List HostFill) (r : ChunkOk) (s' : State),
      (c, ty) ∈ [(.copy e n 1 fills, 0x02), (.atomic e n fills, 0x08), (.convert e n 1 fills, 0x10), (.siltLEnc e n 1 fills, 0x18),
        (.siltLDec e n 1 fills, 0x19), (.siltZEnc e n 1 fills, 0x1A), (.siltZDec e n 1 fills, 0x1B), (.siltQEnc e n 1 fills, 0x1C),
        (.siltQDec e n 1 fills, 0x1D)] ∨ (fills = [] ∧ (c, ty) ∈ [(.zero e n 1, 0x03), (.inline e n, 0x04)]) →
      d.ty = ty → l.off < d.extent → l.hold = false → s.ceChunk (chunkEnv s e n l d fills) = (.ok r, s') →
      (∀ w ∈ s'.dc.wt, w.id < s.dc.nextId) →
      Completes c s fun t =>
        (∃ m, t.list (listKey e n) = some m ∧ m.done = l.done + r.units ∧ m.issued = l.issued + r.units
          ∧ m.flags = l.flags ||| r.flags ∧ m.pend = l.pend
          ∧ (r.off < d.extent → m.off = r.off ∧ m.desc = l.desc ∧ m.rng = r.rng)
          ∧ (d.extent ≤ r.off → m.desc = l.desc + 1 ∧ m.unit = l.unit + d.n ∧ m.off = 0))
          ∧ t.hbm = s'.hbm ∧ t.slice = s'.slice ∧ t.cores = s'.cores ∧ t.dc = s'.dc)
    ∧ (∀ (fills : List HostFill) (st : Nat) (s' : State), d.ty = 0x02 → l.off < d.extent → l.hold = false →
      s.ceChunk (chunkEnv s e n l d fills) = (.stop st, s') →
      Completes (.copy e n 1 fills) s fun t => t.hbm = s'.hbm ∧ t.slice = s'.slice
        ∧ ∀ m, t.list (listKey e n) = some m → m.st = .ending ∧ m.status = st)

/-- R354 to R356: the Silt-L codec is lossless. A frame of at most 4,096 bytes, a whole number of elements, decodes from its
coded groups to exactly its bytes, whatever follows, and no group is longer than its raw form. -/
def Sys2Proof.Claims.siltLRoundTrips : Prop :=
  ∀ (fmt left : Nat) (bs rest : List Byte), fmt ≤ 4 → bs.length ≤ 4096 → bs.length % siltLWidth fmt = 0 →
    (siltLFrame fmt 65 bs).length ≤ left →
    siltLUnframe fmt 65 bs.length left (siltLFrame fmt 65 bs ++ rest) = .ok bs (siltLFrame fmt 65 bs).length
      ∧ (siltLFrame fmt 65 bs).length ≤ bs.length + (bs.length + 63) / 64

/-- R357: the Silt-Z codec is lossless on frames of whole 8-byte words, and its stream is at most one byte longer for each
1,024 bytes or part of them. -/
def Sys2Proof.Claims.siltZRoundTrips : Prop :=
  ∀ (left : Nat) (bs rest : List Byte), bs.length ≤ 4096 → bs.length % 8 = 0 → (siltZFrame bs).length ≤ left →
    siltZUnframe 513 (bs.length / 8) left (siltZFrame bs ++ rest) = .ok bs (siltZFrame bs).length
      ∧ (siltZFrame bs).length ≤ bs.length + (bs.length + 1023) / 1024

/-- R354 to R356: the Silt-L codec is lossless. A frame of at most 4,096 bytes, a whole number of elements, decodes from its
coded groups to exactly its bytes, whatever follows, and no group is longer than its raw form. R357: the Silt-Z codec is
lossless on frames of whole 8-byte words, and its stream is at most one byte longer for each 1,024 bytes or part of them. Where
a clause rests on a reading or a choice of the model's own, log entries 64 to 72 name it. -/
def Obligations.SiltCodecsAreLossless : Prop :=
  Claims.siltLRoundTrips ∧ Claims.siltZRoundTrips

/-! ### Lodes -/

namespace Sys2Proof.Claims

/-- Only one lode, registers, the fabric's connections, the fault messages and what leaves the device may differ. -/
def LodeOnly (s t : State) (l : Nat) : Prop :=
  t = { s with lodes := t.lodes, reg := t.reg, fab := t.fab, sump := t.sump, out := t.out, hl := t.hl }
    ∧ ∀ m, m ≠ l → t.lode m = s.lode m

/-- A lode outside the fatal state, in one of the states of R379. -/
def LodeIn (s : State) (l : Fin 16) (st : LodeState) : Prop := s.sump.fatal = false ∧ (s.lode l).state = st

/-- A lode's session has ended (R406): keys, numbers and held blocks are gone. -/
def NoSession (k : LodeSt) : Prop := k.session = false ∧ k.txKey = 0 ∧ k.rxKey = 0 ∧ k.replay = [] ∧ k.partner = none

/-- The lode is quarantined with a cause: counted, recorded, reported, its session ended. -/
def Quarantined (s t : State) (l : Fin 16) (cause : Nat) : Prop :=
  (t.lode l).state = .quarantine ∧ NoSession (t.lode l) ∧ t.fld (Reg.LODE_QSTS l) 30 28 = cause
    ∧ t.ctr (Reg.LODE_QUAR_CNT l) = plus s (Reg.LODE_QUAR_CNT l) 1 ∧ Reported s t (srcRegion (l.val / 4) (4 + l.val % 4)) 0x400

end Sys2Proof.Claims

/-- R379, R380, R381, R405: what moves a lode between its states outside ACTIVE. A probe burst doubles the interval up to MAX
and is counted; light starts training; a locked lane is marked; TRAIN_INFO sets the transmit width and completes training; a
training that takes too long is counted and probes again; domain power and ENABLE lead from OFF to PROBE, and a dark lode that
is not enabled is switched off; a hold that is not latched ends in PROBE; and the windows of R405 start and age. Where a clause
rests on a reading or a choice of the model's own, log entries 73 to 87 name it. -/
def Obligations.LodeStatesMove : Prop :=
  (∀ (s : State) (l : Fin 16), LodeIn s l .probe →
    (Completes (.probeBurst l) s fun t =>
      t.lode l = { s.lode l with
        backoff := min (max (max 1 (s.fld (Reg.LODE_BACKOFF l) 15 0)) (s.fld (Reg.LODE_BACKOFF l) 31 16)) (2 * (s.lode l).backoff) }
        ∧ t.out = s.out ++ [.burst l] ∧ t.ctr (Reg.LODE_PROBE_CNT l) = plus s (Reg.LODE_PROBE_CNT l) 1 ∧ LodeOnly s t l)
    ∧ (s.sedge.state ≠ .error → s.sedge.state ≠ .decommissioned → Completes (.lightDetect l) s fun t =>
      (t.lode l).state = .train ∧ (t.lode l).fresh = true ∧ (t.lode l).txw = 0 ∧ (t.lode l).rxw = 0 ∧ LodeOnly s t l
        ∧ t.out = s.out ∧ t.reg = s.reg))
  ∧ (∀ (s : State) (l : Fin 16) (n : Fin 8), LodeIn s l .train →
    (Completes (.receiveLaneLock l n) s fun t =>
      (∀ m, bitOf (t.lode l).lock m = (decide (m = n.val) || bitOf (s.lode l).lock m)) ∧ (t.lode l).state = .train
        ∧ t = { s with lodes := t.lodes, rst := t.rst } ∧ ∀ m, m ≠ l.val → t.lode m = s.lode m)
    ∧ (∀ (b : Nat) (rest : List (Nat × Nat)), (s.lode l).inbox = (6, b) :: rest → (s.lode l).infoTx = true →
      Completes (.trainInfo l) s fun t =>
        (t.lode l).state = (if (s.lode l).fresh then LodeState.auth else .active) ∧ (t.lode l).txw = bitsOf b 119 118
          ∧ (t.lode l).txg = bitsOf b 117 116 ∧ (t.lode l).replay = (s.lode l).replay ∧ (t.lode l).e = (s.lode l).e
          ∧ ((s.lode l).fresh = false → (t.lode l).resend = (s.lode l).replay.map (·.n)) ∧ LodeOnly s t l)
    ∧ ((s.lode l).retrains < s.fld (Reg.LODE_QCTL1 l) 15 8 → Completes (.trainTimeout l) s fun t =>
      (t.lode l).state = .probe ∧ NoSession (t.lode l) ∧ LodeOnly s t l
        ∧ t.ctr (Reg.LODE_RETRAIN_CNT l) = plus s (Reg.LODE_RETRAIN_CNT l) 1)
    ∧ (s.fld (Reg.LODE_QCTL1 l) 15 8 ≤ (s.lode l).retrains → Completes (.trainTimeout l) s fun t => Quarantined s t l 4))
  ∧ (∀ (s : State) (l : Fin 16),
    (LodeIn s l .off → s.rst.ready = true → s.bit (Reg.LODE_CTL l) 0 = true → Completes (.lodeDomainOn l) s fun t =>
      (t.lode l).state = .probe ∧ (t.lode l).backoff = max 1 (s.fld (Reg.LODE_BACKOFF l) 15 0) ∧ LodeOnly s t l)
    ∧ (LodeIn s l .dark → s.bit (Reg.LODE_CTL l) 0 = false → Completes (.lodePowerDown l) s fun t =>
      t.lode l = { s.lode l with state := .off } ∧ LodeOnly s t l ∧ t.out = s.out)
    ∧ (LodeIn s l .quarantine → Completes (.quarantineHoldEnd l) s fun t =>
      ((s.lode l).latched = true → t = s) ∧ ((s.lode l).latched = false → (t.lode l).state = .probe ∧ LodeOnly s t l))
    ∧ (Completes (.quarantineWindow l) s fun t =>
      t.lode l = { s.lode l with ue := 0, tag := 0, bad := 0, retrains := 0 } ∧ LodeOnly s t l ∧ t.out = s.out)
    ∧ (Completes (.quarantineAgeOut l) s fun t =>
      t.lode l = { s.lode l with qcnt := (s.lode l).qcnt - 1 } ∧ LodeOnly s t l ∧ t.out = s.out))

/-- R402, R624: a fragment in its turn is put behind those before it; the initiator's last message completes the responder's
exchange; keys, once installed, make the lode ACTIVE with a fresh session and its partner's identity; a timeout is a failure,
which is counted and probes again, or quarantines at AUTH_TH. Where a clause rests on a reading or a choice of the model's own,
log entries 73 to 87 name it. -/
def Obligations.AuthenticationMakesASession : Prop :=
  ∀ (s : State) (l : Fin 16), LodeIn s l .auth → s.sedge.state ≠ .selftest →
    (∀ (msg : AuthMsg) (b len : Nat) (rest : List (Nat × Nat)) (bs : List Byte), (s.lode l).inbox = (7, b) :: rest →
      bitsOf b 127 120 = (s.lode l).authFrag → bitsOf b 119 112 = len → 1 ≤ len → len ≤ 14 → b % 2 ^ 112 < 2 ^ (8 * len) →
      ((s.lode l).authFrag = 0 → 3 ≤ len) → bs = (s.lode l).authIn ++ leBytes len (b % 2 ^ 112) → ofLe (bs.take 2) ≤ 3000 →
      (bs.length < 3 + ofLe (bs.take 2) → Completes (.auth l msg) s fun t =>
        (t.lode l).authIn = bs ∧ (t.lode l).authFrag = (s.lode l).authFrag + 1 ∧ (t.lode l).inbox = rest ∧ LodeOnly s t l)
      ∧ (bs.length = 3 + ofLe (bs.take 2) → msg = .kemFin true → (s.lode l).authStep = 2 → (s.lode l).authDone = false →
        Completes (.auth l msg) s fun t =>
          (t.lode l).authDone = true ∧ (t.lode l).authIn = [] ∧ (t.lode l).authFrag = 0 ∧ (t.lode l).state = .auth ∧ LodeOnly s t l)
      ∧ (bs.length = 3 + ofLe (bs.take 2) → msg = .cert false false 0#18 → (s.lode l).authStep = 0 →
        (s.lode l).authFails + 1 < max 1 (s.fld (Reg.LODE_QCTL1 l) 3 0) → Completes (.auth l msg) s fun t =>
          (t.lode l).state = .probe ∧ t.ctr (Reg.LODE_AUTH_FAIL_CNT l) = plus s (Reg.LODE_AUTH_FAIL_CNT l) 1 ∧ LodeOnly s t l))
    ∧ ((s.lode l).authDone = true → s.sedgeServes = true → Completes (.keysInstalled l) s fun t =>
      (t.lode l).state = .active ∧ (t.lode l).session = true ∧ (t.lode l).partner = (s.lode l).peer ∧ (t.lode l).n = 0
        ∧ (t.lode l).e = 0 ∧ (t.lode l).cctrTx = 0 ∧ (t.lode l).txKey = s.sedge.nextKey ∧ (t.lode l).rxKey = s.sedge.nextKey + 1
        ∧ t.ctr Reg.SEDGE_KEM_CNT = plus s Reg.SEDGE_KEM_CNT 1 ∧ ∀ m, m ≠ l.val → t.lode m = s.lode m)
    ∧ ((s.lode l).authFails + 1 < max 1 (s.fld (Reg.LODE_QCTL1 l) 3 0) → Completes (.authTimeout l) s fun t =>
      (t.lode l).state = .probe ∧ NoSession (t.lode l) ∧ t.ctr (Reg.LODE_AUTH_FAIL_CNT l) = plus s (Reg.LODE_AUTH_FAIL_CNT l) 1
        ∧ LodeOnly s t l)
    ∧ (max 1 (s.fld (Reg.LODE_QCTL1 l) 3 0) ≤ (s.lode l).authFails + 1 → Completes (.authTimeout l) s fun t => Quarantined s t l 5)

/-- R386, R391, R401: blocks that arrive on an ACTIVE lode. A data block numbered E whose tag verifies is accepted, its packet
reaches the region, and E rises; a duplicate is counted only; another number, and a block that cannot be corrected, sets NAK;
a control block whose CCTR rises has its messages kept, one whose CCTR does not is counted only, and one with a bad tag is
counted, and quarantines past TAG_TH. A training block is taken in AUTH. -/
def Sys2Proof.Claims.blocksArriveInOrder : Prop :=
  (∀ (s : State) (l : Fin 16) (h : BitVec 40) (due : Bool), LodeIn s l .active → bitsOf h.toNat 7 0 ≤ fillMax (s.lode l).rxw →
    bitOf h.toNat 9 = false →
    (∀ (ok : Bool) (slots : List Byte), bitsOf h.toNat 39 38 = 0 →
      (bitsOf h.toNat 37 24 = (s.lode l).e % 2 ^ 14 → ok = true → Completes (.dataBlock l h [] ok due slots) s fun t =>
        (t.lode l).e = (s.lode l).e + 1 ∧ (t.lode l).nak = false ∧ (t.lode l).state = .active ∧ LodeOnly s t l
          ∧ ∀ p, pktsOf 39 (slots.take 624) = ([p], false) →
            tget (fun _ => []) t.fab.rx (p.dstConn / 1024) = tget (fun _ => []) s.fab.rx (p.dstConn / 1024) ++ [(some l.val, p)])
      ∧ (∀ d, 1 ≤ d → d ≤ 8191 → d ≤ (s.lode l).e → bitsOf h.toNat 37 24 = ((s.lode l).e - d) % 2 ^ 14 →
        Completes (.dataBlock l h [] ok due slots) s fun t =>
          t.lode l = s.lode l ∧ t.fab = s.fab ∧ t.ctr (Reg.LODE_DUP_CNT l) = plus s (Reg.LODE_DUP_CNT l) 1 ∧ LodeOnly s t l)
      ∧ (∀ d, 1 ≤ d → d ≤ 8192 → bitsOf h.toNat 37 24 = ((s.lode l).e + d) % 2 ^ 14 → Completes (.dataBlock l h [] ok due slots) s fun t =>
        (t.lode l).nak = true ∧ (t.lode l).e = (s.lode l).e ∧ t.fab = s.fab ∧ LodeOnly s t l))
    ∧ (∀ (c : DWord) (ms : List (Word × QWord)), bitsOf h.toNat 39 38 = 1 → c.toNat < 2 ^ 63 → ms.length ≤ 30 →
      ((∀ x, (s.lode l).cctrRx = some x → x < c.toNat) → (∀ m ∈ ms, State.msgOk true false m.1 m.2 = true ∧ m.1 ≠ 0#32) →
        Completes (.controlBlock l h [] true due c ms) s fun t =>
          (t.lode l).cctrRx = some c.toNat ∧ (t.lode l).inbox = (s.lode l).inbox ++ ms.map (fun m => (m.1.toNat, m.2.toNat))
            ∧ (t.lode l).e = (s.lode l).e ∧ LodeOnly s t l)
      ∧ (∀ (ok : Bool) (x : Nat), (s.lode l).cctrRx = some x → c.toNat ≤ x → Completes (.controlBlock l h [] ok due c ms) s fun t =>
        t.lode l = s.lode l ∧ t.ctr (Reg.LODE_DUP_CNT l) = plus s (Reg.LODE_DUP_CNT l) 1 ∧ LodeOnly s t l)
      ∧ ((∀ x, (s.lode l).cctrRx = some x → x < c.toNat) → s.fld (Reg.LODE_QCTL1 l) 31 24 ≤ (s.lode l).tag →
        Completes (.controlBlock l h [] false due c ms) s fun t => Quarantined s t l 2)))
  ∧ (∀ (s : State) (l : Fin 16) (h : BitVec 40) (errs : List (Fin 544)) (ok due : Bool) (slots : List Byte), LodeIn s l .active →
    bitsOf h.toNat 39 38 = 0 → 7 < ((errs.map (·.val)).eraseDups.filter fun i => decide (i % 2 = 0)).length →
    (s.lode l).ue < s.fld (Reg.LODE_QCTL0 l) 31 16 → Completes (.dataBlock l h errs ok due slots) s fun t =>
      (t.lode l).nak = true ∧ (t.lode l).e = (s.lode l).e ∧ t.fab = s.fab
        ∧ t.ctr (Reg.LODE_UE_BLK_CNT l) = plus s (Reg.LODE_UE_BLK_CNT l) 1 ∧ LodeOnly s t l)
  ∧ (∀ (s : State) (l : Fin 16) (h : BitVec 40) (ms : List (Word × QWord)), LodeIn s l .auth → bitsOf h.toNat 39 38 = 2 →
    bitsOf h.toNat 7 0 ≤ fillMax (s.lode l).rxw → ms.length ≤ 30 → (∀ m ∈ ms, State.msgOk false false m.1 m.2 = true ∧ m.1 ≠ 0#32) →
    Completes (.trainingBlock l h [] ms) s fun t =>
      (t.lode l).inbox = (s.lode l).inbox ++ ms.map (fun m => (m.1.toNat, m.2.toNat)) ∧ LodeOnly s t l)

/-- R391, R392: the next block of an ACTIVE lode is a control block with the Round mark in its first message, then one with the
pending messages, then a held block byte for byte as it was first sent; NAK stays for one more RTT_MAX and then clears; an ACK
that does not move sends the held blocks again, and the eighth such timeout retrains, keeping keys, numbers and replay buffer
(R399), as a lost header does. -/
def Sys2Proof.Claims.blocksLeaveAndAreSentAgain : Prop :=
  ∀ (s : State) (l : Fin 16), LodeIn s l .active →
    ((s.lode l).setDue = false →
      (∀ m, (s.lode l).mark = some m → Completes (.blockBoundary l none) s fun t =>
        (∃ h key, t.out = s.out ++ [.block l (s.lode l).txw (s.lode l).txg h
          (leBytes 8 (s.lode l).cctrTx ++ msgsBytes ((1, m) :: (s.lode l).msgs.take 29) ++ List.replicate 16 0#8) key (s.lode l).cctrTx])
          ∧ (t.lode l).mark = none ∧ (t.lode l).msgs = (s.lode l).msgs.drop 29 ∧ (t.lode l).cctrTx = (s.lode l).cctrTx + 1 ∧ LodeOnly s t l)
      ∧ (∀ (n : Nat) (rest : List Nat) (b : Blk), (s.lode l).mark = none → (s.lode l).msgs = [] → (s.lode l).resend = n :: rest →
        (s.lode l).replay.find? (fun b => decide (b.n = n)) = some b → Completes (.blockBoundary l none) s fun t =>
          t.out = s.out ++ [.block l (s.lode l).txw (s.lode l).txg b.header b.slots b.key b.n]
            ∧ t.lode l = { s.lode l with resend := rest } ∧ LodeOnly s t l))
    ∧ (Completes (.nakTimeout l) s fun t =>
      (t.lode l).nak = ((s.lode l).nak && !(s.lode l).nakAgain) ∧ ((s.lode l).nak = true → (t.lode l).nakAgain = !(s.lode l).nakAgain)
        ∧ (t.lode l).e = (s.lode l).e ∧ LodeOnly s t l)
    ∧ ((s.lode l).replay ≠ [] → (s.lode l).timeouts < 7 → Completes (.replayTimeout l) s fun t =>
      (t.lode l).resend = (s.lode l).replay.map (·.n) ∧ (t.lode l).replay = (s.lode l).replay ∧ (t.lode l).state = .active
        ∧ (t.lode l).timeouts = (s.lode l).timeouts + 1 ∧ t.ctr (Reg.LODE_RETRY_CNT l) = plus s (Reg.LODE_RETRY_CNT l) 1 ∧ LodeOnly s t l)
    ∧ (∀ c : Instr, c = .headerLoss l ∨ (c = .replayTimeout l ∧ (s.lode l).replay ≠ [] ∧ (s.lode l).timeouts = 7) →
      (s.lode l).retrains < s.fld (Reg.LODE_QCTL1 l) 15 8 → Completes c s fun t =>
        (t.lode l).state = .train ∧ (t.lode l).fresh = false ∧ (t.lode l).replay = (s.lode l).replay ∧ (t.lode l).e = (s.lode l).e
          ∧ (t.lode l).txKey = (s.lode l).txKey ∧ (t.lode l).rxKey = (s.lode l).rxKey ∧ (t.lode l).n = (s.lode l).n
          ∧ t.ctr (Reg.LODE_RETRAIN_CNT l) = plus s (Reg.LODE_RETRAIN_CNT l) 1 ∧ LodeOnly s t l)

/-- R386, R391, R401: blocks that arrive on an ACTIVE lode. A data block numbered E whose tag verifies is accepted, its packet
reaches the region, and E rises; a duplicate is counted only; another number, and a block that cannot be corrected, sets NAK; a
control block whose CCTR rises has its messages kept, one whose CCTR does not is counted only, and one with a bad tag is
counted, and quarantines past TAG_TH. A training block is taken in AUTH. R391, R392: the next block of an ACTIVE lode is a
control block with the Round mark in its first message, then one with the pending messages, then a held block byte for byte as
it was first sent; NAK stays for one more RTT_MAX and then clears; an ACK that does not move sends the held blocks again, and
the eighth such timeout retrains, keeping keys, numbers and replay buffer (R399), as a lost header does. Where a clause rests on
a reading or a choice of the model's own, log entries 73 to 87 name it. -/
def Obligations.BlocksArriveAndLeave : Prop :=
  Claims.blocksArriveInOrder ∧ Claims.blocksLeaveAndAreSentAgain

/-- R389, R394 to R398, R403, R407: messages and width changes of an ACTIVE lode. A DELAY_REQ is answered; a KEY_SWITCH names
the numbers of the next receive key; a notice of quarantine changes nothing else; a WIDTH_REQ and a dark laser move the
transmitter and a marker set the receiver; a lane that is lost or degraded asks for the width that the others allow, with NAK
set; lanes that are not usable are retrained and one that passes is usable again; and a request without its markers is sent
again. Where a clause rests on a reading or a choice of the model's own, log entries 73 to 87 name it. -/
def Obligations.MessagesAndWidths : Prop :=
  ∀ (s : State) (l : Fin 16), LodeIn s l .active →
    (∀ (b : Nat) (rest : List (Nat × Nat)) (t2 t3 : BitVec 56), (s.lode l).inbox = (2, b) :: rest → Completes (.delayReq l t2 t3) s fun t =>
      (t.lode l).msgs = (s.lode l).msgs ++ [(3, bitsOf b 127 112 * 2 ^ 112 + t2.toNat * 2 ^ 56 + t3.toNat)] ∧ (t.lode l).inbox = rest
        ∧ LodeOnly s t l)
    ∧ (∀ (b : Nat) (rest : List (Nat × Nat)), (s.lode l).inbox = (5, b) :: rest → Completes (.keySwitch l) s fun t =>
      (t.lode l).rxNext = some ⟨s.sedge.nextKey, bitsOf b 127 64, bitsOf b 63 0⟩ ∧ (t.lode l).rxKey = (s.lode l).rxKey
        ∧ (t.lode l).inbox = rest ∧ t.sedge = { s.sedge with nextKey := s.sedge.nextKey + 1 } ∧ t.reg = s.reg)
    ∧ (∀ (b : Nat) (rest : List (Nat × Nat)), (s.lode l).inbox = (8, b) :: rest → Completes (.quarantineNotice l) s fun t =>
      t.lode l = { s.lode l with inbox := rest } ∧ LodeOnly s t l ∧ t.reg = s.reg)
    ∧ (∀ (b : Nat) (rest : List (Nat × Nat)), (s.lode l).inbox = (4, b) :: rest → (s.lode l).txw < bitsOf b 127 126 →
      Completes (.widthReq l) s fun t =>
        (t.lode l).txw = bitsOf b 127 126 ∧ (t.lode l).txg = bitsOf b 125 124 ∧ (t.lode l).setDue = true ∧ (t.lode l).inbox = rest
          ∧ (t.lode l).resend = (s.lode l).replay.map (·.n) ∧ t.ctr (Reg.LODE_NARROW_CNT l) = plus s (Reg.LODE_NARROW_CNT l) 1
          ∧ LodeOnly s t l)
    ∧ (∀ (w : Fin 4) (g : Fin 8), groupOk w g = true → Completes (.markerSet l w g false) s fun t =>
      (t.lode l).rxw = w ∧ (t.lode l).rxg = g ∧ (t.lode l).e = (s.lode l).e ∧ LodeOnly s t l
        ∧ ((s.lode l).rxw < w → t.ctr (Reg.LODE_NARROW_CNT l) = plus s (Reg.LODE_NARROW_CNT l) 1
          ∧ Reported s t (srcRegion (l.val / 4) (4 + l.val % 4)) 0x401)
        ∧ (w < (s.lode l).rxw → t.ctr (Reg.LODE_WIDEN_CNT l) = plus s (Reg.LODE_WIDEN_CNT l) 1)
        ∧ ((s.lode l).want = some (w.val, g.val) → (t.lode l).want = none))
    ∧ (∀ (c : Instr) (n : Fin 8) (k : LodeSt) (w g : Nat),
      (c = .laneLockLoss l n ∧ k = { s.lode l with lock := clearBitIn (s.lode l).lock n })
        ∨ (c = .laneDegraded l n ∧ k = { s.lode l with degraded := setBitIn (s.lode l).degraded n }) →
      k.lock ≠ 0 → n.val ∈ groupLanes k.rxw k.rxg → chooseWidth k.usable (s.fld (Reg.LODE_CTL l) 5 4) = some (w, g) →
      Completes c s fun t =>
        (t.lode l).nak = true ∧ (t.lode l).want = some (w, g) ∧ (t.lode l).asks = 1 ∧ (t.lode l).lock = k.lock
          ∧ (t.lode l).degraded = k.degraded ∧ (∃ b, (t.lode l).msgs = (s.lode l).msgs ++ [(4, b)] ∧ bitsOf b 127 126 = w % 4)
          ∧ (t.lode l).state = .active ∧ LodeOnly s t l)
    ∧ (∀ n : Fin 8, (s.lode l).txw = 0 → (s.lode l).txg = 0 → Completes (.laserMonitorLow l n) s fun t =>
      (t.lode l).txw = 1 ∧ n.val ∉ groupLanes 1 (t.lode l).txg ∧ (t.lode l).resend = (s.lode l).replay.map (·.n) ∧ LodeOnly s t l)
    ∧ (Completes (.laneRetry l) s fun t => t.lode l = { s.lode l with trying := 255 - (s.lode l).usable } ∧ LodeOnly s t l)
    ∧ (∀ n : Fin 8, bitOf (s.lode l).trying n = true → bitOf (s.lode l).lock n = true → Completes (.lanePass l n) s fun t =>
      bitOf (t.lode l).trying n = false ∧ bitOf (t.lode l).degraded n = false ∧ (t.lode l).lock = (s.lode l).lock
        ∧ (t.lode l).rxw = (s.lode l).rxw ∧ LodeOnly s t l)
    ∧ (∀ (w g : Nat), (s.lode l).want = some (w, g) → (s.lode l).asks < 4 → Completes (.widthReqTimeout l) s fun t =>
      (t.lode l).asks = (s.lode l).asks + 1 ∧ (t.lode l).want = some (w, g)
        ∧ (t.lode l).msgs.length = (s.lode l).msgs.length + 1 ∧ LodeOnly s t l)

namespace Sys2Proof.Claims

/-- A command of a slot with an opcode waits for Bittern, which serves; `c` is its record. -/
def Waiting (s : State) (src : CmdSrc) (op : Nat) (c : Cmd) : Prop :=
  s.sump.fatal = false ∧ s.bitternUp = true
    ∧ s.vci.cmds.find? (fun d => decide (d.src = src) && decide (d.opcode = op) && !d.ran) = some c

/-- The row runs, and its command completes with a status and two results; `P` says what else the row did before the record
was written. -/
def Answers (i : Instr) (s : State) (c : Cmd) (status : Nat) (P : State → Prop) (r0 r1 : Nat := 0) : Prop :=
  ∃ (u : State) (detail flags : Nat), exec i s = .next (u.complete c status detail flags r0 r1) ∧ P u

end Sys2Proof.Claims

/-- R377, R405, R408, R495: the commands of LODE_CTL. An enable lights a dark lode; a disable puts the lode out at once, its
session ended, and completes when it has drained; a release frees a latched quarantine; a set writes MINW, TXSET and MARK_TX
while the lode is not enabled; and MINW 0b11 is refused with E_STATE and CFG_ERR, nothing written. -/
def Sys2Proof.Claims.lodeCommands : Prop :=
  ∀ (s : State) (src : CmdSrc) (c : Cmd) (l : Fin 16), Waiting s src 0x000A c → c.par 0 1 = l →
    (c.par 1 1 = 1 → (s.lode l).disable = none → (s.lode l).state = .dark → s.fld (Reg.LODE_CTL l) 5 4 ≠ 3 →
      Answers (.lodeEnable src) s c 0 fun u =>
        (u.lode l).state = .probe ∧ u.bit (Reg.LODE_CTL l) 0 = true ∧ u.vci = s.vci ∧ u.out = s.out ∧ LodeOnly s u l)
    ∧ (c.par 1 1 = 0 → (s.lode l).state = .active → s.fld (Reg.LODE_CTL l) 5 4 ≠ 3 → Completes (.lodeDisable src) s fun t =>
      (t.lode l).state = .dark ∧ NoSession (t.lode l) ∧ (t.lode l).disable = some c ∧ t.bit (Reg.LODE_CTL l) 0 = false
        ∧ ∀ m, m ≠ l.val → t.lode m = s.lode m)
    ∧ (c.par 1 1 = 2 → (s.lode l).state = .quarantine → (s.lode l).latched = true → Answers (.lodeRelease src) s c 0 fun u =>
      (u.lode l).state = .dark ∧ (u.lode l).latched = false ∧ (u.lode l).qcnt = 0 ∧ u.vci = s.vci ∧ LodeOnly s u l)
    ∧ (c.par 1 1 = 3 → s.bit (Reg.LODE_CTL l) 0 = false → (s.lode l).state = .dark →
      (bitsOf (c.par 2 1) 5 4 ≠ 3 → Answers (.lodeSet src) s c 0 fun u =>
        u.fld (Reg.LODE_CTL l) 5 4 = bitsOf (c.par 2 1) 5 4 ∧ u.fld (Reg.LODE_CTL l) 2 1 = bitsOf (c.par 2 1) 2 1
          ∧ u.bit (Reg.LODE_CTL l) 0 = false ∧ u.lodes = s.lodes ∧ u.vci = s.vci)
      ∧ (bitsOf (c.par 2 1) 5 4 = 3 → Answers (.lodeSet src) s c 6 fun u =>
        u.cfg (Reg.LODE_CTL l) = s.cfg (Reg.LODE_CTL l) ∧ u.bit (Reg.LODE_STS l) 31 = true ∧ u.lodes = s.lodes ∧ u.vci = s.vci))

/-- R495: the drain of a LODE_CTL disable ends, and its command completes. -/
def Sys2Proof.Claims.lodeDrains : Prop :=
  ∀ (s : State) (src : CmdSrc) (c : Cmd), s.sump.fatal = false → s.bitternUp = true → c.opcode = 0x000A →
    s.vci.cmds.find? (fun d => decide (d.src = src) && d.ran && decide (d.opcode ∈ [0x0002, 0x0003, 0x000A, 0x0102, 0x0201, 0x0302, 0x0501]))
      = some c →
    Answers (.drainEnd src) s c 0 fun u => (u.lode (c.par 0 1)).disable = none ∧ u.vci = s.vci ∧ LodeOnly s u (c.par 0 1)

/-- R377, R405, R408, R495: the commands of LODE_CTL. An enable lights a dark lode; a disable puts the lode out at once, its
session ended, and completes when it has drained; a release frees a latched quarantine; a set writes MINW, TXSET and MARK_TX
while the lode is not enabled; and MINW 0b11 is refused with E_STATE and CFG_ERR, nothing written. R495: the drain of a LODE_CTL
disable ends, and its command completes. Where a clause rests on a reading or a choice of the model's own, log entries 73 to 87
name it. -/
def Obligations.LodeControl : Prop :=
  Claims.lodeCommands ∧ Claims.lodeDrains

/-! ### The fabric -/

namespace Sys2Proof.Claims

/-- A connection that is OPEN to another device than this one. -/
def ConnOpen (s : State) (c : Nat) : Prop := s.sump.fatal = false ∧ (s.conn c).state = .opened ∧ s.loopback c = false

/-- The packet at the front of a region's receive path passes steps 1 to 6 of R422 on an OPEN connection of another device. -/
def Admitted (s : State) (r : Fin 4) (lode : Option Nat) (p : Pkt) (q : List (Option Nat × Pkt)) : Prop :=
  s.rxQueue r = (lode, p) :: q ∧ ConnOpen s p.dstConn ∧ p.dstConn / 1024 = r ∧ s.devOk = true ∧ p.dstId = s.devId
    ∧ p.dstEp = s.devEp ∧ s.wrongPartner lode p = false ∧ p.crc = p.sum ∧ s.peerId p.dstConn = p.srcId
    ∧ s.connGen p.dstConn = p.cgen ∧ p.srcEp = s.peerEp p.dstConn

/-- What the receive path makes of a packet of each type, by its row. -/
def applyOf (r : Fin 4) : Instr → Option (Nat × (State → Pkt → Rx × State))
  | .write _ => some (1, fun s p => s.rxWrite r p)
  | .readReq _ => some (2, fun s p => s.rxRead r p)
  | .readRsp _ => some (3, fun s p => s.rxRsp r p)
  | .reduce _ => some (4, fun s p => s.rxRed r p)
  | .reduceQ _ => some (5, fun s p => s.rxRedQ r p)
  | .pegSig _ => some (6, fun s p => s.rxSig r p)
  | _ => none

end Sys2Proof.Claims

/-- R412, R413, R415, R420, R422: a timeout with packets held sends them all again in order and counts, and RETRY_MAX of them
break the connection with cause 1; no ACTIVE lode breaks it with cause 2; a period of 64 ns fills a bucket up to BURST; and
the end of a millisecond clears DROPS. -/
def Sys2Proof.Claims.connectionsTimeOutAndBreak : Prop :=
  (∀ (s : State) (c : Fin 4096), ConnOpen s c →
    ((s.conn c).held ≠ [] → (s.conn c).timeouts + 1 < s.retryMax (c / 1024) → Completes (.e2eTimeout c) s fun t =>
      t.conn c = { s.conn c with timeouts := min 255 ((s.conn c).timeouts + 1), again := (s.conn c).held.map (·.pkt.psn) }
        ∧ t = { s with fab := t.fab } ∧ t.fab = { s.fab with conns := t.fab.conns } ∧ ∀ d, d ≠ c.val → t.conn d = s.conn d)
    ∧ (∀ (i : Instr) (cause : Nat), (i = .e2eTimeout c ∧ cause = 1 ∧ (s.conn c).held ≠ [] ∧ s.retryMax (c / 1024) ≤ (s.conn c).timeouts + 1)
        ∨ (i = .noLodeTimeout c ∧ cause = 2 ∧ s.pickLode c = none) →
      Completes i s fun t =>
        (t.conn c).state = .broken ∧ (t.conn c).held = [] ∧ (t.conn c).ready = [] ∧ (t.conn c).acks = [] ∧ (t.conn c).act = none
          ∧ t.fld (connReg c 0) 26 24 = cause ∧ t.ctr (Reg.FAB_BROKEN_CNT (c / 1024)) = plus s (Reg.FAB_BROKEN_CNT (c / 1024)) 1
          ∧ (∀ d, d ≠ c.val → t.conn d = s.conn d) ∧ t.hbm = s.hbm)
    ∧ Completes (.connDropWindow c) s fun t =>
      t.conn c = { s.conn c with drops := 0 } ∧ t = { s with fab := t.fab } ∧ ∀ d, d ≠ c.val → t.conn d = s.conn d)
  ∧ (∀ (s : State) (r : Fin 4) (p : Fin 8), s.sump.fatal = false → s.fab.conns = [] → Completes (.txratePeriod r p) s fun t =>
    tget (fun _ => 0) t.fab.txtok (8 * r.val + p.val)
        = min (s.fld (Reg.FAB_TXRATE r p) 31 16) (tget (fun _ => 0) s.fab.txtok (8 * r.val + p.val) + s.fld (Reg.FAB_TXRATE r p) 15 0)
      ∧ (∀ k, k ≠ 8 * r.val + p.val → tget (fun _ => 0) t.fab.txtok k = tget (fun _ => 0) s.fab.txtok k)
      ∧ t = { s with fab := t.fab })

/-- R422 to R424, R427: every sequenced packet. One that is in order is applied once, with the memory, peg and flag effects of
its type, takes its PSN and is acknowledged with its credit; one whose handle is not registered, or carries another key or
partition, is refused with HANDLE, and writes and signals nothing; a duplicate changes no PSN and writes nothing. Where a clause
rests on a reading or a choice of the model's own, log entries 88 to 104 name it. -/
def Obligations.PacketsAreAppliedOnceInOrder : Prop :=
  ∀ (s : State) (r : Fin 4) (lode : Option Nat) (p : Pkt) (q : List (Option Nat × Pkt)) (i : Instr) (ty : Nat)
    (apply : State → Pkt → Rx × State), Admitted s r lode p q →
    i ∈ [.write r, .readReq r, .readRsp r, .reduce r, .reduceQ r, .pegSig r] → applyOf r i = some (ty, apply) → p.ty = ty →
    (psnFrom (s.conn p.dstConn).rx p.psn = 0 → (s.conn p.dstConn).spent < s.creditInit p.dstConn → p.malformed = false →
      ∀ (f : Flags) (u : State), apply (s.setRx r q) p = (.applied f, u) → u.loopback p.dstConn = false →
        Completes i s fun t =>
          (t.conn p.dstConn).rx = ((u.conn p.dstConn).rx + 1) % 2 ^ 24 ∧ (t.conn p.dstConn).spent = (u.conn p.dstConn).spent + 1
            ∧ (t.conn p.dstConn).ready = (u.conn p.dstConn).ready ∧ t.hbm = u.hbm ∧ t.slice = u.slice ∧ t.cores = u.cores
            ∧ t.pegOps = u.pegOps ∧ t.rxQueue r = u.rxQueue r
            ∧ t.ctr (Reg.FAB_RX_PKT_CNT r) = plus u (Reg.FAB_RX_PKT_CNT r) 1)
    ∧ (psnFrom (s.conn p.dstConn).rx p.psn = 0 → (s.conn p.dstConn).spent < s.creditInit p.dstConn → p.malformed = false →
      i ∈ [.write r, .readReq r, .reduce r, .reduceQ r] →
      (∀ h, tfind s.fab.handles (p.o 111 96) = some h → h.key ≠ p.o 127 112 ∨ h.part ≠ s.connPart p.dstConn) →
      (s.conn p.dstConn).drops < s.fld (Reg.FAB_TIMING r) 15 8 → Completes i s fun t =>
        (t.conn p.dstConn).rx = ((s.conn p.dstConn).rx + 1) % 2 ^ 24 ∧ (t.conn p.dstConn).drops = min 0xFFFF ((s.conn p.dstConn).drops + 1)
          ∧ (t.conn p.dstConn).acks = (s.conn p.dstConn).acks
            ++ [{ psn := p.psn, status := 0x12, spsn := p.psn, flags := 0, credit := 1, svalid := true }]
          ∧ t.ctr (Reg.FAB_REFUSE_CNT r) = plus s (Reg.FAB_REFUSE_CNT r) 1 ∧ t.rxQueue r = q
          ∧ t.hbm = s.hbm ∧ t.slice = s.slice ∧ t.cores = s.cores ∧ t.pegOps = s.pegOps)
    ∧ (2 ^ 23 ≤ psnFrom (s.conn p.dstConn).rx p.psn → (s.conn p.dstConn).drops < s.fld (Reg.FAB_TIMING r) 15 8 →
      Completes i s fun t =>
        (t.conn p.dstConn).rx = (s.conn p.dstConn).rx ∧ (t.conn p.dstConn).spent = (s.conn p.dstConn).spent
          ∧ (t.conn p.dstConn).acks ≠ [] ∧ t.ctr (Reg.FAB_DUP_CNT r) = plus s (Reg.FAB_DUP_CNT r) 1 ∧ t.rxQueue r = q
          ∧ t.hbm = s.hbm ∧ t.slice = s.slice ∧ t.cores = s.cores ∧ t.pegOps = s.pegOps ∧ t.fab.handles = s.fab.handles)

/-- R419: an ACK whose fields satisfy the rules releases what it covers, moves UNACK past it, clears TIMEOUTS and returns
credit; one that does not is dropped and counted, and releases nothing. -/
def Sys2Proof.Claims.acksReleasePackets : Prop :=
  ∀ (s : State) (r : Fin 4) (lode : Option Nat) (p : Pkt) (q : List (Option Nat × Pkt)), Admitted s r lode p q → p.ty = 7 →
    (s.ackOk p = true → psnFrom (s.conn p.dstConn).unack (p.o 127 104) < 2 ^ 23 → Completes (.ack r) s fun t =>
      (t.conn p.dstConn).unack = (p.o 127 104 + 1) % 2 ^ 24 ∧ (t.conn p.dstConn).timeouts = 0
        ∧ (t.conn p.dstConn).credit = (s.conn p.dstConn).credit + p.o 61 51
        ∧ (t.conn p.dstConn).held = (s.conn p.dstConn).held.filter (fun h =>
          decide (psnFrom (s.conn p.dstConn).unack (p.o 127 104) < psnFrom (s.conn p.dstConn).unack h.pkt.psn))
        ∧ t.rxQueue r = q ∧ t.hbm = s.hbm ∧ t.slice = s.slice)
    ∧ (s.ackOk p = false → (s.conn p.dstConn).drops < s.fld (Reg.FAB_TIMING r) 15 8 → Completes (.ack r) s fun t =>
      t.conn p.dstConn = { s.conn p.dstConn with drops := min 0xFFFF ((s.conn p.dstConn).drops + 1) }
        ∧ t.ctr (Reg.FAB_BAD_CNT r) = plus s (Reg.FAB_BAD_CNT r) 1 ∧ t.rxQueue r = q ∧ t.lists = s.lists)

/-- R412, R413, R415, R420, R422: a timeout with packets held sends them all again in order and counts, and RETRY_MAX of them
break the connection with cause 1; no ACTIVE lode breaks it with cause 2; a period of 64 ns fills a bucket up to BURST; and the
end of a millisecond clears DROPS. R419: an ACK whose fields satisfy the rules releases what it covers, moves UNACK past it,
clears TIMEOUTS and returns credit; one that does not is dropped and counted, and releases nothing. Where a clause rests on a
reading or a choice of the model's own, log entries 88 to 104 name it. -/
def Obligations.ConnectionTimers : Prop :=
  Claims.connectionsTimeOutAndBreak ∧ Claims.acksReleasePackets

/-- R430 to R433: the descriptors of a transmit path. An open one that forms its packet hands it to its connection and moves its
list on; FFINISH writes locally and sends nothing; and a descriptor of another type than the row's changes nothing. Where a
clause rests on a reading or a choice of the model's own, log entries 88 to 104 name it. -/
def Obligations.FabricDescriptorsFormPackets : Prop :=
  ∀ (s : State) (r : Fin 4) (n : Fin 64) (l : CList) (d : Dsc) (i : Instr) (ty : Nat),
    (i, ty) ∈ [(.fsend r n 1, 0x20), (.fget r n 1, 0x21), (.freduce r n 1, 0x22), (.freduceQ r n 1, 0x23), (.fsig r n 1, 0x24),
      (.ffinish r n 1, 0x25)] →
    s.list (listKey (16 + r.val) n) = some l → l.st = .running → l.unit < l.units.length → s.sump.fatal = false →
    descAt true l.units l.unit = d →
    (d.ty = ty → l.open_ = true → l.off < d.fabExtent → l.hold = false →
      ((s.conn d.connNo).ready.length < (s.conn d.connNo).credit ∨ ty = 0x25) →
      ∀ (a b : Nat) (x : TxOk) (s' : State), s.fabBases l.ctx d = some (a, b) →
        s.fabChunk ⟨listKey (16 + r.val) n, l, d, ⟨.fabric (Fin.ofNat 4 r), some l.ctx,
          if d.ty = 0x25 then s.ctxCls l.ctx else s.connPart d.connNo, none, .bittern⟩, a, b⟩ = (.ok x, s') →
        s'.loopback d.connNo = false → x.off < d.fabExtent →
        Completes i s fun t =>
          (∃ m, t.list (listKey (16 + r.val) n) = some m ∧ m.off = x.off ∧ m.issued = l.issued + 1 ∧ m.desc = l.desc
            ∧ m.flags = l.flags ||| x.flags ∧ m.st = .running)
            ∧ (t.conn d.connNo).ready.map (·.pkt) = (s'.conn d.connNo).ready.map (·.pkt) ++ x.pkt.toList
            ∧ t.hbm = s'.hbm ∧ t.slice = s'.slice ∧ t.cores = s'.cores)
    ∧ (d.ty ≠ ty → d.ty ∈ [0, 1, 0x20, 0x21, 0x22, 0x23, 0x24, 0x25] → exec i s = .next s)
    ∧ (d.ty = 0x24 → ty = 0x24 → l.open_ = true → l.off = 0 → l.hold = false → (s.conn d.connNo).ready.length < (s.conn d.connNo).credit →
      s.loopback d.connNo = false → l.sigged = [] → Completes i s fun t =>
        (t.conn d.connNo).ready.map (·.pkt) = (s.conn d.connNo).ready.map (·.pkt)
            ++ [s.mkPkt d.connNo 6 (d.f 9 15 0 * 2 ^ 80 + d.f 9 30 16 * 2 ^ 65) false []]
          ∧ (∃ m, t.list (listKey (16 + r.val) n) = some m ∧ m.desc = l.desc + 1 ∧ m.unit = l.unit + d.n) ∧ t.hbm = s.hbm)

/-! ### Commands on the device cache, bias, lists, pegs, connections, handles and placement windows -/

/-- R305, R306, R450: DC_CLEAN with nothing waiting to be written completes and changes no line; DC_INVALIDATE and
DC_CLEAN_INVALIDATE take the named line out of the cache; ENTER_MAINT and LEAVE_MAINT move between RUN and MAINT and refuse
another state with E_STATE; BIAS_SET gives granules of a committed decoder to the host, finds granules that are in DEVICE bias
done, and ends a host flush by clearing their bits. Where a clause rests on a reading or a choice of the model's own, log
entries 105 to 116 name it. -/
def Obligations.CacheAndBiasCommands : Prop :=
  (∀ (s : State) (src : CmdSrc) (c : Cmd) (line : Nat), Waiting s src 0x0008 c → s.dc.op = none → s.hl.attach ≠ .hold →
    (c.par 1 1 = 0 → c.par 8 8 = 64 * line → 64 * line < 2 ^ 52 → (s.dc.state = .run ∨ s.dc.state = .maint) → s.dc.wt = [] →
      (c.par 0 1 = 1 → Answers (.dcClean src) s c 0 fun u => u.dc.lines = s.dc.lines ∧ u.dc.op = none ∧ u.out = s.out)
      ∧ (∀ (i : Instr) (k : Nat) (l : DLine), (i, c.par 0 1) ∈ [(.dcInvalidate src, 2), (.dcCleanInvalidate src, 3)] →
        s.dc.lines = [(k, l)] → l.line = line → s.dc.evb = [] → s.hl.attach = .attached →
        Answers i s c 0 fun u => u.dc.lines = [] ∧ u.dc.op = none ∧ u.hbm = s.hbm))
    ∧ (∀ (i : Instr) (scope : Nat) (old new : DcState),
      (i, scope, old, new) ∈ [(.enterMaint src, 2, .run, .maint), (.leaveMaint src, 3, DcState.maint, DcState.run)] → c.par 1 1 = scope →
      (s.dc.state = old → Answers i s c 0 fun u => u = { s with dc := { s.dc with state := new } })
      ∧ (s.dc.state ≠ old → s.dc.state ≠ .init → Answers i s c 6 fun u => u = s)))
  ∧ (∀ (s : State) (src : CmdSrc) (c : Cmd) (first n : Nat), Waiting s src 0x0009 c → c.par 0 4 = first → c.par 4 4 = n → 0 < n →
    first + n ≤ 196608 → s.coh.open_ = [] → s.coh.waiting = [] → s.hl.bias = none →
    (bitOf (c.par 8 1) 0 = true → (∀ g, first ≤ g → g < first + n → s.granuleInHdm g = true) → s.biasLines first n = [] →
      Answers (.biasSet src) s c 0 fun u =>
        (∀ g, g < 196608 → u.granuleHost g = (s.granuleHost g || decide (first ≤ g ∧ g < first + n))) ∧ u.cores = s.cores ∧ u.hbm = s.hbm)
    ∧ (bitOf (c.par 8 1) 0 = false → (∀ g, first ≤ g → g < first + n → s.granuleHost g = false) →
      Answers (.biasSet src) s c 0 fun u => u = s))
  ∧ (∀ (s : State) (src : CmdSrc) (b : BiasRun), s.hl.bias = some b → b.cmd.src = src → s.hl.attach = .attached → s.sump.fatal = false →
    b.first + b.count ≤ 196608 → Answers (.biasSet src) s b.cmd 0 fun u =>
      (∀ g, g < 196608 → u.granuleHost g = (s.granuleHost g && !decide (b.first ≤ g ∧ g < b.first + b.count))) ∧ u.hl.bias = none)

/-- R337, R367, R480, R494: a list that a command carries in its slot joins its engine's list table, its command left
waiting; an engine of another partition is refused with E_PRIV; a cancel stops a list that still has something outstanding and
waits, and finds a list that has gone complete with detail 1; a fence with no list of its ring before it completes. -/
def Sys2Proof.Claims.listCommands : Prop :=
  (∀ (s : State) (src : CmdSrc) (c : Cmd) (fills : List HostFill) (i : Instr) (op e : Nat) (us : List (List Byte × Bool)),
    Waiting s src op c →
    (i = .listSubmit src fills ∧ op = 0x0300 ∧ c.par 1 1 = 1 ∧ c.par 2 2 < 6 ∧ e = engineIndex (c.par 0 1)
        ∧ s.engineOwned (s.context c.ctx).part (c.par 0 1) = true
        ∧ us = (rowsOf 32 (c.par 2 2 + 1) ((c.bytes.drop 0x40).map fun b => (b, false))).map fun u => (u.map (·.1), u.any (·.2)))
      ∨ (i = .copyInline src ∧ op = 0x0301 ∧ c.par 1 1 < 192 ∧ c.par 2 2 < 2 ^ 15 ∧ c.par 8 8 < 2 ^ 48 ∧ e = engineIndex (c.par 0 1)
        ∧ s.engineOwned (s.context c.ctx).part (c.par 0 1) = true ∧ us = inlineUnits c)
      ∨ (i = .flistSubmit src fills ∧ op = 0x0304 ∧ c.par 0 1 < 4 ∧ c.par 1 1 = 1 ∧ c.par 2 2 < 6 ∧ e = 16 + c.par 0 1
        ∧ s.partRec (s.context c.ctx).part (0x40 + 32 * c.par 0 1 + 0x12) 1 ≠ 0
        ∧ us = (rowsOf 32 (c.par 2 2 + 1) ((c.bytes.drop 0x40).map fun b => (b, false))).map fun u => (u.map (·.1), u.any (·.2))) →
    s.fenced c = false →
    (∀ j, s.listRoom e c.ctx us.length = some j → Completes i s fun t =>
      t.list (listKey e j) = some { id := s.nextList, ctx := c.ctx, units := us, lcore := none, cmd := some c }
        ∧ (∀ k, k ≠ listKey e j → t.list k = s.list k) ∧ t.vci = (s.running c).vci ∧ t.hbm = s.hbm ∧ t.out = s.out)
    ∧ (s.listRoom e c.ctx us.length = none → Answers i s c 8 fun u => u = s))
  ∧ (∀ (s : State) (src : CmdSrc) (c : Cmd) (i : Instr), (i = .listSubmit src [] ∧ Waiting s src 0x0300 c)
      ∨ (i = .copyInline src ∧ Waiting s src 0x0301 c) →
    s.engineOwned (s.context c.ctx).part (c.par 0 1) = false → Answers i s c 3 fun u => u = s)
  ∧ (∀ (s : State) (src : CmdSrc) (c : Cmd), Waiting s src 0x0302 c → c.cls = 15 →
    (∀ (k : Nat) (l : CList), s.listOfCmd ⟨c.par 0 2, c.par 2 2⟩ = some (k, l) → s.list k = some l → (l.st = .running ∨ l.st = .stopped) →
      s.listQuiet k l = false → l.cmd.map (·.src) = some ⟨c.par 0 2, c.par 2 2⟩ → Completes (.listCancel src) s fun t =>
        t.list k = some { l with st := .ending, status := 0xD } ∧ (∀ j, j ≠ k → t.list j = s.list j) ∧ t.vci = (s.running c).vci)
    ∧ (s.listOfCmd ⟨c.par 0 2, c.par 2 2⟩ = none → (∀ d ∈ s.vci.cmds, d.submits = false) → Answers (.listCancel src) s c 0 fun u => u = s))
  ∧ (∀ (s : State) (src : CmdSrc) (c : Cmd), Waiting s src 0x0303 c →
    (∀ d ∈ s.vci.cmds, d.submits = true → s.sameRing c d = true → c.id ≤ d.id) → Answers (.fence src) s c 0 fun u => u = s)

/-- R211, R213: PEG_SIGNAL, PEG_ARM and PEG_RESET do one operation on the peg of the command's partition, and PEG_QUERY
returns it unchanged; an index outside the partition's range, and an AMOUNT of 0, are E_RANGE. -/
def Sys2Proof.Claims.pegCommands : Prop :=
  ∀ (s : State) (src : CmdSrc) (c : Cmd) (i : Instr) (op : PegOp),
    (i = .pegSignal src ∧ op = .signal (c.par 2 2) ∧ c.par 2 2 ≠ 0 ∧ Waiting s src 0x0400 c)
      ∨ (i = .pegArm src ∧ op = .arm (c.par 4 4) 0 ∧ Waiting s src 0x0401 c) ∨ (i = .pegReset src ∧ op = .reset ∧ Waiting s src 0x0402 c)
      ∨ (i = .pegQuery src ∧ Waiting s src 0x0403 c) →
    (s.pegOfPart c.part (c.par 0 2) = none → Answers i s c 0xA fun u => u = s)
    ∧ (∀ p, s.pegOfPart c.part (c.par 0 2) = some p →
      (i ≠ .pegQuery src → Answers i s c 0 fun u =>
        u.peg p = (s.peg p).after [op] ∧ (∀ q, q ≠ p → u.peg q = s.peg q) ∧ u.vci = s.vci ∧ u.hbm = s.hbm ∧ u.cores = s.cores)
      ∧ (i = .pegQuery src → Answers i s c 0 (fun u => u = s) ((s.peg p).count + (s.peg p).target * 2 ^ 32)
        (s.waiters p * 256 + b2n (s.peg p).poison * 8 + b2n (s.peg p).sat * 4 + b2n (s.peg p).ready * 2 + b2n (s.peg p).armed)))

/-- R337, R367, R480, R494: a list that a command carries in its slot joins its engine's list table, its command left waiting;
an engine of another partition is refused with E_PRIV; a cancel stops a list that still has something outstanding and waits, and
finds a list that has gone complete with detail 1; a fence with no list of its ring before it completes. R211, R213: PEG_SIGNAL,
PEG_ARM and PEG_RESET do one operation on the peg of the command's partition, and PEG_QUERY returns it unchanged; an index
outside the partition's range, and an AMOUNT of 0, are E_RANGE. Where a clause rests on a reading or a choice of the model's
own, log entries 105 to 116 name it. -/
def Obligations.ListAndPegCommands : Prop :=
  Claims.listCommands ∧ Claims.pegCommands

/-- R411, R412, R414: an open command makes a CLOSED connection OPEN with its peer, generation, lodes and credits, and numbers
from 0, where the credits allow it; more credits than a lode may promise are E_QUOTA; and a close command of an OPEN one waits
for its drain. -/
def Sys2Proof.Claims.connectionCommands : Prop :=
  ∀ (s : State) (src : CmdSrc) (c : Cmd) (n : Nat), c.par 0 2 = n → n < 4096 →
    (Waiting s src 0x0500 c → c.par 2 2 < 4096 → c.par 4 4 < 2 ^ 18 → c.par 0xC 2 < 2048 → c.par 0xA 2 % 2 ^ (4 * (n / 1024)) = 0 →
      c.par 0xA 2 < 2 ^ (4 * (n / 1024) + 4) → (s.conn n).state = .closed → (s.conn n).close = none →
      ((∀ l, l < 16 → bitOf (c.par 0xA 2) l = true → c.par 0xC 2 + s.creditSum (fun e => bitOf (s.connLodes e) l) ≤ 1536) → c.part < 8 →
        c.par 0xC 2 + s.creditSum (fun e => decide (e / 1024 = n / 1024) && decide (s.connPart e = c.part)) ≤ s.fcredit c.part (n / 1024) →
        Answers (.connOpen src) s c 0 fun u =>
          (u.conn n).state = .opened ∧ (u.conn n).credit = c.par 0xC 2 ∧ (u.conn n).tx = 0 ∧ (u.conn n).unack = 0 ∧ (u.conn n).rx = 0
            ∧ u.peerId n = c.par 4 4 ∧ u.peerEp n = c.par 8 1 ∧ u.peerConn n = c.par 2 2 ∧ u.creditInit n = c.par 0xC 2
            ∧ u.connPart n = c.part ∧ u.connGen n = c.par 9 1 ∧ u.connLodes n = c.par 0xA 2
            ∧ (∀ m, m ≠ n → u.conn m = s.conn m) ∧ u.vci = s.vci)
      ∧ (∀ l, l < 16 → bitOf (c.par 0xA 2) l = true → 1536 < c.par 0xC 2 + s.creditSum (fun e => bitOf (s.connLodes e) l) →
        Answers (.connOpen src) s c 9 fun u => u = s))
    ∧ (Waiting s src 0x0501 c → (s.conn n).state ≠ .closed → s.connPart n = c.part → (s.conn n).close = none → s.listsNaming n = [] →
      Completes (.connClose src) s fun t => t.conn n = { s.conn n with close := some c } ∧ (∀ m, m ≠ n → t.conn m = s.conn m)
        ∧ t.vci = (s.running c).vci ∧ t.lists = s.lists)

/-- R425 to R427, R440: HANDLE_REG puts a handle with the range, permissions and exponent of the command at a free INDEX, and
returns its key and INDEX; HANDLE_REVOKE takes it out of the table and every handle cache; a wrong key is E_RANGE; PLACE_REG
writes a free window's words and PLACE_UNREG clears them. -/
def Sys2Proof.Claims.handleAndPlacementCommands : Prop :=
  (∀ (s : State) (src : CmdSrc) (c : Cmd), Waiting s src 0x0502 c → c.par 1 1 ≤ 18 → c.par 8 8 % 128 = 0 → c.par 0x10 8 % 128 = 0 →
    0 < c.par 0x10 8 → c.par 0x10 8 ≤ 2 ^ 36 → c.par 8 8 + c.par 0x10 8 ≤ 2 ^ 48 →
    s.useT2 (s.context c.ctx).part < s.limT2 (s.context c.ctx).part → (∃ i, i < 65536 ∧ tfind s.fab.handles i = none) →
    ∃ i key, i < 65536 ∧ key < 65536 ∧ tfind s.fab.handles i = none ∧ Answers (.handleReg src) s c 0 (fun u =>
      tfind u.fab.handles i = some {
        key := key, part := (s.context c.ctx).part, ctx := c.ctx, base := c.par 8 8, length := c.par 0x10 8
        wr := bitOf (c.par 0 1) 0, rd := bitOf (c.par 0 1) 1, red := bitOf (c.par 0 1) 2, exp := c.par 2 2, h := c.par 1 1 }
        ∧ (∀ j, j ≠ i → tfind u.fab.handles j = tfind s.fab.handles j) ∧ u.vci = s.vci) (key * 65536 + i))
  ∧ (∀ (s : State) (src : CmdSrc) (c : Cmd) (h : Handle), Waiting s src 0x0503 c → tfind s.fab.handles (c.par 0 4 % 65536) = some h →
    (h.key = c.par 0 4 / 65536 → h.part = c.part → Answers (.handleRevoke src) s c 0 fun u =>
      tfind u.fab.handles (c.par 0 4 % 65536) = none ∧ (∀ e ∈ u.fab.hcache, c.par 0 4 % 65536 ∉ e.2)
        ∧ (∀ j, j ≠ c.par 0 4 % 65536 → tfind u.fab.handles j = tfind s.fab.handles j) ∧ u.vci = s.vci)
    ∧ (h.key ≠ c.par 0 4 / 65536 → Answers (.handleRevoke src) s c 0xA fun u => u = s))
  ∧ (∀ (s : State) (src : CmdSrc) (c : Cmd) (i : Nat), c.par 0 1 = i → i < 16 →
    (Waiting s src 0x0504 c → c.par 8 8 % 65536 = 0 → c.par 0x10 4 < 2 ^ 24 → inStack (c.par 8 8) ((c.par 0x10 4 + 1) * 65536) = true →
      (∃ p, s.pegOfPart c.part (c.par 4 2) = some p) →
      (∃ w ∈ s.windows, w.1 ≤ c.par 8 8 ∧ c.par 8 8 + (c.par 0x10 4 + 1) * 65536 ≤ w.1 + w.2.1) →
      s.bit (Reg.FAB_PLACE_W0 0 i) 31 = false →
      (∀ m ∈ handleArea :: s.saveAreas, meets (c.par 8 8, (c.par 0x10 4 + 1) * 65536) m = false) → c.part < 8 →
      Answers (.placeReg src) s c 0 fun u =>
        u.bit (Reg.FAB_PLACE_W0 0 i) 31 = true ∧ u.fld (Reg.FAB_PLACE_W0 0 i) 30 28 = c.part ∧ u.fld (Reg.FAB_PLACE_W0 0 i) 15 0 = c.par 2 2
          ∧ u.fld (Reg.FAB_PLACE_W1 0 i) 23 0 = c.par 8 8 / 65536 % 2 ^ 24 ∧ u.fld (Reg.FAB_PLACE_W2 0 i) 23 0 = c.par 0x10 4
          ∧ u.fld (Reg.FAB_PLACE_W3 0 i) 14 0 = c.par 4 2 % 2 ^ 15 ∧ u.vci = s.vci ∧ u.fab = s.fab)
    ∧ (Waiting s src 0x0505 c → s.bit (Reg.FAB_PLACE_W0 0 i) 31 = true → s.fld (Reg.FAB_PLACE_W0 0 i) 30 28 = c.part →
      Answers (.placeUnreg src) s c 0 fun u => u.cfg (Reg.FAB_PLACE_W0 0 i) = 0#32 ∧ u.cfg (Reg.FAB_PLACE_W1 0 i) = 0#32
        ∧ u.cfg (Reg.FAB_PLACE_W2 0 i) = 0#32 ∧ u.cfg (Reg.FAB_PLACE_W3 0 i) = 0#32 ∧ u.vci = s.vci ∧ u.fab = s.fab))

/-- R411, R412, R414: an open command makes a CLOSED connection OPEN with its peer, generation, lodes and credits, and numbers
from 0, where the credits allow it; more credits than a lode may promise are E_QUOTA; and a close command of an OPEN one waits
for its drain. R425 to R427, R440: HANDLE_REG puts a handle with the range, permissions and exponent of the command at a free
INDEX, and returns its key and INDEX; HANDLE_REVOKE takes it out of the table and every handle cache; a wrong key is E_RANGE;
PLACE_REG writes a free window's words and PLACE_UNREG clears them. Where a clause rests on a reading or a choice of the model's
own, log entries 105 to 116 name it. -/
def Obligations.FabricCommands : Prop :=
  Claims.connectionCommands ∧ Claims.handleAndPlacementCommands

/-! ### The host link -/

namespace Sys2Proof.Claims

/-- A host line that a committed decoder leads to half `h` of a line of HBM which its slice holds, on a link in service. -/
def HdmHeld (s : State) (line : Fin 70368744177664) (n h : Nat) (l : SLine) : Prop :=
  s.hl.up = true ∧ s.hl.viralRx = false ∧ s.hdmLine line = some (n, h) ∧ h < 2 ∧ Held s n l ∧ s.holders n = []
    ∧ s.admits (homeOf n) 8 false = true

/-- The link is up and attached, outside the fatal state. -/
def LinkUp (s : State) : Prop := s.hl.up = true ∧ s.hl.attach = .attached ∧ s.sump.fatal = false

end Sys2Proof.Claims

/-- R443, R451: host requests to HDM. Reads return the line's current data and MetaValue Invalid in DEVICE bias; writes leave
their bytes in the slice, a masked one only the bytes it enables; MemInv and MemInvNT move no data and return MetaValue as the
bias says; MemSpecRd is dropped; and an unsupported request is only counted. -/
def Sys2Proof.Claims.hostRequestsReachHdm : Prop :=
  (∀ (s : State) (line : Fin 70368744177664) (n h : Nat) (l : SLine), HdmHeld s line n h l →
    (∀ (m : Fin 4) (i : Instr), i ∈ [.memrd line m, .memrddata line m, .memrdfwd line m] → Completes i s fun t =>
      t.out = s.out ++ [.memRsp line ((l.data.drop (64 * h)).take 64) false 0] ∧ (t.sLine n).map (·.data) = some l.data
        ∧ t.hbm = s.hbm ∧ t.cores = s.cores)
    ∧ (∀ (bs : List Byte) (i : Instr), bs.length = 64 → i ∈ [.memwr line bs, .memwrfwd line bs] → Completes i s fun t =>
      (t.sLine n).map (fun m => (m.data, m.dirty)) = some (mergeAt l.data (64 * h) bs, true)
        ∧ t.out = s.out ++ [.memRsp line [] false 0] ∧ t.hbm = s.hbm ∧ t.cores = s.cores)
    ∧ (∀ (be : BitVec 64) (bs : List Byte), bs.length = 64 → Completes (.memwrptl line be bs) s fun t =>
      (∀ i, i < 128 → (t.sLine n).map (fun m => m.data.getD i 0#8)
        = some (if 64 * h ≤ i ∧ i < 64 * h + 64 ∧ be.getLsbD (i - 64 * h) = true then bs.getD (i - 64 * h) 0#8 else l.data.getD i 0#8))
        ∧ t.out = s.out ++ [.memRsp line [] false 0] ∧ t.hbm = s.hbm ∧ t.cores = s.cores)
    ∧ (∀ (m : Fin 4) (i : Instr), i ∈ [.meminv line m, .meminvnt line m] → Completes i s fun t =>
      t.out = s.out ++ [.memRsp line [] false 0] ∧ t.slice = s.slice ∧ t.hbm = s.hbm))
  ∧ (∀ (s : State) (line : Fin 70368744177664) (n h : Nat) (m : Fin 4) (i : Instr), s.hl.up = true → s.sump.fatal = false →
    s.hl.viralRx = false → s.hdmLine line = some (n, h) → s.hostBias n = true → s.hl.bias = none →
    i ∈ [.meminv line m, .meminvnt line m] → Completes i s fun t =>
      t.out = s.out ++ [.memRsp line [] false m] ∧ t.slice = s.slice ∧ t.hbm = s.hbm)
  ∧ (∀ (s : State) (line : Fin 70368744177664), s.hl.up = true →
    (Completes (.memspecrd line) s fun t => t = { s with hl := { s.hl with l1 := false } })
    ∧ (Completes .unsupportedRequest s fun t =>
      t = { s with reg := t.reg } ∧ t.reg.cfg = s.reg.cfg ∧ t.ctr Reg.HL_BADREQ_CNT = plus s Reg.HL_BADREQ_CNT 1))

/-- R461: in the fatal safe state a host read returns poison and a host write is discarded: neither touches memory. -/
def Sys2Proof.Claims.fatalHostRequests : Prop :=
  ∀ (s : State) (line : Fin 70368744177664) (m : Fin 4) (bs : List Byte), s.hl.up = true → s.sump.fatal = true →
    (∀ i ∈ [Instr.memrd line m, .memrddata line m, .memrdfwd line m], Completes i s fun t =>
      t.out = s.out ++ [.memRsp line (List.replicate 64 0#8) true 0] ∧ t.hbm = s.hbm ∧ t.slice = s.slice ∧ t.cores = s.cores)
    ∧ (∀ i ∈ [Instr.memwr line bs, .memwrfwd line bs], Completes i s fun t =>
      t.out = s.out ++ [.memRsp line [] false 0] ∧ t.hbm = s.hbm ∧ t.slice = s.slice ∧ t.cores = s.cores)

/-- R443, R451: host requests to HDM. Reads return the line's current data and MetaValue Invalid in DEVICE bias; writes leave
their bytes in the slice, a masked one only the bytes it enables; MemInv and MemInvNT move no data and return MetaValue as the
bias says; MemSpecRd is dropped; and an unsupported request is only counted. R461: in the fatal safe state a host read returns
poison and a host write is discarded: neither touches memory. Where a clause rests on a reading or a choice of the model's own,
log entries 117 to 134 name it. -/
def Obligations.HostMemoryRequests : Prop :=
  Claims.hostRequestsReachHdm ∧ Claims.fatalHostRequests

/-- R445, R463 to R465: a link event while attached enters HOLD and is counted, a retrain also counted and reported, a link down
also taking the configuration space back to its reset values; a return in time releases; and a host loss, viral and the end of
the hold abandon every write toward the host, which is counted, leave DETACHED, and give every granule back to DEVICE bias. A
second link event during HOLD does not count again. Where a clause rests on a reading or a choice of the model's own, log
entries 117 to 134 name it. -/
def Obligations.LinkEventsHoldAndAbandon : Prop :=
  (∀ s : State, LinkUp s → s.fld Reg.HL_CTL 15 0 ≠ 0 →
    (∀ mods : Fin 16, modsOk mods = true → Completes (.linkEvent (.retrain mods)) s fun t =>
      t.hl = { s.hl with attach := .hold, hr := false, up := false, mods := mods } ∧ t.dc = s.dc ∧ t.ctx = s.ctx ∧ t.lists = s.lists
        ∧ t.ctr Reg.HL_HOLD_CNT = plus s Reg.HL_HOLD_CNT 1 ∧ t.ctr Reg.HL_RETRAIN_CNT = plus s Reg.HL_RETRAIN_CNT 1
        ∧ Reported s t (srcDevice 1) 0x304)
    ∧ (∀ kind : LinkKind, kind = .down ∨ kind = .hotReset → Completes (.linkEvent kind) s fun t =>
      t.hl.attach = .hold ∧ t.hl.hr = true ∧ t.hl.up = false ∧ t.hl.conf = [] ∧ t.hl.msix = [] ∧ t.hl.dec = [] ∧ t.hl.pendIrq = []
        ∧ t.hl.held = s.hl.held ∧ t.hl.lwl = s.hl.lwl ∧ t = { s with hl := t.hl, reg := t.reg }
        ∧ t.ctr Reg.HL_HOLD_CNT = plus s Reg.HL_HOLD_CNT 1))
  ∧ (∀ (s : State) (mods : Fin 16) (a : Nat) (bs : List Byte), s.hl.up = false → s.hl.attach = .hold → s.hl.hr = false → modsOk mods = true →
    s.vci.up = true → s.busMaster = true → s.cacheEnable = true → s.sump.fatal = false → s.hl.held = [.write a bs] → s.dc.op = none →
    Completes (.linkReturn mods) s fun t =>
      t.hl.attach = .attached ∧ t.hl.up = true ∧ t.hl.held = [] ∧ t.out = s.out ++ [.hostWrite a bs] ∧ t.dc = s.dc ∧ t.ctx = s.ctx)
  ∧ (∀ (s : State) (i : Instr), s.sump.fatal = false →
    (i = .hostLoss ∧ s.hl.attach ≠ .detached) ∨ (i = .viralReceived ∧ s.hl.up = true ∧ s.hl.attach ≠ .detached)
      ∨ (i = .holdTimeout ∧ s.hl.attach = .hold) →
    Completes i s fun t =>
      t.hl.attach = .detached ∧ t.dc.wt = [] ∧ t.dc.fills = [] ∧ t.dc.state = .init ∧ t.hl.bias = none ∧ t.out = s.out
        ∧ t.ctr Reg.HL_ABANDON_CNT = plus s Reg.HL_ABANDON_CNT s.dc.wt.length ∧ (∀ g, g < 196608 → t.granuleHost g = false)
        ∧ t.hbm = s.hbm ∧ (i = .viralReceived → t.hl.viralRx = true))
  ∧ (∀ (s : State) (mods : Fin 16), s.hl.up = true → s.hl.attach = .hold → s.sump.fatal = false →
    Completes (.linkEvent (.retrain mods)) s fun t =>
      t.ctr Reg.HL_HOLD_CNT = s.ctr Reg.HL_HOLD_CNT ∧ t.hl.attach = .hold ∧ t.hl.held = s.hl.held)

/-- R446, R448, R449, R459, R460: configuration reads return the space as it reads, and the identifier is read-only; D3hot is
taken only while no context exists; a decoder that meets R449 commits, and one whose size is no multiple of 256 MiB does not;
an idle link enters L1; and a vector that is unmasked sends its pending event. -/
def Sys2Proof.Claims.configurationAndDecoders : Prop :=
  (∀ (s : State) (dw : Fin 1024) (be : BitVec 4), s.hl.up = true →
    (Completes (.configRequest dw none be) s fun t => t.out = s.out ++ [.confData dw (s.confView dw)] ∧ t.reg = s.reg ∧ t.hl.conf = s.hl.conf)
    ∧ (∀ w : Word, s.hl.attach = .detached → dw.val = 0 → Completes (.configRequest dw (some w) be) s fun t => t.confWord 0 = s.confWord 0)
    ∧ (∀ w : Word, s.hl.attach = .detached → dw.val = 0x15 → be = 0xF#4 → s.hl.pendIrq = [] → Completes (.configRequest dw (some w) be) s fun t =>
      (t.confWord 0x15).toNat / 4 = w.toNat / 4 ∧ ∀ i, i ≠ 0x15 → t.confWord i = s.confWord i))
  ∧ (State.reset.confView 0 = 0x0A041F6B#32)
  ∧ (∀ s : State, s.hl.up = true → s.sump.fatal = false →
    (s.noContexts = true → Completes .d3hotWrite s fun t => t.inD3 = true ∧ t = { s with hl := { s.hl with conf := t.hl.conf } })
    ∧ (s.noContexts = false → exec .d3hotWrite s = .next s))
  ∧ (∀ (s : State) (base size skip : DWord) (lock : Bool), s.hl.up = true → s.inD3 = false → s.sump.fatal = false →
    (tget (fun _ => ({} : Decoder)) s.hl.dec 0).committed = false →
    (base.toNat % 2 ^ 28 = 0 → size.toNat % 2 ^ 28 = 0 → skip.toNat % 2 ^ 28 = 0 → size.toNat ≠ 0 → skip.toNat < 2 ^ 39 →
      skip.toNat % 2 ^ 36 + size.toNat ≤ 0xC00000000 → Completes (.decoderCommit 0 base size skip 0 lock) s fun t =>
        t.windows.head? = some (skip.toNat, size.toNat, base.toNat) ∧ t = { s with hl := { s.hl with dec := t.hl.dec } }
          ∧ ∀ k, k ≠ 0 → tget (fun _ => ({} : Decoder)) t.hl.dec k = tget (fun _ => ({} : Decoder)) s.hl.dec k)
    ∧ (size.toNat % 2 ^ 28 ≠ 0 → Completes (.decoderCommit 0 base size skip 0 lock) s fun t =>
      t.windows = [] ∧ (tget (fun _ => ({} : Decoder)) t.hl.dec 0).error = true ∧ t = { s with hl := { s.hl with dec := t.hl.dec } }))
  ∧ (∀ s : State, LinkUp s → s.aspmL1 = true → s.hl.l1 = false → s.dc.wt = [] → s.dc.fills = [] → s.dc.evb = [] → s.hl.reads = [] →
    s.hl.held = [] → s.hl.bias = none → Completes .l1Entry s fun t =>
      t.hl = { s.hl with l1 := true } ∧ t.ctr Reg.HL_L1_CNT = plus s Reg.HL_L1_CNT 1 ∧ t = { s with hl := t.hl, reg := t.reg })
  ∧ (∀ (s : State) (v : Fin 2048), LinkUp s → s.inD3 = false → s.msixEnable = true → s.msixMaskAll = false → s.hl.pendIrq = [v.val] →
    Completes (.vectorUnmask v) s fun t =>
      t.msixMasked v = false ∧ t.hl.pendIrq = [] ∧ t.out = s.out ++ [.msi v (s.msixAddr v) (s.msixData v)]
        ∧ t.ctr Reg.HL_MSG_CNT = plus s Reg.HL_MSG_CNT 1)

/-- R440, R454, R455: a placement write outside every window of its requester is counted and refused; one into the doorbell
line of its window is written and signals the window's peg; a completion that belongs to no read is counted; and a read of
Bittern, or a fill, that times out ends without data, counted and reported. -/
def Sys2Proof.Claims.placementAndTimeouts : Prop :=
  (∀ (s : State) (req : Half) (hpa : BitVec 52) (bs : List Byte), s.hl.up = true → s.inD3 = false → s.sump.fatal = false → bs ≠ [] →
    ((∀ a, s.dpaOf hpa.toNat = some a → s.placeWindow req.toNat a bs.length = none) → Completes (.placementWrite req hpa bs) s fun t =>
      t.ctr (Reg.FAB_PLACE_REFUSE_CNT 0) = plus s (Reg.FAB_PLACE_REFUSE_CNT 0) 1 ∧ t = { s with reg := t.reg })
    ∧ (∀ (n i d : Nat) (l : SLine), s.dpaOf hpa.toNat = some (128 * n) → s.placeWindow req.toNat (128 * n) bs.length = some i → bs.length = 128 →
      128 * (n + 1) = (s.fld (Reg.FAB_PLACE_W1 0 i) 23 0 + s.fld (Reg.FAB_PLACE_W2 0 i) 23 0 + 1) * 65536 → Held s n l → s.holders n = [] →
      s.admits (homeOf n) (s.fld (Reg.FAB_PLACE_W0 0 i) 30 28) false = true →
      s.pegOfPart (s.fld (Reg.FAB_PLACE_W0 0 i) 30 28) (s.fld (Reg.FAB_PLACE_W3 0 i) 14 0) = some d →
      Completes (.placementWrite req hpa bs) s fun t =>
        (t.sLine n).map (fun m => (m.data, m.dirty)) = some (bs, true) ∧ t.pegOps = s.pegOps ++ [(d, .signal 1)] ∧ t.hbm = s.hbm
          ∧ t.pegs = s.pegs))
  ∧ (∀ (s : State) (tag : Fin 1024) (x : SlotRead), s.hl.up = true → s.sump.fatal = false → (∀ e ∈ s.hl.reads, e.tag ≠ tag.val) →
    Completes (.hostCompletion tag x) s fun t =>
      t.ctr Reg.HL_UNEXP_CNT = plus s Reg.HL_UNEXP_CNT 1 ∧ t.vci = s.vci ∧ t = { s with hl := { s.hl with conf := t.hl.conf }, reg := t.reg })
  ∧ (∀ (s : State) (line : Fin 70368744177664) (f : Fill) (a : Agent), s.hl.attach = .attached → s.sump.fatal = false → s.dc.fills = [f] →
    f.line = line.val → f.agent = some a → Completes (.completionTimeout (.fill line)) s fun t =>
      t.dc = { s.dc with fills := [] } ∧ t.out = s.out ++ [.memData a line [] true] ∧ t.ctr Reg.HL_CTO_CNT = plus s Reg.HL_CTO_CNT 1
        ∧ Reported s t (srcDevice 1) 0x302)

/-- R446, R448, R449, R459, R460: configuration reads return the space as it reads, and the identifier is read-only; D3hot is
taken only while no context exists; a decoder that meets R449 commits, and one whose size is no multiple of 256 MiB does not; an
idle link enters L1; and a vector that is unmasked sends its pending event. R440, R454, R455: a placement write outside every
window of its requester is counted and refused; one into the doorbell line of its window is written and signals the window's
peg; a completion that belongs to no read is counted; and a read of Bittern, or a fill, that times out ends without data,
counted and reported. Where a clause rests on a reading or a choice of the model's own, log entries 117 to 134 name it. -/
def Obligations.HostConfigurationAndTimeouts : Prop :=
  Claims.configurationAndDecoders ∧ Claims.placementAndTimeouts

/-! ### Rings, the mailbox and commands -/

/-- R471, R474, R478: what the record of a completed command is. Of a mailbox command: DONE, BUSY clear, and the record's words,
with a PHASE that R474 does not give there (log entry 229); of a ring's command: one 32-byte write at the tail of its completion
ring with the ring's PHASE, which turns where the tail wraps, its reservation given back. The command is no longer started. -/
def Sys2Proof.Claims.completionRecordsArePosted : Prop :=
  ∀ (s : State) (c : Cmd) (st d f r0 r1 : Nat),
    (c.src.sq = 0xFFFF → s.sqAt 0xFFFF = none →
      (s.complete c st d f r0 r1).vci.mdone = true ∧ (s.complete c st d f r0 r1).vci.mbusy = false
        ∧ (∃ phase, ∀ w, w < 8 → (tget (fun _ => 0#32) (s.complete c st d f r0 r1).vci.mcpl w).toNat
          = ofLe ((((c.record st d f r0 r1).bytes phase).drop (4 * w)).take 4))
        ∧ (∀ e ∈ (s.complete c st d f r0 r1).vci.cmds, e.id ≠ c.id))
    ∧ (∀ (q : Sq) (k : Cq), c.src.sq ≠ 0xFFFF → s.sqAt c.src.sq = some q → q.since ≤ c.id → q.barrier = none → q.closing = none →
      s.cqAt q.cq = some k → k.vec = 0 → s.hl.attach = .attached →
      (s.complete c st d f r0 r1).out = s.out ++ [.hostWrite (k.base + 32 * k.tail) ((c.record st d f r0 r1).bytes k.phase)]
        ∧ (s.complete c st d f r0 r1).cqAt q.cq = some { k with
          reserved := k.reserved - 1, tail := (k.tail + 1) % 2 ^ k.log2,
          phase := if (k.tail + 1) % 2 ^ k.log2 = 0 then !k.phase else k.phase }
        ∧ (∀ e ∈ (s.complete c st d f r0 r1).vci.cmds, e.id ≠ c.id))

/-- R471, R473, R475: doorbells move a ring's TAIL or HEAD, or are ignored and counted; GO makes the mailbox busy and starts its
slot, or ends it with the status of the check it fails; a fetch takes the next slot of the ring whose turn it is, reserves a
record and starts the command, and a completion starts it where the read was issued before; a NOP completes. -/
def Sys2Proof.Claims.commandsAreFetchedAndStarted : Prop :=
  (∀ (s : State) (n : Fin 256) (w : Word) (stream : Fin 9), s.hostOpen = true →
    (∀ r : Sq, s.sqAt n = some r → w.toNat % 65536 < 2 ^ r.log2 → s.hl.attach = .attached → s.onStream r.cls stream = true →
      Completes (.sqDb n w stream) s fun t => t.sqAt n = some { r with tail := w.toNat % 65536 } ∧ t.vci.dbErr = s.vci.dbErr ∧ t.out = s.out
        ∧ ∀ m, m ≠ n.val → t.sqAt m = s.sqAt m)
    ∧ (∀ k : Cq, s.cqAt n = some k → w.toNat % 65536 < 2 ^ k.log2 → s.hl.attach = .attached → s.onStream k.cls stream = true →
      k.waiting = [] → k.lost = 0 → Completes (.cqDb n w stream) s fun t => t.cqAt n = some { k with head := w.toNat % 65536 } ∧ t.out = s.out
        ∧ ∀ m, m ≠ n.val → t.cqAt m = s.cqAt m)
    ∧ (∀ i : Instr, (i = .sqDb n w stream ∧ s.sqAt n = none) ∨ (i = .cqDb n w stream ∧ s.cqAt n = none) → Completes i s fun t =>
      t.vci.dbErr.toNat = min 0xFFFFFFFF (s.vci.dbErr.toNat + 1) ∧ t.vci.sq = s.vci.sq ∧ t.vci.cq = s.vci.cq ∧ t.out = s.out))
  ∧ (∀ (s : State) (c : Cmd), s.hostOpen = true → s.vci.up = true →
    c = { id := s.vci.nextCmd, src := ⟨0xFFFF, 0⟩, cls := 15, head := 0
          bytes := (List.range 64).flatMap fun w => leBytes 4 (tget (fun _ => 0#32) s.vci.mslot w).toNat } →
    (s.vci.mbusy = true → exec .mboxGo s = .next s)
    ∧ (s.vci.mbusy = false → s.precheck c = none → Completes .mboxGo s fun t =>
      t.vci.mbusy = true ∧ t.vci.mdone = false ∧ t.vci.cmds = s.vci.cmds ++ [c] ∧ t.vci.nextCmd = s.vci.nextCmd + 1 ∧ t.out = s.out)
    ∧ (∀ st d, s.vci.mbusy = false → s.precheck c = some (st, d) → st < 256 → Completes .mboxGo s fun t =>
      t.vci.mbusy = false ∧ t.vci.mdone = true ∧ t.vci.cmds = s.vci.cmds ∧ bitsOf (tget (fun _ => 0#32) t.vci.mcpl 1).toNat 23 16 = st))
  ∧ (∀ (s : State) (k q : Nat) (r : Sq) (e : Cq) (bs : List Byte), s.nextRing = some (k, q) → s.sqAt q = some r → s.cqAt r.cq = some e →
    s.fetches = true →
    (∀ c : Cmd, c = { id := s.vci.nextCmd, src := ⟨q, r.head⟩, cls := r.cls, head := (r.head + 1) % 2 ^ r.log2
                      bytes := (bs ++ List.replicate 256 0#8).take 256 } → c.barrier = false → s.precheck c = none →
      Completes (.commandFetch (some (.data bs))) s fun t =>
        t.vci.cmds = s.vci.cmds ++ [c] ∧ t.sqAt q = some { r with head := (r.head + 1) % 2 ^ r.log2 }
          ∧ t.cqAt r.cq = some { e with reserved := e.reserved + 1 } ∧ t.out = s.out)
    ∧ (∀ g : Nat, s.freeReadTag = some g → Completes (.commandFetch none) s fun t =>
      t.hl.reads = s.hl.reads ++ [⟨g, q, r.head⟩] ∧ t.out = s.out ++ [.hostRead g (r.base + 256 * r.head) 256] ∧ t.vci.cmds = s.vci.cmds
        ∧ t.cqAt r.cq = some { e with reserved := e.reserved + 1 }))
  ∧ (∀ (s : State) (e : HostRd) (tag : Fin 1024) (r : Sq) (bs : List Byte) (c : Cmd), s.hl.up = true → s.sump.fatal = false →
    s.hl.reads = [e] → e.tag = tag.val → s.sqAt e.sq = some r →
    c = { id := s.vci.nextCmd, src := ⟨e.sq, e.slot⟩, cls := r.cls, head := (e.slot + 1) % 2 ^ r.log2
          bytes := (bs ++ List.replicate 256 0#8).take 256 } → c.barrier = false → s.precheck c = none →
    Completes (.hostCompletion tag (.data bs)) s fun t => t.hl.reads = [] ∧ t.vci.cmds = s.vci.cmds ++ [c] ∧ t.out = s.out)
  ∧ (∀ (s : State) (src : CmdSrc) (c : Cmd), Waiting s src 0x0000 c → Answers (.nopCommand src) s c 0 fun u => u = s)

/-- R471, R474, R478: what the record of a completed command is. Of a mailbox command: DONE, BUSY clear, and the record's words,
with a PHASE that R474 does not give there (log entry 229); of a ring's command: one 32-byte write at the tail of its completion ring with the ring's PHASE, which turns where the tail
wraps, its reservation given back. The command is no longer started. R471, R473, R475: doorbells move a ring's TAIL or HEAD, or
are ignored and counted; GO makes the mailbox busy and starts its slot, or ends it with the status of the check it fails; a
fetch takes the next slot of the ring whose turn it is, reserves a record and starts the command, and a completion starts it
where the read was issued before; a NOP completes. Where a clause rests on a reading or a choice of the model's own, log entries
135 to 157 name it. -/
def Obligations.RingsAndRecords : Prop :=
  Claims.completionRecordsArePosted ∧ Claims.commandsAreFetchedAndStarted

/-- R466, R472, R495, R500, R409: CAP_QUERY writes the 256 bytes of its ring's view; RING_CREATE makes a ring as it is
described, and refuses what R472 forbids; RING_DESTROY takes a completion ring that no submission ring names at once; LWL_ACK
clears the entries named; and DEV_ID_SET sets the identifier and epoch while no connection is OPEN. Where a clause rests on a
reading or a choice of the model's own, log entries 135 to 157 name it. -/
def Obligations.DeviceCommands : Prop :=
  ∀ (s : State) (src : CmdSrc) (c : Cmd) (n : Nat),
    (Waiting s src 0x0001 c → c.par 0 8 ≠ 0 → c.par 0 8 % 64 = 0 → c.par 0 8 < 2 ^ 52 → s.hl.attach = .attached → c.cls = 15 →
      Answers (.capQuery src) s c 0 (fun u => u.out = s.out ++ [.hostWrite (c.par 0 8) (s.capability none)] ∧ (s.capability none).length = 256
        ∧ u.vci = s.vci) 256)
    ∧ (Waiting s src 0x0004 c → c.par 0 2 = n →
      (∀ st d, s.ringBad c = some (st, d) → Answers (.ringCreate src) s c st fun u => u = s)
      ∧ (s.ringBad c = none → c.par 2 1 = 0 → Answers (.ringCreate src) s c 0 fun u =>
        u.sqAt n = some { cls := c.par 4 1, log2 := c.par 3 1, base := c.par 8 8, cq := c.par 6 2, since := s.vci.nextCmd }
          ∧ (∀ m, m ≠ n → u.sqAt m = s.sqAt m) ∧ u.vci.cq = s.vci.cq)
      ∧ (s.ringBad c = none → c.par 2 1 = 1 → Answers (.ringCreate src) s c 0 fun u =>
        u.cqAt n = some { event := false, cls := c.par 4 1, log2 := c.par 3 1, vec := c.par 6 2, base := c.par 8 8 }
          ∧ (∀ m, m ≠ n → u.cqAt m = s.cqAt m) ∧ u.vci.sq = s.vci.sq))
    ∧ (∀ k : Cq, Waiting s src 0x0005 c → c.par 0 2 = n → n < 256 → c.par 2 1 = 1 → s.cqAt n = some k → k.event = false →
      ((∀ e ∈ s.vci.sq, e.2.cq ≠ n) → Answers (.ringDestroy src) s c 0 fun u => u.cqAt n = none ∧ u.vci.sq = s.vci.sq
        ∧ ∀ m, m ≠ n → u.cqAt m = s.cqAt m)
      ∧ ((∃ e ∈ s.vci.sq, e.2.cq = n) → Answers (.ringDestroy src) s c 6 fun u => u = s))
    ∧ (Waiting s src 0x0006 c → c.par 0 2 + c.par 2 2 ≤ 512 → Answers (.lwlAck src) s c 0 fun u =>
      u.hl.lwl = s.hl.lwl.filter (fun e => !(decide (c.par 0 2 ≤ e.1) && decide (e.1 < c.par 0 2 + c.par 2 2)))
        ∧ (bitOf (c.par 4 1) 0 = true → u.bit Reg.HL_LWL_STS 31 = false ∧ u.cfg Reg.HL_LWL_OVF_LO = 0#32 ∧ u.cfg Reg.HL_LWL_OVF_HI = 0#32)
        ∧ (bitOf (c.par 4 1) 0 = false → u.reg = s.reg) ∧ u.vci = s.vci)
    ∧ (Waiting s src 0x0007 c → c.par 0 4 < 2 ^ 18 →
      ((∀ e ∈ s.fab.conns, e.2.state ≠ .opened) → Answers (.devIdSet src) s c 0 fun u =>
        u.devOk = true ∧ u.devId = c.par 0 4 ∧ u.devEp = c.par 4 1 ∧ u.vci = s.vci ∧ u.fab = s.fab)
      ∧ ((∃ e ∈ s.fab.conns, e.2.state = .opened) → Answers (.devIdSet src) s c 6 fun u => u = s))

/-! ### Contexts and segments -/

/-- R262, R263, R282, R284, R287, R481, R492: CTX_CREATE makes a FREE context EMPTY with its cores and save areas, and refuses a
context that is not FREE; SEG_MAP writes the descriptor of an unmapped segment; SEG_UNMAP makes it invalid and asks for the mark
and drain; INVALIDATE asks for those of a context; a PREFETCH_XLAT of nothing is E_RANGE; ADVISE changes ADV and PIN alone; and
QUERY reports a context's state and a list's position, or that there is no such list. Where a clause rests on a reading or a
choice of the model's own, log entries 135 to 157 name it. -/
def Obligations.ContextCommands : Prop :=
  ∀ (s : State) (src : CmdSrc) (c : Cmd) (i : Nat),
    (∀ k : Ctx, Waiting s src 0x0200 c →
      k = { state := .empty, part := c.part, cores := c.par 0 12, save := (List.range 4).map fun r => c.par (0x10 + 8 * r) 8 } →
      (s.ctxBad k c.ctx (c.par 0xC 2) (c.par 0xE 2) = none → Answers (.ctxCreate src) s c 0 fun u =>
        u.context c.ctx = k ∧ (∀ x, x ≠ c.ctx → u.context x = s.context x) ∧ u.vci = s.vci ∧ u.hbm = s.hbm)
      ∧ ((s.context c.ctx).state ≠ .free → (s.context c.ctx).state ≠ .destroying → (s.context c.ctx).destroy = none →
        Answers (.ctxCreate src) s c 6 fun u => u = s))
    ∧ (∀ g : Seg, Waiting s src 0x0202 c → c.par 0 1 = i → i < 16 → c.ctx < 64 →
      g = ⟨c.par 0x10 4, c.par 0x14 4, c.par 0x18 4, c.par 0x1C 4⟩ →
      (∀ st d, s.segBad c.ctx i g = some (st, d) → Answers (.segMap src) s c st fun u => u = s)
      ∧ (s.segBad c.ctx i g = none → (s.seg c.ctx i).valid = false → Answers (.segMap src) s c 0 fun u =>
        u.seg c.ctx i = g ∧ (∀ j, j < 16 → j ≠ i → u.seg c.ctx j = s.seg c.ctx j) ∧ u.vci = s.vci ∧ u.xl = s.xl ∧ u.hbm = s.hbm))
    ∧ (Waiting s src 0x0203 c → c.par 0 1 = i → i < 16 → c.ctx < 64 → Completes (.segUnmap src) s fun t =>
      t.seg c.ctx i = ⟨0, 0, 0, 0⟩ ∧ (∀ j, j < 16 → j ≠ i → t.seg c.ctx j = s.seg c.ctx j)
        ∧ t.xl.invs = s.xl.invs ++ [⟨some c, c.ctx, i * 2 ^ 44, i * 2 ^ 44 + 2 ^ 44 - 1, false, []⟩] ∧ t.vci = (s.running c).vci)
    ∧ (Waiting s src 0x0204 c → c.par 0 1 = 0 → Completes (.invalidate src) s fun t =>
      t.xl = { s.xl with invs := s.xl.invs ++ [⟨some c, c.ctx, 0, 2 ^ 48 - 1, false, []⟩] } ∧ t.vci = (s.running c).vci ∧ t.reg = s.reg)
    ∧ (Waiting s src 0x0205 c →
      (c.par 0x10 8 = 0 → Answers (.prefetchXlat src) s c 0xA fun u => u = s)
      ∧ (c.par 0 1 = 0 → 0 < c.par 0x10 8 → c.par 0x10 8 ≤ 65536 → c.par 8 8 + c.par 0x10 8 ≤ 2 ^ 48 → c.par 8 8 % 65536 = 0 →
        Answers (.prefetchXlat src) s c 0 fun u => u = s))
    ∧ (Waiting s src 0x0206 c → c.par 0 1 = i → i < 16 → c.ctx < 64 → (s.seg c.ctx i).valid = true → c.par 1 1 < 3 →
      Answers (.advise src) s c 0 fun u =>
        (u.seg c.ctx i).adv = c.par 1 1 ∧ (u.seg c.ctx i).w1 = (s.seg c.ctx i).w1 ∧ (u.seg c.ctx i).core0 = (s.seg c.ctx i).core0
          ∧ u.xl = s.xl ∧ u.vci = s.vci)
    ∧ (Waiting s src 0x020C c →
      (c.par 0 1 = 0 → Answers (.queryContext src) s c 0 (fun u => u = s)
        ((s.context c.ctx).state.code + s.boundCores c.ctx * 256
          + ((s.coresOf c.ctx).filter fun j => (s.core j).seq == .halted).length * 65536
          + (((s.context c.ctx).causes.head?.map (·.code)).getD 0) * 2 ^ 24) (((s.context c.ctx).base).getD 0))
      ∧ (∀ (k : Nat) (l : CList), c.par 0 1 = 1 → c.cls = 15 → s.listOfCmd ⟨c.par 2 2, c.par 4 2⟩ = some (k, l) →
        Answers (.queryList src) s c 0 (fun u => u = s) (s.listPos k l)
          (l.permille (decide (16 ≤ k / 64)) + l.st.code * 2 ^ 10 + l.status * 2 ^ 13))
      ∧ (c.par 0 1 = 1 → s.listOfCmd ⟨c.par 2 2, c.par 4 2⟩ = none → Answers (.queryList src) s c 0xA fun u => u = s))

/-! ### Hands -/

/-- R203, R205, R484 to R490: HAND_LOAD of a container that passes every check binds its cores and makes the context LOADED, and
one that fails is E_HAND with its row, no core written; LAUNCH fixes the base Round and arms the context, and refuses one that
is too near; CANCEL withdraws an armed launch, whose record is written as CANCELLED, and stops a running hand; PREEMPT stops
every core, and the context is PREEMPTED when the images are written; RESUME of a suspended context goes on at a boundary; and
restored images make its cores ready, or one that fails its check is E_IMAGE. Where a clause rests on a reading or a choice of
the model's own, log entries 135 to 157 name it. -/
def Obligations.HandsLoadLaunchAndStop : Prop :=
  (∀ (s : State) (src : CmdSrc) (c : Cmd) (fills : List HostFill) (g : CmdRead) (u : State) (map : Nat → Option Nat),
    Waiting s src 0x0207 c → (s.context c.ctx).state = .empty → 0 < c.par 8 8 → c.par 0 8 + c.par 8 8 ≤ 2 ^ 48 →
    s.readCmd c.ctx fills (c.par 0 8) (c.par 8 8) = (.ok g, u) → g.hostEnd = false → g.bytes.any (·.2) = false →
    map = (fun g => if bitOf (c.at (0x40 + g) 1) 7 then some (c.at (0x40 + g) 1 % 4) else none) →
    (∀ row, u.handCheck c.ctx (g.bytes.map (·.1)) map = .error row → Answers (.handLoad src fills) s c 0xC fun v => v = u)
    ∧ (∀ bs, u.handCheck c.ctx (g.bytes.map (·.1)) map = .ok bs → (∀ e ∈ bs, u.coreTaken c.ctx e.1 = false) →
      (∀ e ∈ bs, ∀ j, u.coreOf e.1 = some j → (u.core j).pwr = .run) → Answers (.handLoad src fills) s c 0 fun v =>
        (v.context c.ctx).state = .loaded ∧ (v.context c.ctx).causes = []
          ∧ (v.context c.ctx).hand.map (·.binds) = some (bs.map fun e => (e.1, e.2.entry)) ∧ v.hbm = u.hbm ∧ v.pegs = u.pegs))
  ∧ (∀ (s : State) (src : CmdSrc) (c : Cmd) (h : Hand) (base : Nat), Waiting s src 0x0208 c → (s.context c.ctx).state = .loaded →
    (s.context c.ctx).hand = some h → s.periodBad c.ctx = false → (∀ e ∈ h.binds, s.coreTaken c.ctx e.1 = false) → h.plan = [] →
    bitOf (c.par 8 1) 1 = false → base = (if bitOf (c.par 8 1) 0 then s.rnd + c.par 0 8 else c.par 0 8) →
    (s.rnd + s.lead 0 ≤ base → Completes (.launch src) s fun t =>
      (t.context c.ctx).state = .armed ∧ (t.context c.ctx).base = some base ∧ (t.context c.ctx).launch = some c
        ∧ (t.context c.ctx).hand = some h ∧ t.pegs = s.pegs ∧ t.vci = (s.running c).vci)
    ∧ (base < s.rnd + s.lead 0 → Answers (.launch src) s c 0xE fun u => u = s))
  ∧ (∀ (s : State) (src : CmdSrc) (c : Cmd), Waiting s src 0x0209 c →
    ((s.context c.ctx).state = .armed → (s.context c.ctx).launch = none → Completes (.cancel src) s fun t =>
      (t.context c.ctx).state = .loaded ∧ (t.context c.ctx).base = none ∧ (t.context c.ctx).gate = none ∧ t.pegs = s.pegs
        ∧ (t.context c.ctx).hand = (s.context c.ctx).hand)
    ∧ ((s.context c.ctx).state = .preempting → (s.context c.ctx).cancel = none → Completes (.cancel src) s fun t =>
      t.context c.ctx = { s.context c.ctx with cancel := some c } ∧ t.cores = s.cores ∧ t.vci = (s.running c).vci)
    ∧ ((s.context c.ctx).state = .loaded → (s.context c.ctx).cancel = none → Answers (.cancel src) s c 6 fun u => u = s))
  ∧ (∀ (s : State) (src : CmdSrc) (c : Cmd), Waiting s src 0x020A c → (s.context c.ctx).state = .running → (s.context c.ctx).goes = false →
    (s.context c.ctx).cancel = none → Completes (.preempt src) s fun t =>
      t.context c.ctx = { s.context c.ctx with state := .preempting, preempt := some c } ∧ t.lists = s.lists ∧ t.vci = (s.running c).vci
        ∧ ∀ i, i ∈ s.coresOf c.ctx → (s.core i).seq = .run → (t.core i).stop = some .preempt ∧ (t.core i).seq = .draining)
  ∧ (∀ (s : State) (x : Fin 64) (c : Cmd), (s.context x).state = .preempting → s.handStill x = true → s.sump.fatal = false →
    (s.context x).preempt = some c → (s.context x).cancel = none → (s.context x).destroy = none → Answers (.preemptSaveDone x) s c 0 fun u =>
      (u.context x).state = .preempted ∧ (u.context x).preempt = none ∧ (u.context x).hand = (s.context x).hand
        ∧ (u.context x).images.length = ((s.coresOf x).filter fun i => !(s.core i).isolated).length
        ∧ (∀ i ∈ s.coresOf x, (u.core i).ctx = none) ∧ u.hbm = s.hbm)
  ∧ (∀ (s : State) (src : CmdSrc) (c : Cmd), Waiting s src 0x020B c → (s.context c.ctx).goes = false → (s.context c.ctx).cancel = none →
    ((s.context c.ctx).state = .suspended → s.persists c.ctx = none → Completes (.resume src) s fun t =>
      (t.context c.ctx).goes = true ∧ (t.context c.ctx).causes = [] ∧ (t.context c.ctx).resume = some c
        ∧ (t.context c.ctx).state = .suspended ∧ t.vci = (s.running c).vci)
    ∧ (∀ st d, (s.context c.ctx).state = .suspended → s.persists c.ctx = some (st, d) → Answers (.resume src) s c st fun u => u = s)
    ∧ ((s.context c.ctx).state = .empty → Answers (.resume src) s c 6 fun u => u = s))
  ∧ (∀ (s : State) (x : Fin 64) (c : Cmd), (s.context x).state = .resuming → (s.context x).goes = false → s.sump.fatal = false →
    (∀ i ∈ s.coresOf x, (s.core i).pwr = .run) → (s.context x).resume = some c → (s.context x).cancel = none →
    (∀ l : Fin 96, Answers (.resumeRestoreDone x (some l)) s c 0x15 fun u =>
      (u.context x).state = .preempted ∧ (u.context x).resume = none ∧ (u.context x).images = (s.context x).images
        ∧ ∀ i ∈ s.coresOf x, (u.core i).ctx = none)
    ∧ ((s.context x).causes = [] → Completes (.resumeRestoreDone x none) s fun t =>
      (t.context x).state = .resuming ∧ (t.context x).goes = true ∧ (t.context x).images = [] ∧ (t.context x).resume = some c ∧ t.vci = s.vci))

/-! ### Partitions, shutdown and attachment -/

/-- R495, R497, R498, R508 to R511: PART_CREATE of a record that passes the checks makes a FREE partition ACTIVE with its
registers, and PART_MODIFY replaces them; the checks that fail first give the status and change nothing; PART_DESTROY and
CTX_DESTROY begin to drain; ATTACH with the right token attaches with a new one, and a wrong token changes nothing; and DETACH
stops fetching until it drains. Where a clause rests on a reading or a choice of the model's own, log entries 135 to 157 name
it. -/
def Obligations.PartitionsAndAttachment : Prop :=
  (∀ (s : State) (src : CmdSrc) (c : Cmd) (p : Nat), c.par 0 1 = p → s.partTurn c = true →
    (Waiting s src 0x0100 c → p < 8 →
      ((s.part p).state = .free → recordRange (c.bytes.drop 0x40) false = false → s.recordCore p (c.bytes.drop 0x40) false = none →
        s.recordSpace p (c.bytes.drop 0x40) = false → Answers (.partCreate src) s c 0 fun u =>
          u.part p = { state := .active, record := c.bytes.drop 0x40 } ∧ (∀ q, q ≠ p → u.part q = s.part q)
            ∧ u.limT1 p = rec_ (c.bytes.drop 0x40) 0x18 4 ∧ u.ctx = s.ctx ∧ u.vci = s.vci)
      ∧ ((s.part p).state = .active → Answers (.partCreate src) s c 6 fun u => u = s)
      ∧ ((s.part p).state = .destroying → Answers (.partCreate src) s c 7 fun u => u = s))
    ∧ (Waiting s src 0x0101 c →
      (p < 8 → (s.part p).state = .free → Answers (.partModify src) s c 6 fun u => u = s)
      ∧ (p < 8 → (s.part p).state = .active → (s.tdiOf p).stream = 0 → recordRange (c.bytes.drop 0x40) false = false →
        s.recordCore p (c.bytes.drop 0x40) true = none → s.recordSpace p (c.bytes.drop 0x40) = false →
        s.recordUse p (c.bytes.drop 0x40) = none → (∀ l, l < 96 → s.ownsCore p l = true → bitOf (rec_ (c.bytes.drop 0x40) 0 12) l = true) →
        Answers (.partModify src) s c 0 fun u => (u.part p).record = c.bytes.drop 0x40 ∧ (u.part p).state = .active
          ∧ (∀ q, q ≠ p → u.part q = s.part q) ∧ u.limT1 p = rec_ (c.bytes.drop 0x40) 0x18 4 ∧ u.ctx = s.ctx ∧ u.cores = s.cores ∧ u.vci = s.vci))
    ∧ (Waiting s src 0x0102 c → p < 8 →
      ((s.part p).state = .active → (s.tdiOf p).state = .unlocked → (∀ d ∈ s.vci.cmds, d.opcode < 0x0200) → Completes (.partDestroy src) s fun t =>
        t.part p = { s.part p with state := .destroying, destroy := some c } ∧ t.vci = (s.running c).vci ∧ t.ctx = s.ctx ∧ t.hbm = s.hbm)
      ∧ ((s.part p).state = .free → Answers (.partDestroy src) s c 6 fun u => u = s)))
  ∧ (∀ (s : State) (src : CmdSrc) (c : Cmd), Waiting s src 0x0201 c → (s.context c.ctx).state = .preempting → Completes (.ctxDestroy src) s fun t =>
    t.context c.ctx = { s.context c.ctx with destroy := some c } ∧ t.vci = (s.running c).vci)
  ∧ (∀ (s : State) (src : CmdSrc) (c : Cmd) (k : Nat), Waiting s src 0x0002 c → s.vci.detach = none →
    (∀ d ∈ s.vci.cmds, d.opcode = 0x0002 → d.ran = false) →
    (s.hl.attach = .detached → s.vci.token = some k →
      (c.par 0 8 = k → s.hl.lwl = [] → ∃ token, Answers (.attach src) s c 0 (fun u =>
        u.hl.attach = .attached ∧ u.vci.token = some token ∧ u.bit Reg.HL_STS 28 = bitOf (c.par 8 1) 0
          ∧ u.fld Reg.HL_STS 15 8 = (s.fld Reg.HL_STS 15 8 + 1) % 256 ∧ u.parts = s.parts ∧ u.ctx = s.ctx) 0 token)
      ∧ (c.par 0 8 ≠ k → bitOf (c.par 8 1) 1 = false → Answers (.attach src) s c 0x10 fun u => u = s))
    ∧ (s.hl.attach = .attached → Answers (.attach src) s c 6 fun u => u = s))
  ∧ (∀ (s : State) (src : CmdSrc) (c : Cmd), Waiting s src 0x0003 c → s.vci.detach = none →
    (s.hl.attach = .attached → Completes (.detach src) s fun t =>
      t.vci = { (s.running c).vci with detach := some c } ∧ t.fetches = false ∧ t.hl = s.hl ∧ t.parts = s.parts)
    ∧ (s.hl.attach = .detached → Answers (.detach src) s c 6 fun u => u = s))

/-! ### Heron -/

/-- R525, R527, R529, R530, R532, R533, R549: what each sample does. A window moves every throttling rail's step by one and
counts regions that throttle; a long stay at step 7, and 16 windows above the limit, are reported; the thermal caps move by one
point and the alarm is reported once; a comparator trips at its second hot sample; a grant is the least of request, OP_MAX and
thermal cap, or is refused; a ready change is applied; and the design power waits for its boundary. Where a clause rests on a
reading or a choice of the model's own, log entries 158 to 169 name it. -/
def Obligations.PowerAndThermalControl : Prop :=
  (∀ (s : State) (amps volts : List Half), s.heron.state ≠ .boot → Completes (.railWindow amps volts) s fun t =>
    (∀ n, n < 6 → (t.rail n).amps = (amps.getD n 0).toNat ∧ (t.rail n).volts = (volts.getD n 0).toNat
      ∧ (t.rail n).step = if s.heron.ilim.getD n 0 < (amps.getD n 0).toNat then min 7 ((s.rail n).step + 1)
          else if 8 * (amps.getD n 0).toNat < 7 * s.heron.ilim.getD n 0 then (s.rail n).step - 1 else (s.rail n).step)
      ∧ t.ctr Reg.HERON_THR_CNT = plus s Reg.HERON_THR_CNT (((List.range 4).filter fun r => decide (0 < t.thrStep r)).length)
      ∧ t.heron.ops = s.heron.ops
      ∧ ((s.rail 6).overAmps = 15 → s.heron.ilim.getD 6 0 < (amps.getD 6 0).toNat → (s.rail 7).overAmps ≠ 15 → (s.rail 8).overAmps ≠ 15 →
        Reported s t (srcDevice 12) 0x600 ∧ (t.rail 6).overAmps = 0))
  ∧ (∀ (s : State) (n : Fin 6), 500 ≤ (s.rail n).at7 → (s.rail n).reported = false → Completes (.pwrLimit n) s fun t =>
    Reported s t (srcDevice 12) 0x601 ∧ (t.rail n).reported = true ∧ (t.rail n).step = (s.rail n).step ∧ t.due.length = s.due.length + 1)
  ∧ (∀ (s : State) (temps : List Byte), s.heron.state ≠ .boot → temps.length = 64 → Completes (.diodeRead temps) s fun t =>
    (∀ d, d < 64 → t.diode d = (temps.getD d 0).toNat) ∧ t.heron.ops = s.heron.ops ∧ t.sump = s.sump ∧ t.out = s.out)
  ∧ (∀ s : State, s.heronRuns = true → s.round.state ≠ .off → Completes .thermalControl s fun t =>
    (∀ r j, r < 4 → s.tj r = some j → (t.op r).applied = (s.op r).applied
      ∧ (t.op r).capT = if s.heron.tctl ≤ j then (s.op r).capT - 1 else if j + 5 ≤ s.heron.tctl then min 7 ((s.op r).capT + 1)
          else (s.op r).capT)
      ∧ (∀ d j, s.tjMax = some (d, j) → s.heron.tctl + 10 ≤ j →
        t.heron.alarm = true ∧ (s.heron.alarm = false → Reported s t (srcDevice 13) 0x602) ∧ (s.heron.alarm = true → t.sump = s.sump)))
  ∧ (∀ (s : State) (d : Fin 64) (v : Byte), s.heron.state ≠ .boot → 115 ≤ v.toNat →
    (d.val ∈ s.heron.hot → d.val ∉ s.heron.tripped → Completes (.tripSample [(d, v)]) s fun t =>
      Reported s t (srcDevice 13) 0x603 ∧ t.sump.lines.length = s.sump.lines.length + 1 ∧ d.val ∈ t.heron.tripped)
    ∧ (d.val ∉ s.heron.hot → Completes (.tripSample [(d, v)]) s fun t =>
      t.sump = s.sump ∧ t.heron.hot = [d.val] ∧ t.heron.tripped = s.heron.tripped))
  ∧ (∀ (s : State) (r : Fin 4) (g : Nat), (s.op r).target = some g → s.round.state ≠ .off →
    (Completes (.pllLock r) s fun t => t.op r = { s.op r with pll := true } ∧ t.sump = s.sump ∧ t.reg = s.reg)
    ∧ (Completes (.railRampDone r) s fun t => t.op r = { s.op r with rail := true } ∧ t.sump = s.sump ∧ t.reg = s.reg))
  ∧ (∀ (s : State) (r g : Nat), g = min (s.opReq r) (min (opMax s.heron.dp) (s.op r).capT) →
    ((g ≤ (s.op r).applied ∨ s.railRecent r = false) →
      ((s.opGrant r).op r).grant = g ∧ ((s.opGrant r).op r).applied = (s.op r).applied
        ∧ (s.opGrant r).ctr Reg.HERON_REFUSE_CNT = s.ctr Reg.HERON_REFUSE_CNT)
    ∧ ((s.op r).applied < g → s.railRecent r = true →
      ((s.opGrant r).op r).grant = (s.op r).applied ∧ ((s.opGrant r).op r).applied = (s.op r).applied
        ∧ (s.opGrant r).ctr Reg.HERON_REFUSE_CNT = plus s Reg.HERON_REFUSE_CNT 1))
  ∧ (∀ (s : State) (r g : Nat), (s.op r).target = some g → (s.op r).applied < g →
    ((s.op r).pll = true → (s.op r).rail = true →
      ((s.opApply r).op r).applied = g ∧ (s.opApply r).ctr Reg.HERON_GRANT_CNT = plus s Reg.HERON_GRANT_CNT 1)
    ∧ ((s.op r).pll = false ∨ (s.op r).rail = false → s.opApply r = s))
  ∧ (∀ (s : State) (w : Half), s.heronRuns = true → s.round.state ≠ .off →
    (550 ≤ w.toNat → w.toNat ≤ s.heron.dpMax → Completes (.designPowerEffecter w) s fun t =>
      t.heron.dpNext = some w.toNat ∧ t.heron.dp = s.heron.dp ∧ t.due.length = s.due.length + 1 ∧ t.out = s.out ++ [.pldm .ok])
    ∧ ((w.toNat < 550 ∨ s.heron.dpMax < w.toNat) → Completes (.designPowerEffecter w) s fun t =>
      t.heron = s.heron ∧ t.due = s.due ∧ t.out = s.out ++ [.pldm .invalidData]))
  ∧ (∀ (s : State) (w : Half), s.heron.state ≠ .boot → Completes (.sensorUpdate w) s fun t =>
    t.heron.watts = w.toNat ∧ t.heron.ms = s.heron.ms + 1 ∧ t.reg = s.reg ∧ t.heron.ops = s.heron.ops ∧ t.sump = s.sump
      ∧ (s.heron.state = .restart → t.out = s.out))
  ∧ opMax 550 = 1 ∧ opMax 800 = 5 ∧ opMax 900 = 5 ∧ opMax 1000 = 7

/-- R521, R537, R542 to R548: the log keeps main and repair records in their areas, the oldest of the main area giving way;
reads return records from an index; I3C addresses are taken; an update fills the inactive slot and is verified; a STAGED slot is
scheduled, and its self-checks end the command or bring the old slot back; and Heron leaves RESTART. Where a clause rests on a
reading or a choice of the model's own, log entries 158 to 169 name it. -/
def Obligations.LogAndFirmware : Prop :=
  (∀ (s : State) (x : LogRec) (rest : List LogRec), s.due = x :: rest → s.heronRuns = true → s.rst.pulse = false → s.rst.late = false →
    (x.kind ≠ 5 → x.kind ≠ 6 → Completes .logWrite s fun t =>
      t.due = rest ∧ t.heron.main = (if 30720 ≤ s.heron.main.length then s.heron.main.drop 1 else s.heron.main)
          ++ [⟨s.heron.seq + 1, x.kind, x.sev, x.stamp, x.data⟩]
        ∧ t.heron.seq = s.heron.seq + 1 ∧ t.heron.repair = s.heron.repair ∧ t.rst.pulse = true)
    ∧ (x.kind = 5 ∨ x.kind = 6 → s.heron.repair.length < 2048 → Completes .logWrite s fun t =>
      t.due = rest ∧ t.heron.repair = s.heron.repair ++ [⟨s.heron.seq + 1, x.kind, x.sev, x.stamp, x.data⟩]
        ∧ t.heron.seq = s.heron.seq + 1 ∧ t.heron.main = s.heron.main)
    ∧ (x.kind = 5 ∨ x.kind = 6 → 2048 ≤ s.heron.repair.length → Completes .logWrite s fun t =>
      t.due = rest ∧ t.heron.repair = s.heron.repair ∧ t.heron.seq = s.heron.seq ∧ t.heron.full = true
        ∧ Reported s t (srcDevice 6) 0x604 ∧ t.bit Reg.HERON_LOG_STS 31 = true))
  ∧ (∀ (s : State) (rep : Bool) (i : Half), s.heronRuns = true → Completes (.logRead rep i) s fun t =>
    t.out = s.out ++ [.logRead (((if rep then s.heron.repair else s.heron.main).drop i.toNat).take 8)] ∧ t.heron = s.heron)
  ∧ (∀ (s : State) (a b : BitVec 7), s.heronRuns = true → s.heron.addr = none →
    (Completes (.entdaa a) s fun t => t = { s with heron := { s.heron with addr := some a.toNat } })
    ∧ (s.heron.static = b.toNat → b.toNat ≠ 0 → Completes (.setdasa b a) s fun t =>
      t = { s with heron := { s.heron with addr := some a.toNat } })
    ∧ (s.heron.static ≠ b.toNat → exec (.setdasa b a) s = .next s))
  ∧ (∀ s : State, s.heronRuns = true → s.heron.slots.length = 2 →
    (∀ o, s.heron.update.isSome = true → Completes (.requestUpdate o) s fun t => t.heron = s.heron ∧ t.out = s.out ++ [.pldm .alreadyInUpdate])
    ∧ (s.heron.update = none → s.heron.act = none → s.heron.check = none → s.heron.revert = none →
      (Completes (.requestUpdate false) s fun t =>
        t.heron.update = some { comp := 1 } ∧ (t.slotAt (1 - s.activeSlot)).state = .staging ∧ t.slotAt s.activeSlot = s.slotAt s.activeSlot
          ∧ t.out = s.out ++ [.pldm .ok])
      ∧ (Completes (.requestUpdate true) s fun t =>
        t.heron.update = some { comp := 2 } ∧ t.heron.slots = s.heron.slots ∧ t.out = s.out ++ [.pldm .ok]))
    ∧ (∀ (signed digests approved raising : Bool) (svn : Byte) (key : Fin 4), s.heron.update = some { comp := 1 } → s.sedge.state ≠ .selftest →
      (s.sedgeServes = true → s.setPasses signed digests svn.toNat key = true →
        Completes (.verifyComplete (.set signed digests svn key approved raising)) s fun t =>
          t.heron.update = some { comp := 1, verified := true } ∧ t.slotAt (1 - s.activeSlot) = ⟨.staged, ⟨svn.toNat, key, approved, raising⟩⟩
            ∧ t.slotAt s.activeSlot = s.slotAt s.activeSlot ∧ t.out = s.out ++ [.pldm .ok])
      ∧ (s.sedgeServes = false ∨ s.setPasses signed digests svn.toNat key = false →
        Completes (.verifyComplete (.set signed digests svn key approved raising)) s fun t =>
          t.heron.update = none ∧ (t.slotAt (1 - s.activeSlot)).state = .failed ∧ t.out = s.out ++ [.pldm .verifyFailed]))
    ∧ (s.heron.update = some { comp := 1, verified := true } → Completes .applyComplete s fun t =>
      t.heron.update = none ∧ t.heron.slots = s.heron.slots ∧ t.heron.opts = s.heron.opts ∧ t.out = s.out ++ [.pldm .ok])
    ∧ (s.heron.update = some { comp := 2, verified := true } → s.rst.pulse = false → s.rst.late = false → Completes .applyComplete s fun t =>
      t.heron.update = none ∧ t.heron.opts = s.heron.staged ∧ t.heron.slots = s.heron.slots ∧ t.out = s.out ++ [.pldm .ok])
    ∧ ((s.slotAt (1 - s.activeSlot)).state = .staged → s.heron.act = none → s.heron.check = none → s.heron.revert = none →
      Completes .activateFirmware s fun t =>
        t.heron.act = some { slot := 1 - s.activeSlot, rnd := s.rnd + 1024, cmd := none }
          ∧ (t.slotAt (1 - s.activeSlot)).state = .pending ∧ t.out = s.out ++ [.pldm .ok])
    ∧ (∀ k : Checking, s.heron.check = some k → k.slot < 2 → Completes (.firmwareSelfCheck false) s fun t =>
      t.heron.check = none ∧ t.heron.revert = some k ∧ (t.slotAt k.slot).state = .failed ∧ t.reg = s.reg))
  ∧ (∀ (s : State) (src : CmdSrc) (c : Cmd), Waiting s src 0x000B c → s.heron.slots.length = 2 → c.par 8 1 < 2 →
    (s.heron.act = none → s.heron.check = none → s.heron.revert = none → (s.slotAt (c.par 8 1)).state = .staged → Completes (.fwActivate src) s fun t =>
      t.heron.act = some { slot := c.par 8 1, rnd := c.par 0 8, cmd := some c } ∧ (t.slotAt (c.par 8 1)).state = .pending
        ∧ t.vci = (s.running c).vci)
    ∧ (s.heron.act.isSome = true → Answers (.fwActivate src) s c 6 fun u => u = s))
  ∧ (∀ (s : State) (k : Checking) (c : Cmd), s.heron.check = some k → k.cmd = some c → (s.slotAt k.slot).man.raising = false →
    s.heronRuns = true → s.sedgeServes = true → s.bitternUp = true → s.sump.fatal = false →
    Answers (.firmwareSelfCheck true) s c 0 (fun u => u.heron.check = none ∧ u.heron.slots = s.heron.slots) k.rnd)
  ∧ (∀ s : State, s.heron.state = .restart → Completes .heronRestartDone s fun t => t = { s with heron := { s.heron with state := .run } })
  ∧ (∀ s : State, s.heronRuns = true →
    (Completes .heronLockstep s fun t => t.heron.state = .restart ∧ Reported s t (srcDevice 6) 0x701 ∧ t.heron.ops = s.heron.ops
      ∧ t.due.length = s.due.length + 1)
    ∧ (Completes .heronWatchdog s fun t => t.heron.state = .restart ∧ Reported s t (srcDevice 6) 0x701
      ∧ t.ctr Reg.RST_H_WDT_CNT = plus s Reg.RST_H_WDT_CNT 1))
  ∧ (∀ (s : State) (i : Fin 4), s.vci.up = true →
    (i.val ∉ s.vci.dead →
      (Completes (.bitternCore i) s fun t => t.vci = { s.vci with dead := s.vci.dead ++ [i.val] } ∧ Reported s t (srcDevice (2 + i)) 0x700)
      ∧ (Completes (.bitternWatchdog i) s fun t => t.vci = { s.vci with dead := s.vci.dead ++ [i.val] } ∧ Reported s t (srcDevice (2 + i)) 0x700
        ∧ t.ctr Reg.RST_B_WDT_CNT = plus s Reg.RST_B_WDT_CNT 1))
    ∧ (i.val ∈ s.vci.dead → Completes (.bitternCoreRejoin i) s fun t => i.val ∉ t.vci.dead ∧ t.vci.cmds = s.vci.cmds ∧ t.sump = s.sump))
  ∧ (∀ (s : State) (a : Activation), s.sump.fatal = false → s.heron.revert = none → s.heron.act = some a → a.rnd ≤ s.rnd → s.rst.late = false →
    (s.round.state = .locked → (s.fwBoundary).heron.state = .restart ∧ (s.fwBoundary).heron.act = none
      ∧ (s.fwBoundary).heron.check = some { slot := a.slot, old := s.activeSlot, rnd := s.rnd, cmd := a.cmd })
    ∧ (s.round.state = .unaligned → a.deferred = false → (s.fwBoundary).heron.act = some { a with deferred := true }
      ∧ (s.fwBoundary).ctr Reg.HERON_DEFER_CNT = plus s Reg.HERON_DEFER_CNT 1 ∧ (s.fwBoundary).heron.slots = s.heron.slots))

/-! ### Faults -/

/-- R553, R560 to R565: a region message enters its collector's queue, or is dropped, held or merged where the queue is full;
Sump reports a class 01 or 10 fault at its class and sets its pending bit, or one class higher where the bit is set; a class 11
report or line brings the fatal safe state; the bits are cleared by time and by acknowledgement, and a bit that stays raises
SUMP_ACK_TIMEOUT. Where a clause rests on a reading or a choice of the model's own, log entries 170 to 181 name it. -/
def Obligations.FaultsAreCollectedAndJudged : Prop :=
  (∀ (s : State) (n : Nat) (m : FaultMsg), nextOf n s.sump.flight = some m → srcLevel m.src ≠ 3 →
    ((srcLevel m.src < 2 → s.bit (Reg.RFC_CORE (srcRegionOf m.src) (m.src / 64 % 32)) 30 = false) →
      ((s.rfcOf (srcRegionOf m.src)).q.length < 64 → Completes (.regionCollectorMessage n) s fun t =>
        t.sump.flight = s.sump.flight.eraseIdx n ∧ (t.rfcOf (srcRegionOf m.src)).q = (s.rfcOf (srcRegionOf m.src)).q ++ [m] ∧ t.reg = s.reg)
      ∧ (64 ≤ (s.rfcOf (srcRegionOf m.src)).q.length → m.raised = 1 → Completes (.regionCollectorMessage n) s fun t =>
        t.rfcOf (srcRegionOf m.src) = s.rfcOf (srcRegionOf m.src) ∧ m.src ∈ t.sump.pend1
          ∧ t.ctr (Reg.RFC_DROP_CNT (srcRegionOf m.src)) = plus s (Reg.RFC_DROP_CNT (srcRegionOf m.src)) 1)
      ∧ (∀ e, 64 ≤ (s.rfcOf (srcRegionOf m.src)).q.length → m.raised = 2 →
        ((s.rfcOf (srcRegionOf m.src)).held.filter fun e => decide (e.src = m.src)).getLast? = some e → e.kind = m.kind →
        Completes (.regionCollectorMessage n) s fun t => (t.rfcOf (srcRegionOf m.src)).held.length = (s.rfcOf (srcRegionOf m.src)).held.length
          ∧ { e with mult := true } ∈ (t.rfcOf (srcRegionOf m.src)).held
          ∧ t.ctr (Reg.RFC_MERGE_CNT (srcRegionOf m.src)) = plus s (Reg.RFC_MERGE_CNT (srcRegionOf m.src)) 1))
    ∧ (srcLevel m.src < 2 → s.bit (Reg.RFC_CORE (srcRegionOf m.src) (m.src / 64 % 32)) 30 = true → Completes (.regionCollectorMessage n) s fun t =>
      t.sump = { s.sump with flight := s.sump.flight.eraseIdx n }
        ∧ t.ctr (Reg.RFC_DROP_CNT (srcRegionOf m.src)) = plus s (Reg.RFC_DROP_CNT (srcRegionOf m.src)) 1))
  ∧ (∀ (s : State) (n : Nat) (m : FaultMsg), nextOf n s.sump.flight = some m → srcLevel m.src = 3 → s.sump.fatal = false → s.sump.fq.length < 1024 →
    (m.raised = 1 → m.src ∉ s.sump.pend1 → Completes (.faultMessage none n) s fun t =>
      t.sump.fatal = false ∧ m.src ∈ t.sump.pend1 ∧ t.ctr Reg.SUMP_CE_CNT = plus s Reg.SUMP_CE_CNT 1 ∧ t.ctr Reg.SUMP_ESC_CNT = s.ctr Reg.SUMP_ESC_CNT
        ∧ ∀ w, w < 4 → t.cfg (Reg.SUMP_LAST w) = BitVec.ofNat 32 ({ m with cls := 1 }.bits / 2 ^ (32 * w)))
    ∧ (m.raised = 1 → m.src ∈ s.sump.pend1 → Completes (.faultMessage none n) s fun t =>
      t.sump.fatal = false ∧ t.sump.pend10 = s.sump.pend10 ∧ t.ctr Reg.SUMP_ESC_CNT = plus s Reg.SUMP_ESC_CNT 1
        ∧ ∀ w, w < 4 → t.cfg (Reg.SUMP_LAST w) = BitVec.ofNat 32 ({ m with cls := 2 }.bits / 2 ^ (32 * w)))
    ∧ (m.raised = 2 → m.src ∉ s.sump.pend10 → Completes (.faultMessage none n) s fun t =>
      t.sump.fatal = false ∧ m.src ∈ t.sump.pend10 ∧ t.ctr Reg.SUMP_CU_CNT = plus s Reg.SUMP_CU_CNT 1 ∧ t.ctr Reg.SUMP_ESC_CNT = s.ctr Reg.SUMP_ESC_CNT)
    ∧ ((m.raised = 2 ∧ m.src ∈ s.sump.pend10) ∨ m.raised = 3 → s.sump.fatalSeen = false → Completes (.faultMessage none n) s fun t =>
      t.sump.fatal = true ∧ t.pins.faultN = false
        ∧ ∀ w, w < 4 → t.cfg (Reg.SUMP_FATAL w) = BitVec.ofNat 32 ({ m with cls := 3 }.bits / 2 ^ (32 * w))))
  ∧ (∀ (s : State) (r : Fin 4) (m : FaultMsg) (rest : List FaultMsg), (s.rfcOf r).q = m :: rest → (s.rfcOf r).held = [] →
    s.sump.fatal = false → s.sump.fq.length < 1024 → m.raised = 2 → m.src ∉ s.sump.pend10 → Completes (.faultMessage (some r) 0) s fun t =>
      (t.rfcOf r).q = rest ∧ m.src ∈ t.sump.pend10 ∧ t.ctr (Reg.RFC_MSG_CNT r) = plus s (Reg.RFC_MSG_CNT r) 1 ∧ t.sump.flight = s.sump.flight)
  ∧ (∀ (s : State) (m : FaultMsg) (rest : List FaultMsg), s.sump.lines = m :: rest → Completes .fatalLine s fun t =>
    t.sump.fatal = true ∧ (s.sump.fatal = true → t = { s with sump := { s.sump with lines := rest } })
      ∧ (s.sump.fatal = false → t.pins.faultN = false
        ∧ (∀ l, l < 16 → (t.lode l).state ≠ .probe ∧ (t.lode l).state ≠ .train ∧ (t.lode l).state ≠ .auth ∧ (t.lode l).state ≠ .active)
        ∧ (∀ k, k < 8 → (t.ctl k).state ≠ .train ∧ (t.ctl k).state ≠ .run ∧ (t.ctl k).state ≠ .repair) ∧ t.hbm = s.hbm ∧ t.round.cnt = s.round.cnt))
  ∧ (∀ (s : State) (src : Half), s.sump.fatal = false → Completes (.ceHoldExpiry src) s fun t =>
    src.toNat ∉ t.sump.pend1 ∧ (∀ x, x ≠ src.toNat → (x ∈ t.sump.pend1 ↔ x ∈ s.sump.pend1)) ∧ t.sump.pend10 = s.sump.pend10 ∧ t.reg = s.reg)
  ∧ (∀ (s : State) (src : Half), s.sump.fatal = false → src.toNat ∈ s.sump.pend10 →
    (∀ (m : FaultMsg) (rest : List FaultMsg), s.bitternUp = true → s.sump.fq = m :: rest → m.src = src.toNat → m.raised = 2 →
      Completes (.sumpAck src) s fun t => src.toNat ∉ t.sump.pend10 ∧ (∀ x, x ≠ src.toNat → (x ∈ t.sump.pend10 ↔ x ∈ s.sump.pend10))
        ∧ t.sump.pend1 = s.sump.pend1 ∧ t.sump.fatal = false)
    ∧ (Completes (.sumpAckTimeout src) s fun t =>
      Reported s t (srcDevice 8) 0x704 ∧ t.sump.lines.length = s.sump.lines.length + 1 ∧ t.sump.pend10 = s.sump.pend10))

/-- R567 to R572: isolation stops a core; its fence releases it and binds its logical core to the lowest widow; fault-drill mode
follows Heron's write; and a GO raises a forced fault in factory or fault-drill mode only. Where a clause rests on a reading or
a choice of the model's own, log entries 170 to 181 name it. -/
def Obligations.SparingAndDrills : Prop :=
  (∀ (s : State) (c : Fin 104), s.sump.fatal = false → c.val ∈ s.sump.triggers → Completes (.coreIsolation c) s fun t =>
    (t.core c).isolated = true ∧ c.val ∉ t.sump.triggers ∧ (∀ d, d ≠ c.val → t.core d = s.core d)
      ∧ ((s.core c).isolated = false → t.sump.isolate = s.sump.isolate ++ [c.val]) ∧ t.pegs = s.pegs ∧ t.hbm = s.hbm)
  ∧ (∀ (s : State) (c : Fin 104), s.bitternUp = true → s.sump.fatal = false →
    (s.sump.isolate.filter fun d => decide (d / 26 = c.val / 26)).head? = some c.val → tfind s.coh.walk (c.val / 26) = none →
    Completes (.coreFence c) s fun t =>
      (t.core c).lcore = none ∧ (t.core c).pwr = .off ∧ t.bit (Reg.CSTORE_STS (c.val / 26) (c.val % 26)) 4 = true
        ∧ t.bit (Reg.RFC_CORE (c.val / 26) (c.val % 26)) 30 = true
        ∧ t.ctr (Reg.RFC_FENCE_CNT (c.val / 26)) = plus s (Reg.RFC_FENCE_CNT (c.val / 26)) 1
        ∧ ∀ l w, (s.core c).lcore = some l → (s.widows (c.val / 26)).head? = some w → (t.core w).lcore = some l)
  ∧ (∀ (s : State) (on : Bool), s.sump.ask = some on → s.heronRuns = true → s.sump.fatal = false → Completes .drillEnable s fun t =>
    t.sump.drill = on ∧ t.sump.ask = none ∧ t.bit Reg.SUMP_DRILL 0 = on ∧ t.due.length = s.due.length + 1
      ∧ (on = true → s.sedge.state = .approved → t.sedge.state = .nonapproved))
  ∧ (∀ (s : State) (p : Path), s.pathOpen p = true →
    (s.forcing = false → Completes (.forceGo p) s fun t =>
      t.ctr Reg.SUMP_FORCE_REJ_CNT = plus s Reg.SUMP_FORCE_REJ_CNT 1 ∧ t.sump = s.sump ∧ t.cores = s.cores ∧ t.hbm = s.hbm ∧ t.reg.cfg = s.reg.cfg)
    ∧ (∀ src kind : Nat, s.forcing = true → s.cfg Reg.SUMP_FORCE_SEL = BitVec.ofNat 32 (src * 65536 + kind) → src < 65536 → kind < 4096 →
      (raisesKind src kind = false → Completes (.forceGo p) s fun t =>
        t.sump = { s.sump with forceErr := true } ∧ t.reg = s.reg ∧ t.cores = s.cores ∧ t.hbm = s.hbm)
      ∧ (raisesKind src kind = true → srcLevel src = 3 → kind = 0x602 → Completes (.forceGo p) s fun t =>
        t.sump.forceErr = false ∧ t.ctr Reg.SUMP_FORCE_CNT = plus s Reg.SUMP_FORCE_CNT 1
          ∧ ∃ m : FaultMsg, t.sump.flight = s.sump.flight ++ [m] ∧ m.src = src ∧ m.kind = kind ∧ m.forced = true ∧ m.syn = 0)))

/-! ### Reset and start-up -/

/-- R579 to R582, R585, R587: a block-scope source restarts everything but the always-on domain and leaves start-up at step 3; a
cold-scope source leaves the non-volatile storage alone and starts from step 0, or waits for the end of a non-volatile pulse;
and start-up brings the block to READY. Where a clause rests on a reading or a choice of the model's own, log entries 182 to 191
name it. -/
def Obligations.ResetsAndStartUp : Prop :=
  (∀ (s : State) (i : Instr) (code : Nat) (p : Path), s.sump.fatal = false → s.inCold = false →
    (i = .pinReset ∧ code = 3) ∨ (i = .softwareReset p ∧ s.pathOpen p = true ∧ code = 4) ∨ (i = .clockFailure .refclk ∧ code = 6) ∨ (i = .lockUp ∧ code = 7) →
    Completes i s fun t =>
      t.rst.ready = false ∧ t.rst.scope = 2 ∧ t.rst.lastSrc = code ∧ t.rst.step = 3 ∧ t.rst.cause = s.rst.cause ||| 2 ^ (code - 1)
        ∧ t.ctr Reg.RST_BLOCK_CNT = plus s Reg.RST_BLOCK_CNT 1 ∧ t.cores = [] ∧ t.ctx = [] ∧ t.pegs = [] ∧ t.hbm = [] ∧ t.lists = [] ∧ t.parts = []
        ∧ t.round = {} ∧ t.sump.pend1 = [] ∧ t.sump.pend10 = [] ∧ t.sump.drill = false ∧ t.sump.fatal = false ∧ t.heron.state = s.heron.state
        ∧ t.heron.main = s.heron.main ∧ t.heron.slots = s.heron.slots ∧ t.rst.sram = s.rst.sram ∧ t.pins = s.pins)
  ∧ (∀ (s : State) (i : Instr) (code : Nat), (i = .powerOn ∧ code = 1) ∨ (i = .brownOut ∧ code = 2) →
    (s.rst.pulse = false → Completes i s fun t =>
      t.rst.ready = false ∧ t.rst.scope = 1 ∧ t.rst.lastSrc = code ∧ t.rst.step = 0 ∧ t.rst.sram = [] ∧ t.rst.fuse = s.rst.fuse
        ∧ t.cores = [] ∧ t.ctx = [] ∧ t.pegs = [] ∧ t.hbm = [] ∧ t.round = {} ∧ t.reg = {} ∧ t.sump.fatal = false ∧ t.pins.faultN = false
        ∧ t.heron.state = .boot ∧ t.heron.main = s.heron.main ∧ t.heron.repair = s.heron.repair ∧ t.heron.opts = s.heron.opts
        ∧ t.sedge.minSvn = s.sedge.minSvn ∧ t.sedge.owner = s.sedge.owner ∧ t.sedge.sess = [])
    ∧ (s.rst.pulse = true → s.rst.late = false → Completes i s fun t =>
      t.rst.late = true ∧ t.rst.pulse = true ∧ t.rst.ready = false ∧ t.ctr Reg.RST_DEFER_CNT = plus s Reg.RST_DEFER_CNT 1 ∧ t.cores = [] ∧ t.hbm = []
        ∧ t.heron.main = s.heron.main ∧ t.rst.sram = s.rst.sram))
  ∧ (∀ s : State, s.rst.pulse = true →
    (s.rst.late = false → Completes .nvPulseEnd s fun t => t = { s with rst := { s.rst with pulse := false } })
    ∧ (s.rst.late = true → Completes .nvPulseEnd s fun t =>
      t.rst.late = false ∧ t.rst.pulse = false ∧ t.rst.lastSrc = s.rst.lastSrc ∧ t.rst.sram = [] ∧ t.heron.state = .boot ∧ t.heron.main = s.heron.main
        ∧ t.reg = {}))
  ∧ (∀ (s : State) (l : Fin 16), s.sump.fatal = false → (s.lode l).state = .train → Completes (.clockFailure (.lode l)) s fun t =>
    (t.lode l).lock = 0 ∧ (t.lode l).state = .train ∧ t.rst.ready = s.rst.ready ∧ t.ctr Reg.RST_CLKFAIL_CNT = plus s Reg.RST_CLKFAIL_CNT 1
      ∧ t.clockGood l = false ∧ ∀ m, m ≠ l.val → t.lode m = s.lode m)
  ∧ (∀ (s : State) (testen : Bool) (mods : Fin 16) (lanes : Byte), s.rst.ready = false → s.rst.late = false → s.sump.fatal = false →
    s.rst.step = 0 → s.rst.scope ≠ 2 → s.cores = [] → (∀ r k, r < 4 → k < 26 → s.bit (Reg.RFC_CORE r k) 30 = false) →
    Completes (.startUp testen [] mods lanes []) s fun t =>
      t.rst.ready = true ∧ t.heron.state = .run ∧ t.vci.up = true ∧ t.vci.mbusy = false ∧ t.dc.state = .run ∧ t.pins.faultN = true
        ∧ t.sump.factory = (testen && s.rst.fuse) ∧ t.round = { s.round with phase := t.round.phase } ∧ t.hl.attach = s.hl.attach ∧ t.hbm = s.hbm
        ∧ (∀ l, l < 16 → (t.lode l).state = .dark) ∧ (∀ k, k < 8 → (t.ctl k).state = .run)
        ∧ (∀ r i, r < 4 → i < 24 → (t.core (26 * r + i)).lcore = some (24 * r + i) ∧ (t.core (26 * r + i)).pwr = .run)
        ∧ (∀ r i, r < 4 → 24 ≤ i → i < 26 → (t.core (26 * r + i)).lcore = none))
  ∧ (∀ (s : State) (testen : Bool) (mods : Fin 16) (lanes : Byte), s.rst.ready = true → exec (.startUp testen [] mods lanes []) s = .next s)

/-! ### The register file -/

/-- R591, R597, R599 to R601, R606, R638: a write changes the fields that its path may write; a masked write the bits its mask
names; a W2 register changes only by a pair whose complement matches, and the unit's own checks may refuse it; and refused
accesses are counted and recorded. Where a clause rests on a reading or a choice of the model's own, log entries 192 to 202 name
it. -/
def Obligations.RegisterWrites : Prop :=
  (∀ (s : State) (p : Path) (v : Word) (n : Nat) (st : Fin 9), s.pathOpen p = true → n < 8 →
    (Completes (.registerWrite p (BitVec.ofNat 30 (Reg.RST_BKP_host n)) (leBytes 4 v.toNat) st) s fun t =>
      t.cfg (Reg.RST_BKP_host n) = v ∧ (∀ b, b ≠ Reg.RST_BKP_host n → t.cfg b = s.cfg b) ∧ t.out = s.out)
    ∧ (p = .fw → Completes (.registerWrite p (BitVec.ofNat 30 (Reg.RST_BKP_fw n)) (leBytes 4 v.toNat) st) s fun t =>
      t.cfg (Reg.RST_BKP_fw n) = v ∧ ∀ b, b ≠ Reg.RST_BKP_fw n → t.cfg b = s.cfg b)
    ∧ (p = .host → exec (.registerWrite p (BitVec.ofNat 30 (Reg.RST_BKP_fw n)) (leBytes 4 v.toNat) st) s = .next s)
    ∧ (p = .host → Completes (.registerWrite p (BitVec.ofNat 30 Reg.SUMP_ESC_CTL) (leBytes 4 v.toNat) st) s fun t =>
      t.ctr Reg.RF_HOSTDENY_CNT = plus s Reg.RF_HOSTDENY_CNT 1 ∧ t.cfg Reg.RF_ACC_ERR = BitVec.ofNat 32 (2 ^ 31 + 2 ^ 28 + Reg.SUMP_ESC_CTL)
        ∧ (∀ b, b ≠ Reg.RF_ACC_ERR → t.cfg b = s.cfg b) ∧ t.reg.latch = s.reg.latch)
    ∧ (s.uncoreOn = false → Completes (.registerWrite p (BitVec.ofNat 30 (Reg.PART_STS 0)) (leBytes 4 v.toNat) st) s fun t =>
      t.ctr Reg.RF_OFF_CNT = plus s Reg.RF_OFF_CNT 1 ∧ t.cfg Reg.RF_ACC_ERR = BitVec.ofNat 32 (2 ^ 31 + 2 * 2 ^ 28 + Reg.PART_STS 0)
        ∧ ∀ b, b ≠ Reg.RF_ACC_ERR → t.cfg b = s.cfg b))
  ∧ (∀ (s : State) (a : BitVec 30) (d : List Byte) (st : Fin 9), s.pathOpen .host = true → State.goodSize a.toNat d.length = false →
    a.toNat < 0x10000000 → Completes (.registerWrite .host a d st) s fun t =>
      t.ctr Reg.RF_BADSIZE_CNT = plus s Reg.RF_BADSIZE_CNT 1 ∧ (∀ b, b ≠ Reg.RF_ACC_ERR → t.cfg b = s.cfg b) ∧ t.vci = s.vci)
  ∧ (∀ (s : State) (p : Path) (c : Fin 104) (e : Fin 4) (v m : Word), s.pathOpen p = true → s.uncoreOn = true → m = (v >>> 16) &&& 0x3FF#32 →
    Completes (.arithFlagsWrite p c e v) s fun t =>
      t.cfg (Reg.ARITH_FLAGS_ME (c / 26) (c % 26) + 4 * e) = (s.cfg (Reg.ARITH_FLAGS_ME (c / 26) (c % 26) + 4 * e) &&& ~~~ m) ||| (v &&& m)
        ∧ (∀ b, b ≠ Reg.ARITH_FLAGS_ME (c / 26) (c % 26) + 4 * e → t.cfg b = s.cfg b) ∧ t.cores = s.cores ∧ t.out = s.out)
  ∧ (∀ (s : State) (p : Path) (r : Fin 4) (v : Word), s.pathOpen p = true → s.uncoreOn = true →
    ((v.toNat % 16384 + 16384 - s.fld (Reg.TRC_RD r) 13 0) % 16384 ≤ (tget (fun _ => {}) s.trc r).fill (s.fld (Reg.TRC_RD r) 13 0) →
      Completes (.trcRdWrite p r v) s fun t => t.fld (Reg.TRC_RD r) 13 0 = v.toNat % 16384 ∧ (tget (fun _ => {}) t.trc r).wrapped = false
        ∧ (tget (fun _ => {}) t.trc r).buf = (tget (fun _ => {}) s.trc r).buf)
    ∧ ((tget (fun _ => {}) s.trc r).fill (s.fld (Reg.TRC_RD r) 13 0) < (v.toNat % 16384 + 16384 - s.fld (Reg.TRC_RD r) 13 0) % 16384 →
      Completes (.trcRdWrite p r v) s fun t => t.reg.cfg = s.reg.cfg ∧ t.trc = s.trc))
  ∧ (∀ (s : State) (p : Path) (v : Word), s.pathOpen p = true →
    (∀ l, tfind s.reg.latch (pathKey Reg.ROUND_CTL p) = some l → l.addr ≠ Reg.ROUND_CTL → Completes (.guardLatchWrite p (BitVec.ofNat 28 Reg.ROUND_CTL) v) s fun t =>
      tfind t.reg.latch (pathKey Reg.ROUND_CTL p) = some ⟨Reg.ROUND_CTL, v⟩ ∧ t.ctr Reg.RF_W2_FAIL_CNT = plus s Reg.RF_W2_FAIL_CNT 1
        ∧ t.cfg Reg.ROUND_CTL = s.cfg Reg.ROUND_CTL)
    ∧ (tfind s.reg.latch (pathKey Reg.ROUND_CTL p) = none → Completes (.guardLatchWrite p (BitVec.ofNat 28 Reg.ROUND_CTL) v) s fun t =>
      tfind t.reg.latch (pathKey Reg.ROUND_CTL p) = some ⟨Reg.ROUND_CTL, v⟩ ∧ t.reg.cfg = s.reg.cfg ∧ t.reg.ctr = s.reg.ctr ∧ t.round = s.round)
    ∧ (tfind s.reg.latch (pathKey Reg.ROUND_CTL p) = some ⟨Reg.ROUND_CTL, v⟩ →
      (s.roundRefuses v = true → Completes (.roundCtl p (~~~ v)) s fun t =>
        t.cfg Reg.ROUND_CTL = s.cfg Reg.ROUND_CTL ∧ t.bit Reg.ROUND_STS 16 = true ∧ t.round = s.round
          ∧ tfind t.reg.latch (pathKey Reg.ROUND_CTL p) = none ∧ t.reg.ctr = s.reg.ctr)
      ∧ (s.roundRefuses v = false → s.bit Reg.ROUND_CTL 0 = false → bitOf v.toNat 0 = true → bitsOf v.toNat 3 2 = 1 →
        Completes (.roundCtl p (~~~ v)) s fun t => t.round.state = .master ∧ t.bit Reg.ROUND_CTL 0 = true ∧ t.bit Reg.ROUND_STS 16 = false)
      ∧ (∀ w, w ≠ ~~~ v → Completes (.roundCtl p w) s fun t =>
        t.cfg Reg.ROUND_CTL = s.cfg Reg.ROUND_CTL ∧ t.round = s.round ∧ tfind t.reg.latch (pathKey Reg.ROUND_CTL p) = none
          ∧ t.ctr Reg.RF_W2_FAIL_CNT = plus s Reg.RF_W2_FAIL_CNT 1))
    ∧ (tfind s.reg.latch (pathKey Reg.ROUND_CTL p) = none → Completes (.roundCtl p v) s fun t =>
      t.cfg Reg.ROUND_CTL = s.cfg Reg.ROUND_CTL ∧ t.round = s.round ∧ t.ctr Reg.RF_W2_FAIL_CNT = plus s Reg.RF_W2_FAIL_CNT 1
        ∧ t.cfg Reg.RF_ACC_ERR = BitVec.ofNat 32 (2 ^ 31 + 3 * 2 ^ 28 + Reg.ROUND_CTL)))
  ∧ (∀ (s : State) (p : Path) (n : Byte),
    (∀ l, tfind s.reg.latch (pathKey (n.toNat * 0x100000) p) = some l → Completes (.guardWindowExpiry p n) s fun t =>
      tfind t.reg.latch (pathKey (n.toNat * 0x100000) p) = none ∧ t.ctr Reg.RF_W2_FAIL_CNT = plus s Reg.RF_W2_FAIL_CNT 1
        ∧ t.cfg Reg.RF_ACC_ERR = BitVec.ofNat 32 (2 ^ 31 + 3 * 2 ^ 28 + l.addr) ∧ ∀ b, b ≠ Reg.RF_ACC_ERR → t.cfg b = s.cfg b)
    ∧ (tfind s.reg.latch (pathKey (n.toNat * 0x100000) p) = none → exec (.guardWindowExpiry p n) s = .next s))

/-- R598, R603, R605: a read of a capturing word freezes the others of its group for its path; SNAP copies the live counters of
its unit; and a register whose parity fails is recorded and reported, and takes its reset value where the host writes it. Where
a clause rests on a reading or a choice of the model's own, log entries 192 to 202 name it. -/
def Obligations.CapturesSnapshotsAndParity : Prop :=
  (∀ (s : State) (p : Path), s.pathOpen p = true →
    (Completes (.captureRead p (BitVec.ofNat 30 Reg.ROUND_RND_LO) 4 0#32) s fun t =>
      t.out = s.out ++ [.readData p Reg.ROUND_RND_LO (BitVec.ofNat 32 s.rnd)] ∧ t.round = s.round
        ∧ ∃ o, tget (fun _ => []) t.reg.capt (pathKey Reg.ROUND_RND_LO p)
          = [(Reg.ROUND_RND_HI, BitVec.ofNat 32 (s.rnd / 2 ^ 32)), (Reg.ROUND_RND_OFS, o)])
    ∧ (∀ v rest, tget (fun _ => []) s.reg.capt (pathKey Reg.ROUND_RND_LO p) = (Reg.ROUND_RND_HI, v) :: rest →
      Completes (.captureRead p (BitVec.ofNat 30 Reg.ROUND_RND_HI) 4 0#32) s fun t =>
        t.out = s.out ++ [.readData p Reg.ROUND_RND_HI v] ∧ t.reg.capt = s.reg.capt ∧ t.round = s.round))
  ∧ (∀ (s : State) (p : Path) (n : Byte), s.pathOpen p = true → n.toNat ∈ [0, 1, 2, 3, 4, 5] → twf (fun _ => 0#32) s.reg.ctr = true →
    Completes (.snap p n) s fun t =>
      (∀ a, a / 0x100000 = n.toNat → tget (fun _ => 0#32) t.reg.hold a = tget (fun _ => 0#32) s.reg.ctr a)
        ∧ (∀ a, a / 0x100000 ≠ n.toNat → tget (fun _ => 0#32) t.reg.hold a = tget (fun _ => 0#32) s.reg.hold a)
        ∧ t.reg.ctr = s.reg.ctr ∧ t.reg.cfg = s.reg.cfg ∧ t.out = s.out)
  ∧ (∀ (s : State) (i : Nat), i < 16 → s.reg.bad = [] → Completes (.paritySweep [(BitVec.ofNat 28 Reg.RF_SCAN, 1#32 <<< i)]) s fun t =>
    t.cfg Reg.RF_SCAN = s.cfg Reg.RF_SCAN ^^^ (1#32 <<< i) ∧ t.reg.bad = [(Reg.RF_SCAN, s.cfg Reg.RF_SCAN)]
      ∧ t.cfg Reg.RF_PAR_ERR = BitVec.ofNat 32 (2 ^ 31 + Reg.RF_SCAN) ∧ t.ctr Reg.RF_PAR_CNT = plus s Reg.RF_PAR_CNT 1
      ∧ Reported s t (srcDevice 15) 0x702)
  ∧ (∀ s : State, s.reg.bad = [] → exec (.paritySweep []) s = .next s)
  ∧ (∀ (s : State) (v : Word), s.bitternUp = true → s.reg.bad = [(Reg.RF_SCAN, v)] → Completes (.parityRestore (BitVec.ofNat 28 Reg.RF_SCAN)) s fun t =>
    t.fld Reg.RF_SCAN 15 0 = 0x3E8 ∧ t.reg.bad = [] ∧ ∀ b, b ≠ Reg.RF_SCAN → t.cfg b = s.cfg b)

/-! ### Security functions -/

/-- R613 to R615, R621, R622: attestation is answered in every state but SELFTEST and ERROR; sessions are established by
KEM_INIT, KEM_FIN, PSK_EXCHANGE and PSK_FINISH, four over each transport, and end; a requester that fails authentication is
counted and reported; and a service that needs a role is refused to anyone else. Where a clause rests on a reading or a choice
of the model's own, log entries 203 to 215 name it. -/
def Obligations.AttestationAndSessions : Prop :=
  (∀ (s : State) (doe : Bool), s.attests doe = true →
    (∀ (i : Instr) (r : SpdmRsp), (i = .getVersion doe ∧ r = .version) ∨ (i = .getCapabilities doe ∧ r = .capabilities)
      ∨ (∃ a b, i = .negotiateAlgorithms doe a b ∧ r = .algorithms a b) ∨ (i = .getDigests doe ∧ r = .digests s.certSlots) →
      Completes i s fun t => t.out = s.out ++ [.spdm doe r] ∧ t.sedge = s.sedge ∧ t.reg = s.reg)
    ∧ (∀ slot : Fin 8,
      (slot.val ∈ s.certSlots → Completes (.getCertificate doe slot) s fun t => t.out = s.out ++ [.spdm doe (.certificate slot)] ∧ t.sedge = s.sedge)
      ∧ (slot.val ∈ s.certSlots → s.sedge.alias_ ≠ 0 → Completes (.challenge doe slot) s fun t =>
        t.out = s.out ++ [.spdm doe (.challengeAuth slot)] ∧ t.sedge = s.sedge))
    ∧ (∀ sign : Bool, Completes (.getMeasurements doe sign) s fun t =>
      t.out = s.out ++ [.spdm doe (.measurements [s.sedge.minSvn, s.svnActive, s.svnOther, s.sedge.revoked, 0, 0, 0, 0] s.sedgeSts
        (sign && decide (s.sedge.alias_ ≠ 0)))] ∧ t.sedge = s.sedge))
  ∧ (∀ (s : State) (doe : Bool), s.serves doe = true →
    (s.sedge.owner = false → Completes (.kemInit doe) s fun t => t.sedge = s.sedge ∧ t.out = s.out ++ [.spdm doe .refused])
    ∧ (∀ i, s.sedge.owner = true → (List.range 4).find? (fun i => (s.session doe i).isNone) = some i → Completes (.kemInit doe) s fun t =>
      t.session doe i = some { doe := doe, id := i } ∧ t.sedge.sess.length = s.sedge.sess.length + 1 ∧ t.out = s.out ++ [.spdm doe (.kemRsp i)])
    ∧ (s.sedge.owner = true → (List.range 4).find? (fun i => (s.session doe i).isNone) = none → Completes (.kemInit doe) s fun t =>
      t.sedge = s.sedge ∧ t.out = s.out ++ [.spdm doe .busy])
    ∧ (∀ (id : Fin 4) (k : Session), s.session doe id = some k →
      (k.phase = .kem → Completes (.kemFin doe id true true) s fun t =>
        t.session doe id = some { k with auth := true } ∧ t.out = s.out ++ [.spdm doe .ok] ∧ t.reg = s.reg)
      ∧ (∀ a b : Bool, k.phase = .kem → (a && b) = false → Completes (.kemFin doe id a b) s fun t =>
        t.session doe id = none ∧ t.ctr Reg.SEDGE_AUTH_FAIL_CNT = plus s Reg.SEDGE_AUTH_FAIL_CNT 1 ∧ Reported s t (srcDevice 7) 0x7F4)
      ∧ (k.phase = .kem → Completes (.pskExchange doe id) s fun t =>
        t.session doe id = some { k with phase := .psk } ∧ t.out = s.out ++ [.spdm doe (.pskRsp id)])
      ∧ (k.phase = .psk → Completes (.pskFinish doe id) s fun t =>
        t.session doe id = some { k with phase := .up } ∧ t.ctr Reg.SEDGE_SESSION_CNT = plus s Reg.SEDGE_SESSION_CNT 1)
      ∧ (k.phase = .up → Completes (.endSession doe id) s fun t => t.session doe id = none ∧ t.out = s.out ++ [.spdm doe .ok] ∧ t.reg = s.reg))
    ∧ (∀ (id : Fin 4) (i : Instr), s.authed doe id = false → (∃ c, i = .setCertificate doe id 1 c false true) ∨ i = .getCsr doe id 1 true 0#8
      ∨ i = .zeroiseSession doe id ∨ i = .decommission doe id ∨ i = .debugArm doe id ∨ i = .faultDrillEntry doe id ∨ i = .faultDrillExit doe id
      ∨ i = .selfTestOnDemand doe id true 0#8 ∨ (doe = true ∧ (i = .ideQuery id ∨ (∃ p, i = .stopInterface id p))) →
      Completes i s fun t => t.sedge = s.sedge ∧ t.sump = s.sump ∧ t.ctx = s.ctx ∧ t.out = s.out ++ [.spdm doe .refused]))

/-- R615 to R620, R625, R629, R641: tests pass to APPROVED or NONAPPROVED and a failure to ERROR; the Crypto Officer's services
set the chain, the fabric key, the debug port and the drill request; zeroisation ends every session, stream and interface, and
DECOMMISSION destroys the long-term keys; and a transmit key is renewed when it is due. Where a clause rests on a reading or a
choice of the model's own, log entries 203 to 215 name it. -/
def Obligations.KeysAndStates : Prop :=
  (∀ (s : State) (e : Byte), s.sedge.state = .selftest →
    (s.sedge.exitDrill = false → s.sedge.exitDebug = false → s.sedge.exitSet = false → (s.slotAt s.activeSlot).man.approved = true →
      Completes (.selftestDone true e) s fun t => t.sedge.state = .approved ∧ t.ctr Reg.SEDGE_RESEED_CNT = plus s Reg.SEDGE_RESEED_CNT 1
        ∧ Reported s t (srcDevice 7) 0x7F5)
    ∧ ((s.slotAt s.activeSlot).man.approved = false → Completes (.selftestDone true e) s fun t => t.sedge.state = .nonapproved ∧ t.sedge.exitSet = true)
    ∧ (Completes (.selftestDone false e) s fun t => t.sedge.state = .error ∧ t.sedge.err = e.toNat ∧ t.sedge.sess = [] ∧ t.sedge.streams = []
      ∧ (∀ l, l < 16 → t.lodeLit l = false) ∧ t.hbm = s.hbm))
  ∧ (∀ (s : State) (e : Byte), s.sedgeServes = true →
    (Completes (.healthTestFailure e) s fun t => t.sedge.state = .error ∧ t.ctr Reg.SEDGE_HEALTH_FAIL_CNT = plus s Reg.SEDGE_HEALTH_FAIL_CNT 1
      ∧ t.sedge.sess = [] ∧ ∀ l, l < 16 → t.lodeLit l = false)
    ∧ (Completes .drbgReseed s fun t => t.ctr Reg.SEDGE_RESEED_CNT = plus s Reg.SEDGE_RESEED_CNT 1 ∧ t.sedge = s.sedge))
  ∧ (∀ (s : State) (doe : Bool) (id : Fin 4), s.serves doe = true → s.authed doe id = true →
    (Completes (.selfTestOnDemand doe id true 0#8) s fun t => t.sedge = s.sedge ∧ t.out = s.out ++ [.spdm doe .ok])
    ∧ (∀ (c : BitVec 18) (sw own : Bool), Completes (.setCertificate doe id 1 c sw own) s fun t =>
      t.sedge = { s.sedge with chain1 := some (c.toNat, sw), chainKey := if own then s.sedge.fabKey else 0 } ∧ t.out = s.out ++ [.spdm doe .ok])
    ∧ (Completes (.getCsr doe id 1 true 0#8) s fun t => t.sedge = { s.sedge with fabKey := s.sedge.nextKey, nextKey := s.sedge.nextKey + 1 }
      ∧ t.out = s.out ++ [.spdm doe (.csr s.sedge.nextKey)])
    ∧ (Completes (.debugArm doe id) s fun t => t.sedge = { s.sedge with armed := true })
    ∧ (s.sump.fatal = false → (Completes (.faultDrillEntry doe id) s fun t => t.sump = { s.sump with ask := some true } ∧ t.sedge = s.sedge)
      ∧ (Completes (.faultDrillExit doe id) s fun t => t.sump = { s.sump with ask := some false } ∧ t.sedge = s.sedge))
    ∧ (Completes (.zeroiseSession doe id) s fun t => t.sedge.sess = [] ∧ t.sedge.streams = [] ∧ (∀ p, p < 8 → (t.tdiOf p).state = .error)
      ∧ t.ctr Reg.SEDGE_ZERO_CNT = plus s Reg.SEDGE_ZERO_CNT 1 ∧ t.sedge.devid = s.sedge.devid ∧ t.sedge.owner = s.sedge.owner
      ∧ (∀ l, l < 16 → (s.lode l).state = .active → (t.lode l).state = .probe))
    ∧ (Completes (.decommission doe id) s fun t => t.sedge.state = .decommissioned ∧ t.sedge.sess = [] ∧ t.sedge.devid = false ∧ t.sedge.owner = false
      ∧ t.sedge.fabKey = 0 ∧ t.sedge.chain1 = none ∧ t.sedge.destroyed = true ∧ t.ctr Reg.SEDGE_ZERO_CNT = plus s Reg.SEDGE_ZERO_CNT 1))
  ∧ (∀ s : State, exec .debugArmExpiry s = .next { s with sedge := { s.sedge with armed := false } })
  ∧ (∀ s : State, s.serves false = true → s.sedge.owner = false → Completes .setOwner s fun t =>
    t.sedge = { s.sedge with owner := true } ∧ t.out = s.out ++ [.spdm false .ok])
  ∧ (∀ (s : State) (l : Fin 16), s.sump.fatal = false → (s.lode l).state = .active → (s.lode l).session = true → (s.lode l).txNext = none →
    s.sedgeServes = true → (s.lode l).keyN + 2 ^ 44 ≤ (s.lode l).n ∨ (s.lode l).since + 2 ^ 36 ≤ s.rnd → Completes (.keyRenewal l) s fun t =>
      ((t.lode l).txNext).map (·.key) = some s.sedge.nextKey ∧ (t.lode l).since = s.rnd ∧ (t.lode l).msgs.length = (s.lode l).msgs.length + 1
        ∧ t.sedge.nextKey = s.sedge.nextKey + 1 ∧ t.ctr Reg.SEDGE_KEYUPD_CNT = plus s Reg.SEDGE_KEYUPD_CNT 1 ∧ ∀ m, m ≠ l.val → t.lode m = s.lode m)

/-- R627, R628: IDE keys are programmed, used and stopped inside a User session; a stopped stream, or one whose integrity fails,
moves the interfaces bound to it to ERROR; and an interface is locked, reported, started and stopped. Where a clause rests on a
reading or a choice of the model's own, log entries 203 to 215 name it. -/
def Obligations.StreamsAndInterfaces : Prop :=
  (∀ (s : State) (id : Fin 4) (i : Fin 9), s.serves true = true → s.authed true id = true →
    (Completes (.ideQuery id) s fun t => t.sedge = s.sedge ∧ t.out = s.out ++ [.spdm true (.ide ((List.range 9).map fun i => (s.stream i).used))])
    ∧ (Completes (.keyProg id i) s fun t => (t.stream i).keyed = true ∧ (t.stream i).used = (s.stream i).used ∧ t.sedge.tdi = s.sedge.tdi
      ∧ t.out = s.out ++ [.spdm true .ok])
    ∧ ((s.stream i).keyed = true → (Completes (.kSetGo id i) s fun t => (t.stream i).used = true ∧ t.sedge.tdi = s.sedge.tdi ∧ t.out = s.out ++ [.spdm true .ok])
      ∧ (Completes (.keyRefresh id i) s fun t => t.sedge = s.sedge ∧ t.out = s.out ++ [.spdm true .ok]))
    ∧ (Completes (.kSetStop id i) s fun t => (t.stream i).used = false ∧ (t.stream i).keyed = false
      ∧ (∀ p, p < 8 → i.val ≠ 0 → (s.tdiOf p).stream = i.val → (s.tdiOf p).state ≠ .unlocked → (t.tdiOf p).state = .error)
      ∧ (∀ p, p < 8 → (s.tdiOf p).stream ≠ i.val → t.tdiOf p = s.tdiOf p))
    ∧ (∀ p : Fin 8, (Completes (.getDeviceInterfaceReport id p) s fun t => t.sedge = s.sedge ∧ t.out = s.out ++ [.spdm true (s.reportOf p)])
      ∧ ((s.tdiOf p).state = .unlocked → s.partActive p = true → i.val ≠ 0 → (s.stream i).used = true → Completes (.lockInterface id p i) s fun t =>
        t.tdiOf p = { state := .locked, stream := i.val } ∧ t.out = s.out ++ [.spdm true .ok] ∧ ∀ q, q ≠ p.val → t.tdiOf q = s.tdiOf q)
      ∧ ((s.tdiOf p).state = .locked → Completes (.startInterface id p) s fun t =>
        t.tdiOf p = { s.tdiOf p with state := .run } ∧ t.out = s.out ++ [.spdm true .ok] ∧ ∀ q, q ≠ p.val → t.tdiOf q = s.tdiOf q)
      ∧ (s.ctxsOf p = [] → Completes (.stopInterface id p) s fun t =>
        t.tdiOf p = {} ∧ t.out = s.out ++ [.spdm true .ok] ∧ t.hbm = s.hbm
          ∧ ∀ g, s.fld (Reg.PEG_PART 0 p) 14 0 ≤ g → g < s.fld (Reg.PEG_PART 0 p) 14 0 + s.fld (Reg.PEG_PART 0 p) 31 16 → t.peg g = {})))
  ∧ (∀ (s : State) (i : Fin 9), (s.stream i).used = true → s.hl.up = true → Completes (.ideIntegrityFailure i) s fun t =>
    (t.stream i).used = false ∧ Reported s t (srcDevice 7) 0x7F6
      ∧ ∀ p, p < 8 → i.val ≠ 0 → (s.tdiOf p).stream = i.val → (s.tdiOf p).state ≠ .unlocked → (t.tdiOf p).state = .error)

/-! ### The test access port -/

/-- R640 to R642: what each instruction shows and does; the instructions marked unlocked select BYPASS in a locked block and are
counted; an armed port is unlocked, and Sedge then leaves approved mode; and DBG_MEM reaches the register file on the firmware
path, where SEDGE does not change. Where a clause rests on a reading or a choice of the model's own, log entries 216 to 222 name
it. -/
def Obligations.TestAndDebugPort : Prop :=
  (∀ s : State,
    (Completes .idcode s fun t => t.tap = { s.tap with ir := 0x01 } ∧ t.out = s.out ++ [.tap 32 0x1A00476D] ∧ t.sedge = s.sedge)
    ∧ (∀ d : List Bool, Completes (.samplePreload d) s fun t => t = { s with tap := { s.tap with ir := 0x02, scan := d } })
    ∧ (Completes .dbgStatus s fun t => t.tap = { s.tap with ir := 0x10 } ∧ t.out = s.out ++ [.tap 32 s.dbgStatus] ∧ t.sedge = s.sedge)
    ∧ (Completes .bypass s fun t => t = { s with tap := { s.tap with ir := 0xFF, bypass := false } })
    ∧ (Completes .tapReset s fun t => t = { s with tap := { s.tap with ir := 0x01 } }))
  ∧ (∀ s : State, s.testOpen = false → ∀ i : Instr, (∃ d, i = .extest d) ∨ (∃ b, i = .dbgReq b) ∨ (∃ a w d, i = .dbgMem a w d) → Completes i s fun t =>
    t = { s with sedge := { s.sedge with refusals := min 255 (s.sedge.refusals + 1) }, tap := { s.tap with ir := 0xFF, bypass := false } })
  ∧ (∀ s : State, s.testOpen = true →
    (∀ d : List Bool, Completes (.extest d) s fun t => t = { s with tap := { s.tap with ir := 0x00, scan := d } })
    ∧ (s.sump.fatal = false → s.inCold = false → Completes (.dbgReq true) s fun t =>
      t.rst.ready = false ∧ t.rst.scope = 2 ∧ t.rst.lastSrc = 5 ∧ t.cores = [] ∧ t.hbm = [] ∧ t.tap.ir = 0x12 ∧ t.sedge.unlocked = s.sedge.unlocked)
    ∧ (∀ (n : Nat) (v : Word), n < 8 → Completes (.dbgMem (BitVec.ofNat 40 (0x8100000000 + Reg.RST_BKP_fw n)) true v) s fun t =>
      t.cfg (Reg.RST_BKP_fw n) = v ∧ (∀ b, b ≠ Reg.RST_BKP_fw n → t.cfg b = s.cfg b) ∧ t.tap.ir = 0x13 ∧ t.hbm = s.hbm)
    ∧ (∀ (a : Nat) (v : Word), a < 0x100000 → Completes (.dbgMem (BitVec.ofNat 40 (0x8100500000 + a)) true v) s fun t =>
      t.sedge = s.sedge ∧ t.reg = s.reg ∧ t.tap.ir = 0x13))
  ∧ (∀ s : State,
    (s.sedge.armed = true → Completes (.dbgUnlock true) s fun t => t.sedge.unlocked = true ∧ t.sedge.exitDebug = true ∧ t.tap.ir = 0x11
      ∧ (s.sedge.state = .approved → t.sedge.state = .nonapproved ∧ Reported s t (srcDevice 7) 0x7F5))
    ∧ (s.sedge.armed = false → Completes (.dbgUnlock true) s fun t =>
      t = { s with tap := { s.tap with ir := 0xFF, bypass := false } }))

/-! ### The whole block -/

/-- Every command completes: in every state `exec` answers a next state, and leaves the queue of waiting commands as it stands. -/
def Obligations.EveryCommandCompletes : Prop :=
  ∀ (c : Instr) (s : State), ∃ t, exec c s = .next t ∧ t.pending = s.pending

/-- Every step keeps the canonical form of HBM, so that equal memories are equal data. -/
def Obligations.StepsKeepTheMemoryForm : Prop :=
  ∀ s t : State, s.memoryWf = true → step s = .next t → t.memoryWf = true

/-- R580, R589: right after reset memory lists nothing and has its canonical form, no fault is pending, the Round unit is in OFF,
Heron in BOOT, Sedge in SELFTEST, the host link DETACHED, FAULT_N low and the alerts inactive, and no core is bound. -/
def Obligations.ResetState : Prop :=
  State.reset.memoryWf = true ∧ State.reset.hbm = [] ∧ State.reset.sump.fatal = false ∧ State.reset.sump.pend10 = []
    ∧ State.reset.round.state = .off ∧ State.reset.heron.state = .boot ∧ State.reset.sedge.state = .selftest
    ∧ State.reset.hl.attach = .detached ∧ State.reset.vci.token = none ∧ State.reset.pins = { faultN := false, thermN := true, pwrN := true }
    ∧ (∀ l, State.reset.coreOf l = none) ∧ State.reset.rst.ready = false

/-- R582: in the fatal safe state a block-scope source resets no domain: its CAUSE bit and a POWER_ON record are all it leaves, and
every output stays as it is; and only a cold reset, at once or at the end of the pulse that deferred it, leaves that state. -/
def Obligations.FatalSafeStateHolds : Prop :=
  (∀ (s : State) (i : Instr) (code : Nat), s.sump.fatal = true →
    (i = .pinReset ∧ code = 3) ∨ (i = .softwareReset .fw ∧ code = 4) ∨ (i = .dbgReq true ∧ s.testOpen = true ∧ code = 5)
      ∨ (i = .clockFailure .refclk ∧ code = 6) ∨ (i = .lockUp ∧ code = 7) →
    Completes i s fun t =>
      t.rst.cause = s.rst.cause ||| 2 ^ (code - 1) ∧ (∃ r, t.due = s.due ++ [r] ∧ r.kind = 9 ∧ r.data = code)
        ∧ t.rst.ready = s.rst.ready ∧ t.rst.scope = s.rst.scope ∧ t.rst.lastSrc = s.rst.lastSrc ∧ t.rst.step = s.rst.step
        ∧ t.sump = s.sump ∧ t.cores = s.cores ∧ t.ctx = s.ctx ∧ t.pegs = s.pegs ∧ t.hbm = s.hbm ∧ t.lists = s.lists ∧ t.parts = s.parts
        ∧ t.vci = s.vci ∧ t.dc = s.dc ∧ t.coh = s.coh ∧ t.xl = s.xl ∧ t.fab = s.fab ∧ t.hctl = s.hctl ∧ t.heron = s.heron ∧ t.sedge = s.sedge
        ∧ t.lodes = s.lodes ∧ t.hl = s.hl ∧ t.pins = s.pins ∧ t.out = s.out)
  ∧ (∀ (c : Instr) (s t : State), s.sump.fatal = true → c ≠ .powerOn → c ≠ .brownOut → c ≠ .clockFailure .aon →
    (c = .nvPulseEnd → s.rst.late = false) → exec c s = .next t → t.sump.fatal = true)
end

