-- ==== Sys2Proof/Laws/State.lean ====
section
/-!
SUPPORT. What each named update of the state leaves alone: one rewriting rule for each field, gathered in one lemma for
each update, so that no later proof unfolds a record update.
-/
namespace Sys2Proof.Machine.State

variable (s : State)

@[simp] theorem setCfg_frame (a : Nat) (w : Word) :
    (s.setCfg a w).pending = s.pending ∧ (s.setCfg a w).free = s.free ∧ (s.setCfg a w).out = s.out
      ∧ (s.setCfg a w).round = s.round ∧ (s.setCfg a w).sump = s.sump ∧ (s.setCfg a w).pegs = s.pegs
      ∧ (s.setCfg a w).waits = s.waits ∧ (s.setCfg a w).pegOps = s.pegOps ∧ (s.setCfg a w).wakes = s.wakes
      ∧ (s.setCfg a w).cores = s.cores ∧ (s.setCfg a w).ctx = s.ctx ∧ (s.setCfg a w).vci = s.vci ∧ (s.setCfg a w).hl = s.hl
      ∧ (s.setCfg a w).parts = s.parts ∧ (s.setCfg a w).trc = s.trc ∧ (s.setCfg a w).hbm = s.hbm ∧ (s.setCfg a w).hbmBad = s.hbmBad
      ∧ (s.setCfg a w).hctl = s.hctl ∧ (s.setCfg a w).slice = s.slice ∧ (s.setCfg a w).useNo = s.useNo
      ∧ (s.setCfg a w).tokens = s.tokens ∧ (s.setCfg a w).short = s.short ∧ (s.setCfg a w).thr = s.thr ∧ (s.setCfg a w).coh = s.coh
      ∧ (s.setCfg a w).xl = s.xl ∧ (s.setCfg a w).dc = s.dc ∧ (s.setCfg a w).lists = s.lists ∧ (s.setCfg a w).nextList = s.nextList
      ∧ (s.setCfg a w).lbytes = s.lbytes ∧ (s.setCfg a w).lodes = s.lodes ∧ (s.setCfg a w).fab = s.fab ∧ (s.setCfg a w).due = s.due
      ∧ (s.setCfg a w).heron = s.heron ∧ (s.setCfg a w).rst = s.rst ∧ (s.setCfg a w).sedge = s.sedge ∧ (s.setCfg a w).tap = s.tap
      ∧ (s.setCfg a w).pins = s.pins := by
  and_intros <;> rfl

@[simp] theorem setFld_frame (a hi lo v : Nat) :
    (s.setFld a hi lo v).pending = s.pending ∧ (s.setFld a hi lo v).free = s.free ∧ (s.setFld a hi lo v).out = s.out
      ∧ (s.setFld a hi lo v).round = s.round ∧ (s.setFld a hi lo v).sump = s.sump ∧ (s.setFld a hi lo v).pegs = s.pegs
      ∧ (s.setFld a hi lo v).waits = s.waits ∧ (s.setFld a hi lo v).pegOps = s.pegOps ∧ (s.setFld a hi lo v).wakes = s.wakes
      ∧ (s.setFld a hi lo v).cores = s.cores ∧ (s.setFld a hi lo v).ctx = s.ctx ∧ (s.setFld a hi lo v).vci = s.vci
      ∧ (s.setFld a hi lo v).hl = s.hl ∧ (s.setFld a hi lo v).parts = s.parts ∧ (s.setFld a hi lo v).trc = s.trc
      ∧ (s.setFld a hi lo v).hbm = s.hbm ∧ (s.setFld a hi lo v).hbmBad = s.hbmBad ∧ (s.setFld a hi lo v).hctl = s.hctl
      ∧ (s.setFld a hi lo v).slice = s.slice ∧ (s.setFld a hi lo v).useNo = s.useNo ∧ (s.setFld a hi lo v).tokens = s.tokens
      ∧ (s.setFld a hi lo v).short = s.short ∧ (s.setFld a hi lo v).thr = s.thr ∧ (s.setFld a hi lo v).coh = s.coh
      ∧ (s.setFld a hi lo v).xl = s.xl ∧ (s.setFld a hi lo v).dc = s.dc ∧ (s.setFld a hi lo v).lists = s.lists
      ∧ (s.setFld a hi lo v).nextList = s.nextList ∧ (s.setFld a hi lo v).lbytes = s.lbytes ∧ (s.setFld a hi lo v).lodes = s.lodes
      ∧ (s.setFld a hi lo v).fab = s.fab ∧ (s.setFld a hi lo v).due = s.due ∧ (s.setFld a hi lo v).heron = s.heron
      ∧ (s.setFld a hi lo v).rst = s.rst ∧ (s.setFld a hi lo v).sedge = s.sedge ∧ (s.setFld a hi lo v).tap = s.tap
      ∧ (s.setFld a hi lo v).pins = s.pins := by
  and_intros <;> rfl

@[simp] theorem setBit_frame (a i : Nat) (b : Bool) :
    (s.setBit a i b).pending = s.pending ∧ (s.setBit a i b).free = s.free ∧ (s.setBit a i b).out = s.out
      ∧ (s.setBit a i b).round = s.round ∧ (s.setBit a i b).sump = s.sump ∧ (s.setBit a i b).pegs = s.pegs
      ∧ (s.setBit a i b).waits = s.waits ∧ (s.setBit a i b).pegOps = s.pegOps ∧ (s.setBit a i b).wakes = s.wakes
      ∧ (s.setBit a i b).cores = s.cores ∧ (s.setBit a i b).ctx = s.ctx ∧ (s.setBit a i b).vci = s.vci ∧ (s.setBit a i b).hl = s.hl
      ∧ (s.setBit a i b).parts = s.parts ∧ (s.setBit a i b).trc = s.trc ∧ (s.setBit a i b).hbm = s.hbm
      ∧ (s.setBit a i b).hbmBad = s.hbmBad ∧ (s.setBit a i b).hctl = s.hctl ∧ (s.setBit a i b).slice = s.slice
      ∧ (s.setBit a i b).useNo = s.useNo ∧ (s.setBit a i b).tokens = s.tokens ∧ (s.setBit a i b).short = s.short
      ∧ (s.setBit a i b).thr = s.thr ∧ (s.setBit a i b).coh = s.coh ∧ (s.setBit a i b).xl = s.xl ∧ (s.setBit a i b).dc = s.dc
      ∧ (s.setBit a i b).lists = s.lists ∧ (s.setBit a i b).nextList = s.nextList ∧ (s.setBit a i b).lbytes = s.lbytes
      ∧ (s.setBit a i b).lodes = s.lodes ∧ (s.setBit a i b).fab = s.fab ∧ (s.setBit a i b).due = s.due
      ∧ (s.setBit a i b).heron = s.heron ∧ (s.setBit a i b).rst = s.rst ∧ (s.setBit a i b).sedge = s.sedge
      ∧ (s.setBit a i b).tap = s.tap ∧ (s.setBit a i b).pins = s.pins := by
  and_intros <;> rfl

@[simp] theorem bumpBy_frame (a n : Nat) :
    (s.bumpBy a n).pending = s.pending ∧ (s.bumpBy a n).free = s.free ∧ (s.bumpBy a n).out = s.out
      ∧ (s.bumpBy a n).round = s.round ∧ (s.bumpBy a n).sump = s.sump ∧ (s.bumpBy a n).pegs = s.pegs
      ∧ (s.bumpBy a n).waits = s.waits ∧ (s.bumpBy a n).pegOps = s.pegOps ∧ (s.bumpBy a n).wakes = s.wakes
      ∧ (s.bumpBy a n).cores = s.cores ∧ (s.bumpBy a n).ctx = s.ctx ∧ (s.bumpBy a n).vci = s.vci ∧ (s.bumpBy a n).hl = s.hl
      ∧ (s.bumpBy a n).parts = s.parts ∧ (s.bumpBy a n).trc = s.trc ∧ (s.bumpBy a n).hbm = s.hbm ∧ (s.bumpBy a n).hbmBad = s.hbmBad
      ∧ (s.bumpBy a n).hctl = s.hctl ∧ (s.bumpBy a n).slice = s.slice ∧ (s.bumpBy a n).useNo = s.useNo
      ∧ (s.bumpBy a n).tokens = s.tokens ∧ (s.bumpBy a n).short = s.short ∧ (s.bumpBy a n).thr = s.thr ∧ (s.bumpBy a n).coh = s.coh
      ∧ (s.bumpBy a n).xl = s.xl ∧ (s.bumpBy a n).dc = s.dc ∧ (s.bumpBy a n).lists = s.lists ∧ (s.bumpBy a n).nextList = s.nextList
      ∧ (s.bumpBy a n).lbytes = s.lbytes ∧ (s.bumpBy a n).lodes = s.lodes ∧ (s.bumpBy a n).fab = s.fab ∧ (s.bumpBy a n).due = s.due
      ∧ (s.bumpBy a n).heron = s.heron ∧ (s.bumpBy a n).rst = s.rst ∧ (s.bumpBy a n).sedge = s.sedge ∧ (s.bumpBy a n).tap = s.tap
      ∧ (s.bumpBy a n).pins = s.pins := by
  and_intros <;> rfl

@[simp] theorem bump_frame (a : Nat) :
    (s.bump a).pending = s.pending ∧ (s.bump a).free = s.free ∧ (s.bump a).out = s.out ∧ (s.bump a).round = s.round
      ∧ (s.bump a).sump = s.sump ∧ (s.bump a).pegs = s.pegs ∧ (s.bump a).waits = s.waits ∧ (s.bump a).pegOps = s.pegOps
      ∧ (s.bump a).wakes = s.wakes ∧ (s.bump a).cores = s.cores ∧ (s.bump a).ctx = s.ctx ∧ (s.bump a).vci = s.vci
      ∧ (s.bump a).hl = s.hl ∧ (s.bump a).parts = s.parts ∧ (s.bump a).trc = s.trc ∧ (s.bump a).hbm = s.hbm
      ∧ (s.bump a).hbmBad = s.hbmBad ∧ (s.bump a).hctl = s.hctl ∧ (s.bump a).slice = s.slice ∧ (s.bump a).useNo = s.useNo
      ∧ (s.bump a).tokens = s.tokens ∧ (s.bump a).short = s.short ∧ (s.bump a).thr = s.thr ∧ (s.bump a).coh = s.coh
      ∧ (s.bump a).xl = s.xl ∧ (s.bump a).dc = s.dc ∧ (s.bump a).lists = s.lists ∧ (s.bump a).nextList = s.nextList
      ∧ (s.bump a).lbytes = s.lbytes ∧ (s.bump a).lodes = s.lodes ∧ (s.bump a).fab = s.fab ∧ (s.bump a).due = s.due
      ∧ (s.bump a).heron = s.heron ∧ (s.bump a).rst = s.rst ∧ (s.bump a).sedge = s.sedge ∧ (s.bump a).tap = s.tap
      ∧ (s.bump a).pins = s.pins := by
  and_intros <;> rfl

@[simp] theorem drawn_frame :
    (s.drawn).pending = s.pending ∧ (s.drawn).out = s.out ∧ (s.drawn).round = s.round ∧ (s.drawn).sump = s.sump
      ∧ (s.drawn).reg = s.reg ∧ (s.drawn).pegs = s.pegs ∧ (s.drawn).waits = s.waits ∧ (s.drawn).pegOps = s.pegOps
      ∧ (s.drawn).wakes = s.wakes ∧ (s.drawn).cores = s.cores ∧ (s.drawn).ctx = s.ctx ∧ (s.drawn).vci = s.vci ∧ (s.drawn).hl = s.hl
      ∧ (s.drawn).parts = s.parts ∧ (s.drawn).trc = s.trc ∧ (s.drawn).hbm = s.hbm ∧ (s.drawn).hbmBad = s.hbmBad
      ∧ (s.drawn).hctl = s.hctl ∧ (s.drawn).slice = s.slice ∧ (s.drawn).useNo = s.useNo ∧ (s.drawn).tokens = s.tokens
      ∧ (s.drawn).short = s.short ∧ (s.drawn).thr = s.thr ∧ (s.drawn).coh = s.coh ∧ (s.drawn).xl = s.xl ∧ (s.drawn).dc = s.dc
      ∧ (s.drawn).lists = s.lists ∧ (s.drawn).nextList = s.nextList ∧ (s.drawn).lbytes = s.lbytes ∧ (s.drawn).lodes = s.lodes
      ∧ (s.drawn).fab = s.fab ∧ (s.drawn).due = s.due ∧ (s.drawn).heron = s.heron ∧ (s.drawn).rst = s.rst
      ∧ (s.drawn).sedge = s.sedge ∧ (s.drawn).tap = s.tap ∧ (s.drawn).pins = s.pins := by
  and_intros <;> rfl

@[simp] theorem drawn_free : (s.drawn).free = s.free + 1 := rfl

@[simp] theorem setCore_frame (c : Nat) (k : Core) :
    (s.setCore c k).pending = s.pending ∧ (s.setCore c k).free = s.free ∧ (s.setCore c k).out = s.out
      ∧ (s.setCore c k).round = s.round ∧ (s.setCore c k).sump = s.sump ∧ (s.setCore c k).reg = s.reg
      ∧ (s.setCore c k).pegs = s.pegs ∧ (s.setCore c k).waits = s.waits ∧ (s.setCore c k).pegOps = s.pegOps
      ∧ (s.setCore c k).wakes = s.wakes ∧ (s.setCore c k).ctx = s.ctx ∧ (s.setCore c k).vci = s.vci ∧ (s.setCore c k).hl = s.hl
      ∧ (s.setCore c k).parts = s.parts ∧ (s.setCore c k).trc = s.trc ∧ (s.setCore c k).hbm = s.hbm
      ∧ (s.setCore c k).hbmBad = s.hbmBad ∧ (s.setCore c k).hctl = s.hctl ∧ (s.setCore c k).slice = s.slice
      ∧ (s.setCore c k).useNo = s.useNo ∧ (s.setCore c k).tokens = s.tokens ∧ (s.setCore c k).short = s.short
      ∧ (s.setCore c k).thr = s.thr ∧ (s.setCore c k).coh = s.coh ∧ (s.setCore c k).xl = s.xl ∧ (s.setCore c k).dc = s.dc
      ∧ (s.setCore c k).lists = s.lists ∧ (s.setCore c k).nextList = s.nextList ∧ (s.setCore c k).lbytes = s.lbytes
      ∧ (s.setCore c k).lodes = s.lodes ∧ (s.setCore c k).fab = s.fab ∧ (s.setCore c k).due = s.due
      ∧ (s.setCore c k).heron = s.heron ∧ (s.setCore c k).rst = s.rst ∧ (s.setCore c k).sedge = s.sedge
      ∧ (s.setCore c k).tap = s.tap ∧ (s.setCore c k).pins = s.pins := by
  and_intros <;> rfl

@[simp] theorem modCore_frame (c : Nat) (f : Core → Core) :
    (s.modCore c f).pending = s.pending ∧ (s.modCore c f).free = s.free ∧ (s.modCore c f).out = s.out
      ∧ (s.modCore c f).round = s.round ∧ (s.modCore c f).sump = s.sump ∧ (s.modCore c f).reg = s.reg
      ∧ (s.modCore c f).pegs = s.pegs ∧ (s.modCore c f).waits = s.waits ∧ (s.modCore c f).pegOps = s.pegOps
      ∧ (s.modCore c f).wakes = s.wakes ∧ (s.modCore c f).ctx = s.ctx ∧ (s.modCore c f).vci = s.vci ∧ (s.modCore c f).hl = s.hl
      ∧ (s.modCore c f).parts = s.parts ∧ (s.modCore c f).trc = s.trc ∧ (s.modCore c f).hbm = s.hbm
      ∧ (s.modCore c f).hbmBad = s.hbmBad ∧ (s.modCore c f).hctl = s.hctl ∧ (s.modCore c f).slice = s.slice
      ∧ (s.modCore c f).useNo = s.useNo ∧ (s.modCore c f).tokens = s.tokens ∧ (s.modCore c f).short = s.short
      ∧ (s.modCore c f).thr = s.thr ∧ (s.modCore c f).coh = s.coh ∧ (s.modCore c f).xl = s.xl ∧ (s.modCore c f).dc = s.dc
      ∧ (s.modCore c f).lists = s.lists ∧ (s.modCore c f).nextList = s.nextList ∧ (s.modCore c f).lbytes = s.lbytes
      ∧ (s.modCore c f).lodes = s.lodes ∧ (s.modCore c f).fab = s.fab ∧ (s.modCore c f).due = s.due
      ∧ (s.modCore c f).heron = s.heron ∧ (s.modCore c f).rst = s.rst ∧ (s.modCore c f).sedge = s.sedge
      ∧ (s.modCore c f).tap = s.tap ∧ (s.modCore c f).pins = s.pins := by
  and_intros <;> rfl

@[simp] theorem setCtx_frame (c : Nat) (x : Ctx) :
    (s.setCtx c x).pending = s.pending ∧ (s.setCtx c x).free = s.free ∧ (s.setCtx c x).out = s.out
      ∧ (s.setCtx c x).round = s.round ∧ (s.setCtx c x).sump = s.sump ∧ (s.setCtx c x).reg = s.reg ∧ (s.setCtx c x).pegs = s.pegs
      ∧ (s.setCtx c x).waits = s.waits ∧ (s.setCtx c x).pegOps = s.pegOps ∧ (s.setCtx c x).wakes = s.wakes
      ∧ (s.setCtx c x).cores = s.cores ∧ (s.setCtx c x).vci = s.vci ∧ (s.setCtx c x).hl = s.hl ∧ (s.setCtx c x).parts = s.parts
      ∧ (s.setCtx c x).trc = s.trc ∧ (s.setCtx c x).hbm = s.hbm ∧ (s.setCtx c x).hbmBad = s.hbmBad ∧ (s.setCtx c x).hctl = s.hctl
      ∧ (s.setCtx c x).slice = s.slice ∧ (s.setCtx c x).useNo = s.useNo ∧ (s.setCtx c x).tokens = s.tokens
      ∧ (s.setCtx c x).short = s.short ∧ (s.setCtx c x).thr = s.thr ∧ (s.setCtx c x).coh = s.coh ∧ (s.setCtx c x).xl = s.xl
      ∧ (s.setCtx c x).dc = s.dc ∧ (s.setCtx c x).lists = s.lists ∧ (s.setCtx c x).nextList = s.nextList
      ∧ (s.setCtx c x).lbytes = s.lbytes ∧ (s.setCtx c x).lodes = s.lodes ∧ (s.setCtx c x).fab = s.fab ∧ (s.setCtx c x).due = s.due
      ∧ (s.setCtx c x).heron = s.heron ∧ (s.setCtx c x).rst = s.rst ∧ (s.setCtx c x).sedge = s.sedge ∧ (s.setCtx c x).tap = s.tap
      ∧ (s.setCtx c x).pins = s.pins := by
  and_intros <;> rfl

@[simp] theorem modCtx_frame (c : Nat) (f : Ctx → Ctx) :
    (s.modCtx c f).pending = s.pending ∧ (s.modCtx c f).free = s.free ∧ (s.modCtx c f).out = s.out
      ∧ (s.modCtx c f).round = s.round ∧ (s.modCtx c f).sump = s.sump ∧ (s.modCtx c f).reg = s.reg ∧ (s.modCtx c f).pegs = s.pegs
      ∧ (s.modCtx c f).waits = s.waits ∧ (s.modCtx c f).pegOps = s.pegOps ∧ (s.modCtx c f).wakes = s.wakes
      ∧ (s.modCtx c f).cores = s.cores ∧ (s.modCtx c f).vci = s.vci ∧ (s.modCtx c f).hl = s.hl ∧ (s.modCtx c f).parts = s.parts
      ∧ (s.modCtx c f).trc = s.trc ∧ (s.modCtx c f).hbm = s.hbm ∧ (s.modCtx c f).hbmBad = s.hbmBad ∧ (s.modCtx c f).hctl = s.hctl
      ∧ (s.modCtx c f).slice = s.slice ∧ (s.modCtx c f).useNo = s.useNo ∧ (s.modCtx c f).tokens = s.tokens
      ∧ (s.modCtx c f).short = s.short ∧ (s.modCtx c f).thr = s.thr ∧ (s.modCtx c f).coh = s.coh ∧ (s.modCtx c f).xl = s.xl
      ∧ (s.modCtx c f).dc = s.dc ∧ (s.modCtx c f).lists = s.lists ∧ (s.modCtx c f).nextList = s.nextList
      ∧ (s.modCtx c f).lbytes = s.lbytes ∧ (s.modCtx c f).lodes = s.lodes ∧ (s.modCtx c f).fab = s.fab ∧ (s.modCtx c f).due = s.due
      ∧ (s.modCtx c f).heron = s.heron ∧ (s.modCtx c f).rst = s.rst ∧ (s.modCtx c f).sedge = s.sedge ∧ (s.modCtx c f).tap = s.tap
      ∧ (s.modCtx c f).pins = s.pins := by
  and_intros <;> rfl

@[simp] theorem setPeg_frame (p : Nat) (v : Peg) :
    (s.setPeg p v).pending = s.pending ∧ (s.setPeg p v).free = s.free ∧ (s.setPeg p v).out = s.out
      ∧ (s.setPeg p v).round = s.round ∧ (s.setPeg p v).sump = s.sump ∧ (s.setPeg p v).reg = s.reg ∧ (s.setPeg p v).waits = s.waits
      ∧ (s.setPeg p v).pegOps = s.pegOps ∧ (s.setPeg p v).wakes = s.wakes ∧ (s.setPeg p v).cores = s.cores
      ∧ (s.setPeg p v).ctx = s.ctx ∧ (s.setPeg p v).vci = s.vci ∧ (s.setPeg p v).hl = s.hl ∧ (s.setPeg p v).parts = s.parts
      ∧ (s.setPeg p v).trc = s.trc ∧ (s.setPeg p v).hbm = s.hbm ∧ (s.setPeg p v).hbmBad = s.hbmBad ∧ (s.setPeg p v).hctl = s.hctl
      ∧ (s.setPeg p v).slice = s.slice ∧ (s.setPeg p v).useNo = s.useNo ∧ (s.setPeg p v).tokens = s.tokens
      ∧ (s.setPeg p v).short = s.short ∧ (s.setPeg p v).thr = s.thr ∧ (s.setPeg p v).coh = s.coh ∧ (s.setPeg p v).xl = s.xl
      ∧ (s.setPeg p v).dc = s.dc ∧ (s.setPeg p v).lists = s.lists ∧ (s.setPeg p v).nextList = s.nextList
      ∧ (s.setPeg p v).lbytes = s.lbytes ∧ (s.setPeg p v).lodes = s.lodes ∧ (s.setPeg p v).fab = s.fab ∧ (s.setPeg p v).due = s.due
      ∧ (s.setPeg p v).heron = s.heron ∧ (s.setPeg p v).rst = s.rst ∧ (s.setPeg p v).sedge = s.sedge ∧ (s.setPeg p v).tap = s.tap
      ∧ (s.setPeg p v).pins = s.pins := by
  and_intros <;> rfl

@[simp] theorem pegDo_frame (p : Nat) (op : PegOp) :
    (s.pegDo p op).pending = s.pending ∧ (s.pegDo p op).free = s.free ∧ (s.pegDo p op).out = s.out
      ∧ (s.pegDo p op).round = s.round ∧ (s.pegDo p op).sump = s.sump ∧ (s.pegDo p op).reg = s.reg ∧ (s.pegDo p op).pegs = s.pegs
      ∧ (s.pegDo p op).waits = s.waits ∧ (s.pegDo p op).wakes = s.wakes ∧ (s.pegDo p op).cores = s.cores
      ∧ (s.pegDo p op).ctx = s.ctx ∧ (s.pegDo p op).vci = s.vci ∧ (s.pegDo p op).hl = s.hl ∧ (s.pegDo p op).parts = s.parts
      ∧ (s.pegDo p op).trc = s.trc ∧ (s.pegDo p op).hbm = s.hbm ∧ (s.pegDo p op).hbmBad = s.hbmBad ∧ (s.pegDo p op).hctl = s.hctl
      ∧ (s.pegDo p op).slice = s.slice ∧ (s.pegDo p op).useNo = s.useNo ∧ (s.pegDo p op).tokens = s.tokens
      ∧ (s.pegDo p op).short = s.short ∧ (s.pegDo p op).thr = s.thr ∧ (s.pegDo p op).coh = s.coh ∧ (s.pegDo p op).xl = s.xl
      ∧ (s.pegDo p op).dc = s.dc ∧ (s.pegDo p op).lists = s.lists ∧ (s.pegDo p op).nextList = s.nextList
      ∧ (s.pegDo p op).lbytes = s.lbytes ∧ (s.pegDo p op).lodes = s.lodes ∧ (s.pegDo p op).fab = s.fab ∧ (s.pegDo p op).due = s.due
      ∧ (s.pegDo p op).heron = s.heron ∧ (s.pegDo p op).rst = s.rst ∧ (s.pegDo p op).sedge = s.sedge ∧ (s.pegDo p op).tap = s.tap
      ∧ (s.pegDo p op).pins = s.pins := by
  and_intros <;> rfl

@[simp] theorem pegDo_pegOps (p : Nat) (op : PegOp) : (s.pegDo p op).pegOps = s.pegOps ++ [(p, op)] := rfl

@[simp] theorem setList_frame (k : Nat) (l : CList) :
    (s.setList k l).pending = s.pending ∧ (s.setList k l).free = s.free ∧ (s.setList k l).out = s.out
      ∧ (s.setList k l).round = s.round ∧ (s.setList k l).sump = s.sump ∧ (s.setList k l).reg = s.reg
      ∧ (s.setList k l).pegs = s.pegs ∧ (s.setList k l).waits = s.waits ∧ (s.setList k l).pegOps = s.pegOps
      ∧ (s.setList k l).wakes = s.wakes ∧ (s.setList k l).cores = s.cores ∧ (s.setList k l).ctx = s.ctx
      ∧ (s.setList k l).vci = s.vci ∧ (s.setList k l).hl = s.hl ∧ (s.setList k l).parts = s.parts ∧ (s.setList k l).trc = s.trc
      ∧ (s.setList k l).hbm = s.hbm ∧ (s.setList k l).hbmBad = s.hbmBad ∧ (s.setList k l).hctl = s.hctl
      ∧ (s.setList k l).slice = s.slice ∧ (s.setList k l).useNo = s.useNo ∧ (s.setList k l).tokens = s.tokens
      ∧ (s.setList k l).short = s.short ∧ (s.setList k l).thr = s.thr ∧ (s.setList k l).coh = s.coh ∧ (s.setList k l).xl = s.xl
      ∧ (s.setList k l).dc = s.dc ∧ (s.setList k l).nextList = s.nextList ∧ (s.setList k l).lbytes = s.lbytes
      ∧ (s.setList k l).lodes = s.lodes ∧ (s.setList k l).fab = s.fab ∧ (s.setList k l).due = s.due
      ∧ (s.setList k l).heron = s.heron ∧ (s.setList k l).rst = s.rst ∧ (s.setList k l).sedge = s.sedge
      ∧ (s.setList k l).tap = s.tap ∧ (s.setList k l).pins = s.pins := by
  and_intros <;> rfl

@[simp] theorem setRound_frame (r : RoundSt) :
    (s.setRound r).pending = s.pending ∧ (s.setRound r).free = s.free ∧ (s.setRound r).out = s.out ∧ (s.setRound r).sump = s.sump
      ∧ (s.setRound r).reg = s.reg ∧ (s.setRound r).pegs = s.pegs ∧ (s.setRound r).waits = s.waits
      ∧ (s.setRound r).pegOps = s.pegOps ∧ (s.setRound r).wakes = s.wakes ∧ (s.setRound r).cores = s.cores
      ∧ (s.setRound r).ctx = s.ctx ∧ (s.setRound r).vci = s.vci ∧ (s.setRound r).hl = s.hl ∧ (s.setRound r).parts = s.parts
      ∧ (s.setRound r).trc = s.trc ∧ (s.setRound r).hbm = s.hbm ∧ (s.setRound r).hbmBad = s.hbmBad ∧ (s.setRound r).hctl = s.hctl
      ∧ (s.setRound r).slice = s.slice ∧ (s.setRound r).useNo = s.useNo ∧ (s.setRound r).tokens = s.tokens
      ∧ (s.setRound r).short = s.short ∧ (s.setRound r).thr = s.thr ∧ (s.setRound r).coh = s.coh ∧ (s.setRound r).xl = s.xl
      ∧ (s.setRound r).dc = s.dc ∧ (s.setRound r).lists = s.lists ∧ (s.setRound r).nextList = s.nextList
      ∧ (s.setRound r).lbytes = s.lbytes ∧ (s.setRound r).lodes = s.lodes ∧ (s.setRound r).fab = s.fab ∧ (s.setRound r).due = s.due
      ∧ (s.setRound r).heron = s.heron ∧ (s.setRound r).rst = s.rst ∧ (s.setRound r).sedge = s.sedge ∧ (s.setRound r).tap = s.tap
      ∧ (s.setRound r).pins = s.pins := by
  and_intros <;> rfl

@[simp] theorem setRound_round (r : RoundSt) : (s.setRound r).round = r := rfl

@[simp] theorem setSump_frame (u : SumpSt) :
    (s.setSump u).pending = s.pending ∧ (s.setSump u).free = s.free ∧ (s.setSump u).out = s.out ∧ (s.setSump u).round = s.round
      ∧ (s.setSump u).reg = s.reg ∧ (s.setSump u).pegs = s.pegs ∧ (s.setSump u).waits = s.waits ∧ (s.setSump u).pegOps = s.pegOps
      ∧ (s.setSump u).wakes = s.wakes ∧ (s.setSump u).cores = s.cores ∧ (s.setSump u).ctx = s.ctx ∧ (s.setSump u).vci = s.vci
      ∧ (s.setSump u).hl = s.hl ∧ (s.setSump u).parts = s.parts ∧ (s.setSump u).trc = s.trc ∧ (s.setSump u).hbm = s.hbm
      ∧ (s.setSump u).hbmBad = s.hbmBad ∧ (s.setSump u).hctl = s.hctl ∧ (s.setSump u).slice = s.slice
      ∧ (s.setSump u).useNo = s.useNo ∧ (s.setSump u).tokens = s.tokens ∧ (s.setSump u).short = s.short ∧ (s.setSump u).thr = s.thr
      ∧ (s.setSump u).coh = s.coh ∧ (s.setSump u).xl = s.xl ∧ (s.setSump u).dc = s.dc ∧ (s.setSump u).lists = s.lists
      ∧ (s.setSump u).nextList = s.nextList ∧ (s.setSump u).lbytes = s.lbytes ∧ (s.setSump u).lodes = s.lodes
      ∧ (s.setSump u).fab = s.fab ∧ (s.setSump u).due = s.due ∧ (s.setSump u).heron = s.heron ∧ (s.setSump u).rst = s.rst
      ∧ (s.setSump u).sedge = s.sedge ∧ (s.setSump u).tap = s.tap ∧ (s.setSump u).pins = s.pins := by
  and_intros <;> rfl

@[simp] theorem setSump_sump (u : SumpSt) : (s.setSump u).sump = u := rfl

@[simp] theorem setHeron_frame (h : HeronSt) :
    (s.setHeron h).pending = s.pending ∧ (s.setHeron h).free = s.free ∧ (s.setHeron h).out = s.out
      ∧ (s.setHeron h).round = s.round ∧ (s.setHeron h).sump = s.sump ∧ (s.setHeron h).reg = s.reg ∧ (s.setHeron h).pegs = s.pegs
      ∧ (s.setHeron h).waits = s.waits ∧ (s.setHeron h).pegOps = s.pegOps ∧ (s.setHeron h).wakes = s.wakes
      ∧ (s.setHeron h).cores = s.cores ∧ (s.setHeron h).ctx = s.ctx ∧ (s.setHeron h).vci = s.vci ∧ (s.setHeron h).hl = s.hl
      ∧ (s.setHeron h).parts = s.parts ∧ (s.setHeron h).trc = s.trc ∧ (s.setHeron h).hbm = s.hbm ∧ (s.setHeron h).hbmBad = s.hbmBad
      ∧ (s.setHeron h).hctl = s.hctl ∧ (s.setHeron h).slice = s.slice ∧ (s.setHeron h).useNo = s.useNo
      ∧ (s.setHeron h).tokens = s.tokens ∧ (s.setHeron h).short = s.short ∧ (s.setHeron h).thr = s.thr ∧ (s.setHeron h).coh = s.coh
      ∧ (s.setHeron h).xl = s.xl ∧ (s.setHeron h).dc = s.dc ∧ (s.setHeron h).lists = s.lists ∧ (s.setHeron h).nextList = s.nextList
      ∧ (s.setHeron h).lbytes = s.lbytes ∧ (s.setHeron h).lodes = s.lodes ∧ (s.setHeron h).fab = s.fab ∧ (s.setHeron h).due = s.due
      ∧ (s.setHeron h).rst = s.rst ∧ (s.setHeron h).sedge = s.sedge ∧ (s.setHeron h).tap = s.tap ∧ (s.setHeron h).pins = s.pins := by
  and_intros <;> rfl

@[simp] theorem setHeron_heron (h : HeronSt) : (s.setHeron h).heron = h := rfl

@[simp] theorem setSedge_frame (k : SedgeSt) :
    (s.setSedge k).pending = s.pending ∧ (s.setSedge k).free = s.free ∧ (s.setSedge k).out = s.out
      ∧ (s.setSedge k).round = s.round ∧ (s.setSedge k).sump = s.sump ∧ (s.setSedge k).reg = s.reg ∧ (s.setSedge k).pegs = s.pegs
      ∧ (s.setSedge k).waits = s.waits ∧ (s.setSedge k).pegOps = s.pegOps ∧ (s.setSedge k).wakes = s.wakes
      ∧ (s.setSedge k).cores = s.cores ∧ (s.setSedge k).ctx = s.ctx ∧ (s.setSedge k).vci = s.vci ∧ (s.setSedge k).hl = s.hl
      ∧ (s.setSedge k).parts = s.parts ∧ (s.setSedge k).trc = s.trc ∧ (s.setSedge k).hbm = s.hbm ∧ (s.setSedge k).hbmBad = s.hbmBad
      ∧ (s.setSedge k).hctl = s.hctl ∧ (s.setSedge k).slice = s.slice ∧ (s.setSedge k).useNo = s.useNo
      ∧ (s.setSedge k).tokens = s.tokens ∧ (s.setSedge k).short = s.short ∧ (s.setSedge k).thr = s.thr ∧ (s.setSedge k).coh = s.coh
      ∧ (s.setSedge k).xl = s.xl ∧ (s.setSedge k).dc = s.dc ∧ (s.setSedge k).lists = s.lists ∧ (s.setSedge k).nextList = s.nextList
      ∧ (s.setSedge k).lbytes = s.lbytes ∧ (s.setSedge k).lodes = s.lodes ∧ (s.setSedge k).fab = s.fab ∧ (s.setSedge k).due = s.due
      ∧ (s.setSedge k).heron = s.heron ∧ (s.setSedge k).rst = s.rst ∧ (s.setSedge k).tap = s.tap ∧ (s.setSedge k).pins = s.pins := by
  and_intros <;> rfl

@[simp] theorem setSedge_sedge (k : SedgeSt) : (s.setSedge k).sedge = k := rfl

@[simp] theorem setTdi_frame (p : Nat) (t : Tdi) :
    (s.setTdi p t).pending = s.pending ∧ (s.setTdi p t).free = s.free ∧ (s.setTdi p t).out = s.out
      ∧ (s.setTdi p t).round = s.round ∧ (s.setTdi p t).sump = s.sump ∧ (s.setTdi p t).reg = s.reg ∧ (s.setTdi p t).pegs = s.pegs
      ∧ (s.setTdi p t).waits = s.waits ∧ (s.setTdi p t).pegOps = s.pegOps ∧ (s.setTdi p t).wakes = s.wakes
      ∧ (s.setTdi p t).cores = s.cores ∧ (s.setTdi p t).ctx = s.ctx ∧ (s.setTdi p t).vci = s.vci ∧ (s.setTdi p t).hl = s.hl
      ∧ (s.setTdi p t).parts = s.parts ∧ (s.setTdi p t).trc = s.trc ∧ (s.setTdi p t).hbm = s.hbm ∧ (s.setTdi p t).hbmBad = s.hbmBad
      ∧ (s.setTdi p t).hctl = s.hctl ∧ (s.setTdi p t).slice = s.slice ∧ (s.setTdi p t).useNo = s.useNo
      ∧ (s.setTdi p t).tokens = s.tokens ∧ (s.setTdi p t).short = s.short ∧ (s.setTdi p t).thr = s.thr ∧ (s.setTdi p t).coh = s.coh
      ∧ (s.setTdi p t).xl = s.xl ∧ (s.setTdi p t).dc = s.dc ∧ (s.setTdi p t).lists = s.lists ∧ (s.setTdi p t).nextList = s.nextList
      ∧ (s.setTdi p t).lbytes = s.lbytes ∧ (s.setTdi p t).lodes = s.lodes ∧ (s.setTdi p t).fab = s.fab ∧ (s.setTdi p t).due = s.due
      ∧ (s.setTdi p t).heron = s.heron ∧ (s.setTdi p t).rst = s.rst ∧ (s.setTdi p t).tap = s.tap ∧ (s.setTdi p t).pins = s.pins := by
  and_intros <;> rfl

@[simp] theorem setDc_frame (d : DcSt) :
    (s.setDc d).pending = s.pending ∧ (s.setDc d).free = s.free ∧ (s.setDc d).out = s.out ∧ (s.setDc d).round = s.round
      ∧ (s.setDc d).sump = s.sump ∧ (s.setDc d).reg = s.reg ∧ (s.setDc d).pegs = s.pegs ∧ (s.setDc d).waits = s.waits
      ∧ (s.setDc d).pegOps = s.pegOps ∧ (s.setDc d).wakes = s.wakes ∧ (s.setDc d).cores = s.cores ∧ (s.setDc d).ctx = s.ctx
      ∧ (s.setDc d).vci = s.vci ∧ (s.setDc d).hl = s.hl ∧ (s.setDc d).parts = s.parts ∧ (s.setDc d).trc = s.trc
      ∧ (s.setDc d).hbm = s.hbm ∧ (s.setDc d).hbmBad = s.hbmBad ∧ (s.setDc d).hctl = s.hctl ∧ (s.setDc d).slice = s.slice
      ∧ (s.setDc d).useNo = s.useNo ∧ (s.setDc d).tokens = s.tokens ∧ (s.setDc d).short = s.short ∧ (s.setDc d).thr = s.thr
      ∧ (s.setDc d).coh = s.coh ∧ (s.setDc d).xl = s.xl ∧ (s.setDc d).lists = s.lists ∧ (s.setDc d).nextList = s.nextList
      ∧ (s.setDc d).lbytes = s.lbytes ∧ (s.setDc d).lodes = s.lodes ∧ (s.setDc d).fab = s.fab ∧ (s.setDc d).due = s.due
      ∧ (s.setDc d).heron = s.heron ∧ (s.setDc d).rst = s.rst ∧ (s.setDc d).sedge = s.sedge ∧ (s.setDc d).tap = s.tap
      ∧ (s.setDc d).pins = s.pins := by
  and_intros <;> rfl

@[simp] theorem setDc_dc (d : DcSt) : (s.setDc d).dc = d := rfl

@[simp] theorem setXl_frame (x : XlatSt) :
    (s.setXl x).pending = s.pending ∧ (s.setXl x).free = s.free ∧ (s.setXl x).out = s.out ∧ (s.setXl x).round = s.round
      ∧ (s.setXl x).sump = s.sump ∧ (s.setXl x).reg = s.reg ∧ (s.setXl x).pegs = s.pegs ∧ (s.setXl x).waits = s.waits
      ∧ (s.setXl x).pegOps = s.pegOps ∧ (s.setXl x).wakes = s.wakes ∧ (s.setXl x).cores = s.cores ∧ (s.setXl x).ctx = s.ctx
      ∧ (s.setXl x).vci = s.vci ∧ (s.setXl x).hl = s.hl ∧ (s.setXl x).parts = s.parts ∧ (s.setXl x).trc = s.trc
      ∧ (s.setXl x).hbm = s.hbm ∧ (s.setXl x).hbmBad = s.hbmBad ∧ (s.setXl x).hctl = s.hctl ∧ (s.setXl x).slice = s.slice
      ∧ (s.setXl x).useNo = s.useNo ∧ (s.setXl x).tokens = s.tokens ∧ (s.setXl x).short = s.short ∧ (s.setXl x).thr = s.thr
      ∧ (s.setXl x).coh = s.coh ∧ (s.setXl x).dc = s.dc ∧ (s.setXl x).lists = s.lists ∧ (s.setXl x).nextList = s.nextList
      ∧ (s.setXl x).lbytes = s.lbytes ∧ (s.setXl x).lodes = s.lodes ∧ (s.setXl x).fab = s.fab ∧ (s.setXl x).due = s.due
      ∧ (s.setXl x).heron = s.heron ∧ (s.setXl x).rst = s.rst ∧ (s.setXl x).sedge = s.sedge ∧ (s.setXl x).tap = s.tap
      ∧ (s.setXl x).pins = s.pins := by
  and_intros <;> rfl

@[simp] theorem setXl_xl (x : XlatSt) : (s.setXl x).xl = x := rfl

@[simp] theorem setCoh_frame (c : CohSt) :
    (s.setCoh c).pending = s.pending ∧ (s.setCoh c).free = s.free ∧ (s.setCoh c).out = s.out ∧ (s.setCoh c).round = s.round
      ∧ (s.setCoh c).sump = s.sump ∧ (s.setCoh c).reg = s.reg ∧ (s.setCoh c).pegs = s.pegs ∧ (s.setCoh c).waits = s.waits
      ∧ (s.setCoh c).pegOps = s.pegOps ∧ (s.setCoh c).wakes = s.wakes ∧ (s.setCoh c).cores = s.cores ∧ (s.setCoh c).ctx = s.ctx
      ∧ (s.setCoh c).vci = s.vci ∧ (s.setCoh c).hl = s.hl ∧ (s.setCoh c).parts = s.parts ∧ (s.setCoh c).trc = s.trc
      ∧ (s.setCoh c).hbm = s.hbm ∧ (s.setCoh c).hbmBad = s.hbmBad ∧ (s.setCoh c).hctl = s.hctl ∧ (s.setCoh c).slice = s.slice
      ∧ (s.setCoh c).useNo = s.useNo ∧ (s.setCoh c).tokens = s.tokens ∧ (s.setCoh c).short = s.short ∧ (s.setCoh c).thr = s.thr
      ∧ (s.setCoh c).xl = s.xl ∧ (s.setCoh c).dc = s.dc ∧ (s.setCoh c).lists = s.lists ∧ (s.setCoh c).nextList = s.nextList
      ∧ (s.setCoh c).lbytes = s.lbytes ∧ (s.setCoh c).lodes = s.lodes ∧ (s.setCoh c).fab = s.fab ∧ (s.setCoh c).due = s.due
      ∧ (s.setCoh c).heron = s.heron ∧ (s.setCoh c).rst = s.rst ∧ (s.setCoh c).sedge = s.sedge ∧ (s.setCoh c).tap = s.tap
      ∧ (s.setCoh c).pins = s.pins := by
  and_intros <;> rfl

@[simp] theorem setCoh_coh (c : CohSt) : (s.setCoh c).coh = c := rfl

@[simp] theorem setFab_frame (f : FabSt) :
    (s.setFab f).pending = s.pending ∧ (s.setFab f).free = s.free ∧ (s.setFab f).out = s.out ∧ (s.setFab f).round = s.round
      ∧ (s.setFab f).sump = s.sump ∧ (s.setFab f).reg = s.reg ∧ (s.setFab f).pegs = s.pegs ∧ (s.setFab f).waits = s.waits
      ∧ (s.setFab f).pegOps = s.pegOps ∧ (s.setFab f).wakes = s.wakes ∧ (s.setFab f).cores = s.cores ∧ (s.setFab f).ctx = s.ctx
      ∧ (s.setFab f).vci = s.vci ∧ (s.setFab f).hl = s.hl ∧ (s.setFab f).parts = s.parts ∧ (s.setFab f).trc = s.trc
      ∧ (s.setFab f).hbm = s.hbm ∧ (s.setFab f).hbmBad = s.hbmBad ∧ (s.setFab f).hctl = s.hctl ∧ (s.setFab f).slice = s.slice
      ∧ (s.setFab f).useNo = s.useNo ∧ (s.setFab f).tokens = s.tokens ∧ (s.setFab f).short = s.short ∧ (s.setFab f).thr = s.thr
      ∧ (s.setFab f).coh = s.coh ∧ (s.setFab f).xl = s.xl ∧ (s.setFab f).dc = s.dc ∧ (s.setFab f).lists = s.lists
      ∧ (s.setFab f).nextList = s.nextList ∧ (s.setFab f).lbytes = s.lbytes ∧ (s.setFab f).lodes = s.lodes
      ∧ (s.setFab f).due = s.due ∧ (s.setFab f).heron = s.heron ∧ (s.setFab f).rst = s.rst ∧ (s.setFab f).sedge = s.sedge
      ∧ (s.setFab f).tap = s.tap ∧ (s.setFab f).pins = s.pins := by
  and_intros <;> rfl

@[simp] theorem setFab_fab (f : FabSt) : (s.setFab f).fab = f := rfl

@[simp] theorem setConn_frame (c : Nat) (k : Conn) :
    (s.setConn c k).pending = s.pending ∧ (s.setConn c k).free = s.free ∧ (s.setConn c k).out = s.out
      ∧ (s.setConn c k).round = s.round ∧ (s.setConn c k).sump = s.sump ∧ (s.setConn c k).reg = s.reg
      ∧ (s.setConn c k).pegs = s.pegs ∧ (s.setConn c k).waits = s.waits ∧ (s.setConn c k).pegOps = s.pegOps
      ∧ (s.setConn c k).wakes = s.wakes ∧ (s.setConn c k).cores = s.cores ∧ (s.setConn c k).ctx = s.ctx
      ∧ (s.setConn c k).vci = s.vci ∧ (s.setConn c k).hl = s.hl ∧ (s.setConn c k).parts = s.parts ∧ (s.setConn c k).trc = s.trc
      ∧ (s.setConn c k).hbm = s.hbm ∧ (s.setConn c k).hbmBad = s.hbmBad ∧ (s.setConn c k).hctl = s.hctl
      ∧ (s.setConn c k).slice = s.slice ∧ (s.setConn c k).useNo = s.useNo ∧ (s.setConn c k).tokens = s.tokens
      ∧ (s.setConn c k).short = s.short ∧ (s.setConn c k).thr = s.thr ∧ (s.setConn c k).coh = s.coh ∧ (s.setConn c k).xl = s.xl
      ∧ (s.setConn c k).dc = s.dc ∧ (s.setConn c k).lists = s.lists ∧ (s.setConn c k).nextList = s.nextList
      ∧ (s.setConn c k).lbytes = s.lbytes ∧ (s.setConn c k).lodes = s.lodes ∧ (s.setConn c k).due = s.due
      ∧ (s.setConn c k).heron = s.heron ∧ (s.setConn c k).rst = s.rst ∧ (s.setConn c k).sedge = s.sedge
      ∧ (s.setConn c k).tap = s.tap ∧ (s.setConn c k).pins = s.pins := by
  and_intros <;> rfl

@[simp] theorem setLode_frame (l : Nat) (k : LodeSt) :
    (s.setLode l k).pending = s.pending ∧ (s.setLode l k).free = s.free ∧ (s.setLode l k).out = s.out
      ∧ (s.setLode l k).round = s.round ∧ (s.setLode l k).sump = s.sump ∧ (s.setLode l k).reg = s.reg
      ∧ (s.setLode l k).pegs = s.pegs ∧ (s.setLode l k).waits = s.waits ∧ (s.setLode l k).pegOps = s.pegOps
      ∧ (s.setLode l k).wakes = s.wakes ∧ (s.setLode l k).cores = s.cores ∧ (s.setLode l k).ctx = s.ctx
      ∧ (s.setLode l k).vci = s.vci ∧ (s.setLode l k).hl = s.hl ∧ (s.setLode l k).parts = s.parts ∧ (s.setLode l k).trc = s.trc
      ∧ (s.setLode l k).hbm = s.hbm ∧ (s.setLode l k).hbmBad = s.hbmBad ∧ (s.setLode l k).hctl = s.hctl
      ∧ (s.setLode l k).slice = s.slice ∧ (s.setLode l k).useNo = s.useNo ∧ (s.setLode l k).tokens = s.tokens
      ∧ (s.setLode l k).short = s.short ∧ (s.setLode l k).thr = s.thr ∧ (s.setLode l k).coh = s.coh ∧ (s.setLode l k).xl = s.xl
      ∧ (s.setLode l k).dc = s.dc ∧ (s.setLode l k).lists = s.lists ∧ (s.setLode l k).nextList = s.nextList
      ∧ (s.setLode l k).lbytes = s.lbytes ∧ (s.setLode l k).fab = s.fab ∧ (s.setLode l k).due = s.due
      ∧ (s.setLode l k).heron = s.heron ∧ (s.setLode l k).rst = s.rst ∧ (s.setLode l k).sedge = s.sedge
      ∧ (s.setLode l k).tap = s.tap ∧ (s.setLode l k).pins = s.pins := by
  and_intros <;> rfl

@[simp] theorem modLode_frame (l : Nat) (f : LodeSt → LodeSt) :
    (s.modLode l f).pending = s.pending ∧ (s.modLode l f).free = s.free ∧ (s.modLode l f).out = s.out
      ∧ (s.modLode l f).round = s.round ∧ (s.modLode l f).sump = s.sump ∧ (s.modLode l f).reg = s.reg
      ∧ (s.modLode l f).pegs = s.pegs ∧ (s.modLode l f).waits = s.waits ∧ (s.modLode l f).pegOps = s.pegOps
      ∧ (s.modLode l f).wakes = s.wakes ∧ (s.modLode l f).cores = s.cores ∧ (s.modLode l f).ctx = s.ctx
      ∧ (s.modLode l f).vci = s.vci ∧ (s.modLode l f).hl = s.hl ∧ (s.modLode l f).parts = s.parts ∧ (s.modLode l f).trc = s.trc
      ∧ (s.modLode l f).hbm = s.hbm ∧ (s.modLode l f).hbmBad = s.hbmBad ∧ (s.modLode l f).hctl = s.hctl
      ∧ (s.modLode l f).slice = s.slice ∧ (s.modLode l f).useNo = s.useNo ∧ (s.modLode l f).tokens = s.tokens
      ∧ (s.modLode l f).short = s.short ∧ (s.modLode l f).thr = s.thr ∧ (s.modLode l f).coh = s.coh ∧ (s.modLode l f).xl = s.xl
      ∧ (s.modLode l f).dc = s.dc ∧ (s.modLode l f).lists = s.lists ∧ (s.modLode l f).nextList = s.nextList
      ∧ (s.modLode l f).lbytes = s.lbytes ∧ (s.modLode l f).fab = s.fab ∧ (s.modLode l f).due = s.due
      ∧ (s.modLode l f).heron = s.heron ∧ (s.modLode l f).rst = s.rst ∧ (s.modLode l f).sedge = s.sedge
      ∧ (s.modLode l f).tap = s.tap ∧ (s.modLode l f).pins = s.pins := by
  and_intros <;> rfl

@[simp] theorem setHctl_frame (k : Nat) (h : Hbm) :
    (s.setHctl k h).pending = s.pending ∧ (s.setHctl k h).free = s.free ∧ (s.setHctl k h).out = s.out
      ∧ (s.setHctl k h).round = s.round ∧ (s.setHctl k h).sump = s.sump ∧ (s.setHctl k h).reg = s.reg
      ∧ (s.setHctl k h).pegs = s.pegs ∧ (s.setHctl k h).waits = s.waits ∧ (s.setHctl k h).pegOps = s.pegOps
      ∧ (s.setHctl k h).wakes = s.wakes ∧ (s.setHctl k h).cores = s.cores ∧ (s.setHctl k h).ctx = s.ctx
      ∧ (s.setHctl k h).vci = s.vci ∧ (s.setHctl k h).hl = s.hl ∧ (s.setHctl k h).parts = s.parts ∧ (s.setHctl k h).trc = s.trc
      ∧ (s.setHctl k h).hbm = s.hbm ∧ (s.setHctl k h).hbmBad = s.hbmBad ∧ (s.setHctl k h).slice = s.slice
      ∧ (s.setHctl k h).useNo = s.useNo ∧ (s.setHctl k h).tokens = s.tokens ∧ (s.setHctl k h).short = s.short
      ∧ (s.setHctl k h).thr = s.thr ∧ (s.setHctl k h).coh = s.coh ∧ (s.setHctl k h).xl = s.xl ∧ (s.setHctl k h).dc = s.dc
      ∧ (s.setHctl k h).lists = s.lists ∧ (s.setHctl k h).nextList = s.nextList ∧ (s.setHctl k h).lbytes = s.lbytes
      ∧ (s.setHctl k h).lodes = s.lodes ∧ (s.setHctl k h).fab = s.fab ∧ (s.setHctl k h).due = s.due
      ∧ (s.setHctl k h).heron = s.heron ∧ (s.setHctl k h).rst = s.rst ∧ (s.setHctl k h).sedge = s.sedge
      ∧ (s.setHctl k h).tap = s.tap ∧ (s.setHctl k h).pins = s.pins := by
  and_intros <;> rfl

@[simp] theorem setPart_frame (p : Nat) (v : Part) :
    (s.setPart p v).pending = s.pending ∧ (s.setPart p v).free = s.free ∧ (s.setPart p v).out = s.out
      ∧ (s.setPart p v).round = s.round ∧ (s.setPart p v).sump = s.sump ∧ (s.setPart p v).reg = s.reg
      ∧ (s.setPart p v).pegs = s.pegs ∧ (s.setPart p v).waits = s.waits ∧ (s.setPart p v).pegOps = s.pegOps
      ∧ (s.setPart p v).wakes = s.wakes ∧ (s.setPart p v).cores = s.cores ∧ (s.setPart p v).ctx = s.ctx
      ∧ (s.setPart p v).vci = s.vci ∧ (s.setPart p v).hl = s.hl ∧ (s.setPart p v).trc = s.trc ∧ (s.setPart p v).hbm = s.hbm
      ∧ (s.setPart p v).hbmBad = s.hbmBad ∧ (s.setPart p v).hctl = s.hctl ∧ (s.setPart p v).slice = s.slice
      ∧ (s.setPart p v).useNo = s.useNo ∧ (s.setPart p v).tokens = s.tokens ∧ (s.setPart p v).short = s.short
      ∧ (s.setPart p v).thr = s.thr ∧ (s.setPart p v).coh = s.coh ∧ (s.setPart p v).xl = s.xl ∧ (s.setPart p v).dc = s.dc
      ∧ (s.setPart p v).lists = s.lists ∧ (s.setPart p v).nextList = s.nextList ∧ (s.setPart p v).lbytes = s.lbytes
      ∧ (s.setPart p v).lodes = s.lodes ∧ (s.setPart p v).fab = s.fab ∧ (s.setPart p v).due = s.due
      ∧ (s.setPart p v).heron = s.heron ∧ (s.setPart p v).rst = s.rst ∧ (s.setPart p v).sedge = s.sedge
      ∧ (s.setPart p v).tap = s.tap ∧ (s.setPart p v).pins = s.pins := by
  and_intros <;> rfl

@[simp] theorem setTok_frame (b n : Nat) :
    (s.setTok b n).pending = s.pending ∧ (s.setTok b n).free = s.free ∧ (s.setTok b n).out = s.out
      ∧ (s.setTok b n).round = s.round ∧ (s.setTok b n).sump = s.sump ∧ (s.setTok b n).reg = s.reg ∧ (s.setTok b n).pegs = s.pegs
      ∧ (s.setTok b n).waits = s.waits ∧ (s.setTok b n).pegOps = s.pegOps ∧ (s.setTok b n).wakes = s.wakes
      ∧ (s.setTok b n).cores = s.cores ∧ (s.setTok b n).ctx = s.ctx ∧ (s.setTok b n).vci = s.vci ∧ (s.setTok b n).hl = s.hl
      ∧ (s.setTok b n).parts = s.parts ∧ (s.setTok b n).trc = s.trc ∧ (s.setTok b n).hbm = s.hbm ∧ (s.setTok b n).hbmBad = s.hbmBad
      ∧ (s.setTok b n).hctl = s.hctl ∧ (s.setTok b n).slice = s.slice ∧ (s.setTok b n).useNo = s.useNo
      ∧ (s.setTok b n).short = s.short ∧ (s.setTok b n).thr = s.thr ∧ (s.setTok b n).coh = s.coh ∧ (s.setTok b n).xl = s.xl
      ∧ (s.setTok b n).dc = s.dc ∧ (s.setTok b n).lists = s.lists ∧ (s.setTok b n).nextList = s.nextList
      ∧ (s.setTok b n).lbytes = s.lbytes ∧ (s.setTok b n).lodes = s.lodes ∧ (s.setTok b n).fab = s.fab ∧ (s.setTok b n).due = s.due
      ∧ (s.setTok b n).heron = s.heron ∧ (s.setTok b n).rst = s.rst ∧ (s.setTok b n).sedge = s.sedge ∧ (s.setTok b n).tap = s.tap
      ∧ (s.setTok b n).pins = s.pins := by
  and_intros <;> rfl

@[simp] theorem spoilHalf_frame (h : Nat) (b : Bool) :
    (s.spoilHalf h b).pending = s.pending ∧ (s.spoilHalf h b).free = s.free ∧ (s.spoilHalf h b).out = s.out
      ∧ (s.spoilHalf h b).round = s.round ∧ (s.spoilHalf h b).sump = s.sump ∧ (s.spoilHalf h b).reg = s.reg
      ∧ (s.spoilHalf h b).pegs = s.pegs ∧ (s.spoilHalf h b).waits = s.waits ∧ (s.spoilHalf h b).pegOps = s.pegOps
      ∧ (s.spoilHalf h b).wakes = s.wakes ∧ (s.spoilHalf h b).cores = s.cores ∧ (s.spoilHalf h b).ctx = s.ctx
      ∧ (s.spoilHalf h b).vci = s.vci ∧ (s.spoilHalf h b).hl = s.hl ∧ (s.spoilHalf h b).parts = s.parts
      ∧ (s.spoilHalf h b).trc = s.trc ∧ (s.spoilHalf h b).hbm = s.hbm ∧ (s.spoilHalf h b).hctl = s.hctl
      ∧ (s.spoilHalf h b).slice = s.slice ∧ (s.spoilHalf h b).useNo = s.useNo ∧ (s.spoilHalf h b).tokens = s.tokens
      ∧ (s.spoilHalf h b).short = s.short ∧ (s.spoilHalf h b).thr = s.thr ∧ (s.spoilHalf h b).coh = s.coh
      ∧ (s.spoilHalf h b).xl = s.xl ∧ (s.spoilHalf h b).dc = s.dc ∧ (s.spoilHalf h b).lists = s.lists
      ∧ (s.spoilHalf h b).nextList = s.nextList ∧ (s.spoilHalf h b).lbytes = s.lbytes ∧ (s.spoilHalf h b).lodes = s.lodes
      ∧ (s.spoilHalf h b).fab = s.fab ∧ (s.spoilHalf h b).due = s.due ∧ (s.spoilHalf h b).heron = s.heron
      ∧ (s.spoilHalf h b).rst = s.rst ∧ (s.spoilHalf h b).sedge = s.sedge ∧ (s.spoilHalf h b).tap = s.tap
      ∧ (s.spoilHalf h b).pins = s.pins := by
  and_intros <;> rfl

@[simp] theorem setSq_frame (q : Nat) (r : Sq) :
    (s.setSq q r).pending = s.pending ∧ (s.setSq q r).free = s.free ∧ (s.setSq q r).out = s.out ∧ (s.setSq q r).round = s.round
      ∧ (s.setSq q r).sump = s.sump ∧ (s.setSq q r).reg = s.reg ∧ (s.setSq q r).pegs = s.pegs ∧ (s.setSq q r).waits = s.waits
      ∧ (s.setSq q r).pegOps = s.pegOps ∧ (s.setSq q r).wakes = s.wakes ∧ (s.setSq q r).cores = s.cores ∧ (s.setSq q r).ctx = s.ctx
      ∧ (s.setSq q r).hl = s.hl ∧ (s.setSq q r).parts = s.parts ∧ (s.setSq q r).trc = s.trc ∧ (s.setSq q r).hbm = s.hbm
      ∧ (s.setSq q r).hbmBad = s.hbmBad ∧ (s.setSq q r).hctl = s.hctl ∧ (s.setSq q r).slice = s.slice
      ∧ (s.setSq q r).useNo = s.useNo ∧ (s.setSq q r).tokens = s.tokens ∧ (s.setSq q r).short = s.short ∧ (s.setSq q r).thr = s.thr
      ∧ (s.setSq q r).coh = s.coh ∧ (s.setSq q r).xl = s.xl ∧ (s.setSq q r).dc = s.dc ∧ (s.setSq q r).lists = s.lists
      ∧ (s.setSq q r).nextList = s.nextList ∧ (s.setSq q r).lbytes = s.lbytes ∧ (s.setSq q r).lodes = s.lodes
      ∧ (s.setSq q r).fab = s.fab ∧ (s.setSq q r).due = s.due ∧ (s.setSq q r).heron = s.heron ∧ (s.setSq q r).rst = s.rst
      ∧ (s.setSq q r).sedge = s.sedge ∧ (s.setSq q r).tap = s.tap ∧ (s.setSq q r).pins = s.pins := by
  and_intros <;> rfl

@[simp] theorem setCq_frame (c : Nat) (r : Cq) :
    (s.setCq c r).pending = s.pending ∧ (s.setCq c r).free = s.free ∧ (s.setCq c r).out = s.out ∧ (s.setCq c r).round = s.round
      ∧ (s.setCq c r).sump = s.sump ∧ (s.setCq c r).reg = s.reg ∧ (s.setCq c r).pegs = s.pegs ∧ (s.setCq c r).waits = s.waits
      ∧ (s.setCq c r).pegOps = s.pegOps ∧ (s.setCq c r).wakes = s.wakes ∧ (s.setCq c r).cores = s.cores ∧ (s.setCq c r).ctx = s.ctx
      ∧ (s.setCq c r).hl = s.hl ∧ (s.setCq c r).parts = s.parts ∧ (s.setCq c r).trc = s.trc ∧ (s.setCq c r).hbm = s.hbm
      ∧ (s.setCq c r).hbmBad = s.hbmBad ∧ (s.setCq c r).hctl = s.hctl ∧ (s.setCq c r).slice = s.slice
      ∧ (s.setCq c r).useNo = s.useNo ∧ (s.setCq c r).tokens = s.tokens ∧ (s.setCq c r).short = s.short ∧ (s.setCq c r).thr = s.thr
      ∧ (s.setCq c r).coh = s.coh ∧ (s.setCq c r).xl = s.xl ∧ (s.setCq c r).dc = s.dc ∧ (s.setCq c r).lists = s.lists
      ∧ (s.setCq c r).nextList = s.nextList ∧ (s.setCq c r).lbytes = s.lbytes ∧ (s.setCq c r).lodes = s.lodes
      ∧ (s.setCq c r).fab = s.fab ∧ (s.setCq c r).due = s.due ∧ (s.setCq c r).heron = s.heron ∧ (s.setCq c r).rst = s.rst
      ∧ (s.setCq c r).sedge = s.sedge ∧ (s.setCq c r).tap = s.tap ∧ (s.setCq c r).pins = s.pins := by
  and_intros <;> rfl

@[simp] theorem send_frame (o : Out) :
    (s.send o).pending = s.pending ∧ (s.send o).free = s.free ∧ (s.send o).round = s.round ∧ (s.send o).sump = s.sump
      ∧ (s.send o).reg = s.reg ∧ (s.send o).pegs = s.pegs ∧ (s.send o).waits = s.waits ∧ (s.send o).pegOps = s.pegOps
      ∧ (s.send o).wakes = s.wakes ∧ (s.send o).cores = s.cores ∧ (s.send o).ctx = s.ctx ∧ (s.send o).vci = s.vci
      ∧ (s.send o).parts = s.parts ∧ (s.send o).trc = s.trc ∧ (s.send o).hbm = s.hbm ∧ (s.send o).hbmBad = s.hbmBad
      ∧ (s.send o).hctl = s.hctl ∧ (s.send o).slice = s.slice ∧ (s.send o).useNo = s.useNo ∧ (s.send o).tokens = s.tokens
      ∧ (s.send o).short = s.short ∧ (s.send o).thr = s.thr ∧ (s.send o).coh = s.coh ∧ (s.send o).xl = s.xl ∧ (s.send o).dc = s.dc
      ∧ (s.send o).lists = s.lists ∧ (s.send o).nextList = s.nextList ∧ (s.send o).lbytes = s.lbytes ∧ (s.send o).lodes = s.lodes
      ∧ (s.send o).fab = s.fab ∧ (s.send o).due = s.due ∧ (s.send o).heron = s.heron ∧ (s.send o).rst = s.rst
      ∧ (s.send o).sedge = s.sedge ∧ (s.send o).tap = s.tap ∧ (s.send o).pins = s.pins := by
  and_intros <;> rfl

@[simp] theorem send_out (o : Out) : (s.send o).out = s.out ++ [o] := rfl

@[simp] theorem bumpIf_frame (c : Bool) (a : Nat) :
    (s.bumpIf c a).pending = s.pending ∧ (s.bumpIf c a).free = s.free ∧ (s.bumpIf c a).out = s.out
      ∧ (s.bumpIf c a).round = s.round ∧ (s.bumpIf c a).sump = s.sump ∧ (s.bumpIf c a).pegs = s.pegs
      ∧ (s.bumpIf c a).waits = s.waits ∧ (s.bumpIf c a).pegOps = s.pegOps ∧ (s.bumpIf c a).wakes = s.wakes
      ∧ (s.bumpIf c a).cores = s.cores ∧ (s.bumpIf c a).ctx = s.ctx ∧ (s.bumpIf c a).vci = s.vci ∧ (s.bumpIf c a).hl = s.hl
      ∧ (s.bumpIf c a).parts = s.parts ∧ (s.bumpIf c a).trc = s.trc ∧ (s.bumpIf c a).hbm = s.hbm ∧ (s.bumpIf c a).hbmBad = s.hbmBad
      ∧ (s.bumpIf c a).hctl = s.hctl ∧ (s.bumpIf c a).slice = s.slice ∧ (s.bumpIf c a).useNo = s.useNo
      ∧ (s.bumpIf c a).tokens = s.tokens ∧ (s.bumpIf c a).short = s.short ∧ (s.bumpIf c a).thr = s.thr ∧ (s.bumpIf c a).coh = s.coh
      ∧ (s.bumpIf c a).xl = s.xl ∧ (s.bumpIf c a).dc = s.dc ∧ (s.bumpIf c a).lists = s.lists ∧ (s.bumpIf c a).nextList = s.nextList
      ∧ (s.bumpIf c a).lbytes = s.lbytes ∧ (s.bumpIf c a).lodes = s.lodes ∧ (s.bumpIf c a).fab = s.fab ∧ (s.bumpIf c a).due = s.due
      ∧ (s.bumpIf c a).heron = s.heron ∧ (s.bumpIf c a).rst = s.rst ∧ (s.bumpIf c a).sedge = s.sedge ∧ (s.bumpIf c a).tap = s.tap
      ∧ (s.bumpIf c a).pins = s.pins := by
  cases c <;> and_intros <;> rfl

@[simp] theorem tick_frame :
    (s.tick).pending = s.pending ∧ (s.tick).out = s.out ∧ (s.tick).sump = s.sump ∧ (s.tick).reg = s.reg ∧ (s.tick).pegs = s.pegs
      ∧ (s.tick).waits = s.waits ∧ (s.tick).pegOps = s.pegOps ∧ (s.tick).wakes = s.wakes ∧ (s.tick).cores = s.cores
      ∧ (s.tick).ctx = s.ctx ∧ (s.tick).vci = s.vci ∧ (s.tick).hl = s.hl ∧ (s.tick).parts = s.parts ∧ (s.tick).trc = s.trc
      ∧ (s.tick).hbm = s.hbm ∧ (s.tick).hbmBad = s.hbmBad ∧ (s.tick).hctl = s.hctl ∧ (s.tick).slice = s.slice
      ∧ (s.tick).useNo = s.useNo ∧ (s.tick).tokens = s.tokens ∧ (s.tick).short = s.short ∧ (s.tick).thr = s.thr
      ∧ (s.tick).coh = s.coh ∧ (s.tick).xl = s.xl ∧ (s.tick).dc = s.dc ∧ (s.tick).lists = s.lists ∧ (s.tick).nextList = s.nextList
      ∧ (s.tick).lbytes = s.lbytes ∧ (s.tick).lodes = s.lodes ∧ (s.tick).fab = s.fab ∧ (s.tick).due = s.due
      ∧ (s.tick).heron = s.heron ∧ (s.tick).rst = s.rst ∧ (s.tick).sedge = s.sedge ∧ (s.tick).tap = s.tap ∧ (s.tick).pins = s.pins := by
  unfold tick
  split <;> and_intros <;> rfl

@[simp] theorem report_frame (m : FaultMsg) :
    (s.report m).pending = s.pending ∧ (s.report m).free = s.free ∧ (s.report m).out = s.out ∧ (s.report m).round = s.round
      ∧ (s.report m).reg = s.reg ∧ (s.report m).pegs = s.pegs ∧ (s.report m).waits = s.waits ∧ (s.report m).pegOps = s.pegOps
      ∧ (s.report m).wakes = s.wakes ∧ (s.report m).cores = s.cores ∧ (s.report m).ctx = s.ctx ∧ (s.report m).vci = s.vci
      ∧ (s.report m).hl = s.hl ∧ (s.report m).parts = s.parts ∧ (s.report m).trc = s.trc ∧ (s.report m).hbm = s.hbm
      ∧ (s.report m).hbmBad = s.hbmBad ∧ (s.report m).hctl = s.hctl ∧ (s.report m).slice = s.slice ∧ (s.report m).useNo = s.useNo
      ∧ (s.report m).tokens = s.tokens ∧ (s.report m).short = s.short ∧ (s.report m).thr = s.thr ∧ (s.report m).coh = s.coh
      ∧ (s.report m).xl = s.xl ∧ (s.report m).dc = s.dc ∧ (s.report m).lists = s.lists ∧ (s.report m).nextList = s.nextList
      ∧ (s.report m).lbytes = s.lbytes ∧ (s.report m).lodes = s.lodes ∧ (s.report m).fab = s.fab ∧ (s.report m).due = s.due
      ∧ (s.report m).heron = s.heron ∧ (s.report m).rst = s.rst ∧ (s.report m).sedge = s.sedge ∧ (s.report m).tap = s.tap
      ∧ (s.report m).pins = s.pins := by
  unfold report
  repeat' split
  all_goals and_intros <;> rfl

@[simp] theorem raise_frame (src kind : Nat) (ctx : Option Nat) (ty addr syn : Nat) :
    (s.raise src kind ctx ty addr syn).pending = s.pending ∧ (s.raise src kind ctx ty addr syn).free = s.free
      ∧ (s.raise src kind ctx ty addr syn).out = s.out ∧ (s.raise src kind ctx ty addr syn).round = s.round
      ∧ (s.raise src kind ctx ty addr syn).reg = s.reg ∧ (s.raise src kind ctx ty addr syn).pegs = s.pegs
      ∧ (s.raise src kind ctx ty addr syn).waits = s.waits ∧ (s.raise src kind ctx ty addr syn).pegOps = s.pegOps
      ∧ (s.raise src kind ctx ty addr syn).wakes = s.wakes ∧ (s.raise src kind ctx ty addr syn).cores = s.cores
      ∧ (s.raise src kind ctx ty addr syn).ctx = s.ctx ∧ (s.raise src kind ctx ty addr syn).vci = s.vci
      ∧ (s.raise src kind ctx ty addr syn).hl = s.hl ∧ (s.raise src kind ctx ty addr syn).parts = s.parts
      ∧ (s.raise src kind ctx ty addr syn).trc = s.trc ∧ (s.raise src kind ctx ty addr syn).hbm = s.hbm
      ∧ (s.raise src kind ctx ty addr syn).hbmBad = s.hbmBad ∧ (s.raise src kind ctx ty addr syn).hctl = s.hctl
      ∧ (s.raise src kind ctx ty addr syn).slice = s.slice ∧ (s.raise src kind ctx ty addr syn).useNo = s.useNo
      ∧ (s.raise src kind ctx ty addr syn).tokens = s.tokens ∧ (s.raise src kind ctx ty addr syn).short = s.short
      ∧ (s.raise src kind ctx ty addr syn).thr = s.thr ∧ (s.raise src kind ctx ty addr syn).coh = s.coh
      ∧ (s.raise src kind ctx ty addr syn).xl = s.xl ∧ (s.raise src kind ctx ty addr syn).dc = s.dc
      ∧ (s.raise src kind ctx ty addr syn).lists = s.lists ∧ (s.raise src kind ctx ty addr syn).nextList = s.nextList
      ∧ (s.raise src kind ctx ty addr syn).lbytes = s.lbytes ∧ (s.raise src kind ctx ty addr syn).lodes = s.lodes
      ∧ (s.raise src kind ctx ty addr syn).fab = s.fab ∧ (s.raise src kind ctx ty addr syn).due = s.due
      ∧ (s.raise src kind ctx ty addr syn).heron = s.heron ∧ (s.raise src kind ctx ty addr syn).rst = s.rst
      ∧ (s.raise src kind ctx ty addr syn).sedge = s.sedge ∧ (s.raise src kind ctx ty addr syn).tap = s.tap
      ∧ (s.raise src kind ctx ty addr syn).pins = s.pins := by
  unfold raise report
  repeat' split
  all_goals and_intros <;> rfl

@[simp] theorem logDue_frame (kind sev data : Nat) :
    (s.logDue kind sev data).pending = s.pending ∧ (s.logDue kind sev data).out = s.out ∧ (s.logDue kind sev data).sump = s.sump
      ∧ (s.logDue kind sev data).reg = s.reg ∧ (s.logDue kind sev data).pegs = s.pegs ∧ (s.logDue kind sev data).waits = s.waits
      ∧ (s.logDue kind sev data).pegOps = s.pegOps ∧ (s.logDue kind sev data).wakes = s.wakes
      ∧ (s.logDue kind sev data).cores = s.cores ∧ (s.logDue kind sev data).ctx = s.ctx ∧ (s.logDue kind sev data).vci = s.vci
      ∧ (s.logDue kind sev data).hl = s.hl ∧ (s.logDue kind sev data).parts = s.parts ∧ (s.logDue kind sev data).trc = s.trc
      ∧ (s.logDue kind sev data).hbm = s.hbm ∧ (s.logDue kind sev data).hbmBad = s.hbmBad ∧ (s.logDue kind sev data).hctl = s.hctl
      ∧ (s.logDue kind sev data).slice = s.slice ∧ (s.logDue kind sev data).useNo = s.useNo
      ∧ (s.logDue kind sev data).tokens = s.tokens ∧ (s.logDue kind sev data).short = s.short ∧ (s.logDue kind sev data).thr = s.thr
      ∧ (s.logDue kind sev data).coh = s.coh ∧ (s.logDue kind sev data).xl = s.xl ∧ (s.logDue kind sev data).dc = s.dc
      ∧ (s.logDue kind sev data).lists = s.lists ∧ (s.logDue kind sev data).nextList = s.nextList
      ∧ (s.logDue kind sev data).lbytes = s.lbytes ∧ (s.logDue kind sev data).lodes = s.lodes ∧ (s.logDue kind sev data).fab = s.fab
      ∧ (s.logDue kind sev data).heron = s.heron ∧ (s.logDue kind sev data).rst = s.rst ∧ (s.logDue kind sev data).sedge = s.sedge
      ∧ (s.logDue kind sev data).tap = s.tap ∧ (s.logDue kind sev data).pins = s.pins := by
  simp [logDue]

end Sys2Proof.Machine.State
end

