-- ==== Sys2Proof/Laws/Tbl.lean ====
section
/-!
SUPPORT. Laws of sparse tables: what a read gives after each change, and that every change keeps the canonical form.
-/
namespace Sys2Proof.Machine

variable {α : Type}

/-! ### Reads after changes -/

/-- A read after a put: the value at its own key, what was there at any other. -/
@[simp] theorem tget_tput (d : Nat → α) (k : Nat) (v : α) (t : Tbl α) (j : Nat) :
    tget d (tput k v t) j = if j = k then v else tget d t j := by
  induction t with
  | nil => simp [tput, tget]
  | cons e t ih =>
    obtain ⟨i, w⟩ := e
    unfold tput
    split
    · simp [tget]
    · split
      · subst_vars
        by_cases h : j = i <;> simp [tget, h]
      · by_cases h : j = i
        · subst h
          simp_all [tget, eq_comm]
        · simp [tget, h, ih]

/-- A read after a key is taken out. -/
@[simp] theorem tget_tdel (d : Nat → α) (k : Nat) (t : Tbl α) (j : Nat) :
    tget d (tdel k t) j = if j = k then d j else tget d t j := by
  induction t with
  | nil => simp [tdel, tget]
  | cons e t ih =>
    obtain ⟨i, w⟩ := e
    unfold tdel at ih ⊢
    by_cases h : i = k <;> by_cases g : j = i <;> simp_all [tget]

/-- A read after a write. -/
@[simp] theorem tget_tset [DecidableEq α] (d : Nat → α) (t : Tbl α) (k : Nat) (v : α) (j : Nat) :
    tget d (tset d t k v) j = if j = k then v else tget d t j := by
  unfold tset
  by_cases h : v = d k <;> by_cases g : j = k <;> simp [h, g]

/-- A read after only some keys are kept. -/
@[simp] theorem tget_tkeep (d : Nat → α) (p : Nat → Bool) (t : Tbl α) (j : Nat) :
    tget d (tkeep p t) j = if p j then tget d t j else d j := by
  induction t with
  | nil => simp [tkeep, tget]
  | cons e t ih =>
    obtain ⟨i, w⟩ := e
    unfold tkeep at ih ⊢
    by_cases h : p i <;> by_cases g : j = i <;> simp_all [tget]

/-- A read after a run of writes at consecutive keys. -/
theorem tget_tsets [DecidableEq α] (d : Nat → α) (vs : List α) (t : Tbl α) (k j : Nat) :
    tget d (tsets d t k vs) j = if k ≤ j then (vs[j - k]?).getD (tget d t j) else tget d t j := by
  induction vs generalizing t k with
  | nil => simp [tsets]
  | cons v vs ih =>
    rw [tsets, ih, tget_tset]
    rcases lt_trichotomy j k with h | h | h
    · simp [show ¬ k + 1 ≤ j by omega, show ¬ k ≤ j by omega, show j ≠ k by omega]
    · subst h
      simp
    · obtain ⟨n, rfl⟩ : ∃ n, j = k + 1 + n := ⟨j - k - 1, by omega⟩
      simp [show k ≤ k + 1 + n by omega, show k + 1 + n ≠ k by omega, show k + 1 + n - k = n + 1 by omega]

/-- A read outside the keys of a run of writes. -/
theorem tget_tsets_outside [DecidableEq α] (d : Nat → α) (vs : List α) (t : Tbl α) (k j : Nat) (h : j < k ∨ k + vs.length ≤ j) :
    tget d (tsets d t k vs) j = tget d t j := by
  rw [tget_tsets]
  split
  · rw [List.getElem?_eq_none (by omega), Option.getD_none]
  · rfl

/-- A read after the same value is written at every key of a list. -/
theorem tget_tfill [DecidableEq α] (d : Nat → α) (v : α) (ks : List Nat) (t : Tbl α) (j : Nat) :
    tget d (tfill d v t ks) j = if j ∈ ks then v else tget d t j := by
  induction ks generalizing t with
  | nil => simp [tfill]
  | cons k ks ih =>
    rw [tfill, ih, tget_tset]
    by_cases h : j ∈ ks <;> by_cases g : j = k <;> simp [h, g]

@[simp] theorem tfind_tput (k : Nat) (v : α) (t : Tbl α) (j : Nat) :
    tfind (tput k v t) j = if j = k then some v else tfind t j := by
  induction t with
  | nil => simp [tput, tfind]
  | cons e t ih =>
    obtain ⟨i, w⟩ := e
    unfold tput
    split
    · simp [tfind]
    · split
      · subst_vars
        by_cases h : j = i <;> simp [tfind, h]
      · by_cases h : j = i
        · subst h
          simp_all [tfind, eq_comm]
        · simp [tfind, h, ih]

@[simp] theorem tfind_tdel (k : Nat) (t : Tbl α) (j : Nat) : tfind (tdel k t) j = if j = k then none else tfind t j := by
  induction t with
  | nil => simp [tdel, tfind]
  | cons e t ih =>
    obtain ⟨i, w⟩ := e
    unfold tdel at ih ⊢
    by_cases h : i = k <;> by_cases g : j = i <;> simp_all [tfind]

/-! ### The canonical form -/

/-- Keys rise strictly exactly if each is below all that follow it. -/
theorem tsorted_iff (t : Tbl α) : tsorted t = true ↔ t.Pairwise (fun a b => a.1 < b.1) := by
  induction t with
  | nil => simp [tsorted]
  | cons e t ih =>
    cases t with
    | nil => simp [tsorted]
    | cons f t =>
      obtain ⟨i, v⟩ := e
      obtain ⟨k, w⟩ := f
      rw [tsorted, Bool.and_eq_true, decide_eq_true_iff, ih, List.pairwise_cons (a := (i, v))]
      constructor
      · rintro ⟨h, p⟩
        exact ⟨fun x hx => (List.mem_cons.mp hx).elim (fun e => e ▸ h) (fun m => lt_trans h (List.rel_of_pairwise_cons p m)), p⟩
      · rintro ⟨h, p⟩
        exact ⟨h (k, w) (by simp), p⟩

theorem twf_iff [DecidableEq α] (d : Nat → α) (t : Tbl α) :
    twf d t = true ↔ t.Pairwise (fun a b => a.1 < b.1) ∧ ∀ e ∈ t, e.2 ≠ d e.1 := by
  simp [twf, tsorted_iff]

/-- Keys after a put: its own and those that were there. -/
theorem mem_tput (k : Nat) (v : α) (t : Tbl α) (e : Nat × α) (h : e ∈ tput k v t) : e = (k, v) ∨ e ∈ t := by
  induction t with
  | nil => simpa [tput] using h
  | cons f t ih =>
    obtain ⟨i, w⟩ := f
    unfold tput at h
    split at h
    · simpa using h
    · split at h
      · rcases List.mem_cons.mp h with h | h <;> simp [h]
      · rcases List.mem_cons.mp h with h | h
        · simp [h]
        · rcases ih h with h | h <;> simp [h]

theorem pairwise_tput (k : Nat) (v : α) (t : Tbl α) (h : t.Pairwise (fun a b => a.1 < b.1)) :
    (tput k v t).Pairwise (fun a b => a.1 < b.1) := by
  induction t with
  | nil => simp [tput]
  | cons f t ih =>
    obtain ⟨i, w⟩ := f
    obtain ⟨hi, ht⟩ := List.pairwise_cons.mp h
    unfold tput
    split
    · rename_i lt
      refine List.pairwise_cons.mpr ⟨fun x hx => ?_, h⟩
      rcases List.mem_cons.mp hx with rfl | hx
      · exact lt
      · exact lt_trans lt (hi x hx)
    · split
      · subst_vars
        exact List.pairwise_cons.mpr ⟨hi, ht⟩
      · refine List.pairwise_cons.mpr ⟨fun x hx => ?_, ih ht⟩
        rcases mem_tput k v t x hx with rfl | hx
        · show i < k
          omega
        · exact hi x hx

/-- A put of a value that is not the default keeps the canonical form. -/
theorem twf_tput [DecidableEq α] (d : Nat → α) (k : Nat) (v : α) (t : Tbl α) (hv : v ≠ d k) (h : twf d t = true) :
    twf d (tput k v t) = true := by
  rw [twf_iff] at h ⊢
  refine ⟨pairwise_tput k v t h.1, fun e he => ?_⟩
  rcases mem_tput k v t e he with rfl | he
  · exact hv
  · exact h.2 e he

theorem twf_tkeep [DecidableEq α] (d : Nat → α) (p : Nat → Bool) (t : Tbl α) (h : twf d t = true) : twf d (tkeep p t) = true := by
  rw [twf_iff] at h ⊢
  exact ⟨h.1.filter _, fun e he => h.2 e (List.mem_of_mem_filter he)⟩

theorem twf_tdel [DecidableEq α] (d : Nat → α) (k : Nat) (t : Tbl α) (h : twf d t = true) : twf d (tdel k t) = true := by
  rw [twf_iff] at h ⊢
  exact ⟨h.1.filter _, fun e he => h.2 e (List.mem_of_mem_filter he)⟩

/-- A write keeps the canonical form, whatever it writes. -/
theorem twf_tset [DecidableEq α] (d : Nat → α) (t : Tbl α) (k : Nat) (v : α) (h : twf d t = true) : twf d (tset d t k v) = true := by
  unfold tset
  split
  · exact twf_tdel d k t h
  · exact twf_tput d k v t ‹_› h

theorem twf_tsets [DecidableEq α] (d : Nat → α) (vs : List α) (t : Tbl α) (k : Nat) (h : twf d t = true) :
    twf d (tsets d t k vs) = true := by
  induction vs generalizing t k with
  | nil => exact h
  | cons v vs ih => exact ih _ _ (twf_tset d t k v h)

theorem twf_tfill [DecidableEq α] (d : Nat → α) (v : α) (ks : List Nat) (t : Tbl α) (h : twf d t = true) :
    twf d (tfill d v t ks) = true := by
  induction ks generalizing t with
  | nil => exact h
  | cons k ks ih => exact ih _ (twf_tset d t k v h)

/-- The keys of a canonical table that read the same are the same table: equal contents are equal data. -/
theorem twf_ext [DecidableEq α] (d : Nat → α) (t u : Tbl α) (ht : twf d t = true) (hu : twf d u = true)
    (h : ∀ k, tget d t k = tget d u k) : t = u := by
  have low : ∀ (k : Nat) (r : Tbl α), (∀ e ∈ r, k < e.1) → tget d r k = d k := by
    intro k r hr
    induction r with
    | nil => rfl
    | cons e r ih =>
      obtain ⟨i, w⟩ := e
      have hi : k < i := hr (i, w) (by simp)
      simp only [tget, if_neg (show k ≠ i by omega)]
      exact ih fun e he => hr e (by simp [he])
  rw [twf_iff] at ht hu
  induction t generalizing u with
  | nil =>
    cases u with
    | nil => rfl
    | cons f u =>
      obtain ⟨j, v⟩ := f
      have := h j
      simp only [tget] at this
      exact absurd this.symm (by simpa using hu.2 (j, v) (by simp))
  | cons e t ih =>
    obtain ⟨i, w⟩ := e
    obtain ⟨hi, hp⟩ := List.pairwise_cons.mp ht.1
    cases u with
    | nil =>
      have := h i
      simp only [tget] at this
      exact absurd this (by simpa using ht.2 (i, w) (by simp))
    | cons f u =>
      obtain ⟨j, v⟩ := f
      obtain ⟨hj, hq⟩ := List.pairwise_cons.mp hu.1
      have hij : i = j := by
        by_contra hne
        rcases Nat.lt_or_gt_of_ne hne with lt | gt
        · have a := h i
          rw [low i ((j, v) :: u) (fun e he => (List.mem_cons.mp he).elim (fun q => q ▸ lt) fun m => lt_trans lt (hj e m))] at a
          simp only [tget] at a
          exact ht.2 (i, w) (by simp) (by simpa using a)
        · have a := h j
          rw [low j ((i, w) :: t) (fun e he => (List.mem_cons.mp he).elim (fun q => q ▸ gt) fun m => lt_trans gt (hi e m))] at a
          simp only [tget] at a
          exact hu.2 (j, v) (by simp) (by simpa using a.symm)
      subst hij
      have hv : w = v := by simpa [tget] using h i
      subst hv
      have rest : t = u := by
        refine ih u ⟨hp, fun e he => ht.2 e (by simp [he])⟩ ⟨hq, fun e he => hu.2 e (by simp [he])⟩ fun k => ?_
        by_cases hk : k = i
        · subst hk
          rw [low k t hi, low k u hj]
        · simpa [tget, hk] using h k
      rw [rest]

end Sys2Proof.Machine
end

