-- ==== Sys2Proof/Laws/Ops.lean ====
section
/-!
SUPPORT. One law for each shared operation: what a register, a counter, a table entry or HBM holds after it.
-/
namespace Sys2Proof.Machine

/-! ### Outcomes -/

theorem done_eq (s : State) : done s = .next s := rfl

/-- A command whose event can happen has its effect. -/
theorem when_of (c : Bool) (f : State → State) (s : State) (h : c = true) : when c f s = .next (f s) := by
  simp [when, h]

/-- One whose event cannot happen changes nothing. -/
theorem when_not (c : Bool) (f : State → State) (s : State) (h : c = false) : when c f s = .next s := by
  simp [when, h]

namespace State

/-! ### Registers and counters -/

@[simp] theorem cfg_setCfg (s : State) (a : Nat) (w : Word) (b : Nat) : (s.setCfg a w).cfg b = if b = a then w else s.cfg b := by
  simp [setCfg, cfg]

@[simp] theorem cfg_setFld (s : State) (a hi lo v b : Nat) :
    (s.setFld a hi lo v).cfg b = if b = a then putBits (s.cfg a) hi lo v else s.cfg b := by
  simp [setFld]

@[simp] theorem cfg_setBit (s : State) (a i : Nat) (v : Bool) (b : Nat) :
    (s.setBit a i v).cfg b = if b = a then putBits (s.cfg a) i i (b2n v) else s.cfg b := by
  simp [setBit]

@[simp] theorem ctr_setCfg (s : State) (a : Nat) (w : Word) (b : Nat) : (s.setCfg a w).ctr b = s.ctr b := rfl

@[simp] theorem cfg_bumpBy (s : State) (a n b : Nat) : (s.bumpBy a n).cfg b = s.cfg b := rfl

@[simp] theorem cfg_bump (s : State) (a b : Nat) : (s.bump a).cfg b = s.cfg b := rfl

/-- A counter rises by its events and saturates; the others stay. -/
@[simp] theorem ctr_bumpBy (s : State) (a n b : Nat) : (s.bumpBy a n).ctr b = if b = a then min (s.ctr a + n) 0xFFFFFFFF else s.ctr b := by
  simp only [bumpBy, ctr, tget_tset]
  split
  · rw [BitVec.toNat_ofNat, Nat.mod_eq_of_lt (by omega)]
  · rfl

@[simp] theorem ctr_bump (s : State) (a b : Nat) : (s.bump a).ctr b = if b = a then min (s.ctr a + 1) 0xFFFFFFFF else s.ctr b :=
  ctr_bumpBy s a 1 b

/-! ### Faults -/

/-- A source that is not muted sends one message, after those on their way. -/
theorem raise_flight (s : State) (src kind : Nat) (ctx : Option Nat) (ty addr syn : Nat) (h : s.mutedSrc src = false) :
    (s.raise src kind ctx ty addr syn).sump.flight
      = s.sump.flight ++ [⟨src, kind, kindClass kind, kindClass kind, false, ctx, ty, false, addr, syn⟩] := by
  simp only [raise, report, h, Bool.false_eq_true, if_false]
  split <;> rfl

/-- No device source is ever muted. -/
theorem mutedSrc_device (s : State) (u : Nat) : s.mutedSrc (srcDevice u) = false := by
  have : ¬ (srcDevice u) / 2 ^ 14 < 2 := by
    simp only [srcDevice]
    omega
  rw [mutedSrc, decide_eq_false this, Bool.false_and]

/-- Only the report itself sets or leaves the fatal state: raising a fault does neither. -/
@[simp] theorem raise_fatal (s : State) (src kind : Nat) (ctx : Option Nat) (ty addr syn : Nat) :
    (s.raise src kind ctx ty addr syn).sump.fatal = s.sump.fatal := by
  unfold raise report
  split
  · rfl
  · split <;> rfl

/-! ### Table entries -/

@[simp] theorem core_setCore (s : State) (c : Nat) (k : Core) (d : Nat) : (s.setCore c k).core d = if d = c then k else s.core d := by
  simp [setCore, core]

@[simp] theorem context_setCtx (s : State) (c : Nat) (x : Ctx) (d : Nat) :
    (s.setCtx c x).context d = if d = c then x else s.context d := by
  simp [setCtx, context]

@[simp] theorem peg_setPeg (s : State) (p : Nat) (v : Peg) (q : Nat) : (s.setPeg p v).peg q = if q = p then v else s.peg q := by
  simp [setPeg, peg]

@[simp] theorem list_setList (s : State) (k : Nat) (l : CList) (j : Nat) :
    (s.setList k l).list j = if j = k then some l else s.list j := by
  simp [setList, list]

@[simp] theorem lode_setLode (s : State) (l : Nat) (k : LodeSt) (m : Nat) : (s.setLode l k).lode m = if m = l then k else s.lode m := by
  simp [setLode, lode]

@[simp] theorem conn_setConn (s : State) (c : Nat) (k : Conn) (d : Nat) : (s.setConn c k).conn d = if d = c then k else s.conn d := by
  simp [setConn, setFab, conn]

@[simp] theorem ctl_setHctl (s : State) (k : Nat) (h : Hbm) (j : Nat) : (s.setHctl k h).ctl j = if j = k then h else s.ctl j := by
  simp [setHctl, ctl]

@[simp] theorem part_setPart (s : State) (p : Nat) (v : Part) (q : Nat) : (s.setPart p v).part q = if q = p then v else s.part q := by
  simp [setPart, part]

@[simp] theorem tdiOf_setTdi (s : State) (p : Nat) (t : Tdi) (q : Nat) : (s.setTdi p t).tdiOf q = if q = p then t else s.tdiOf q := by
  simp [setTdi, setSedge, tdiOf]

@[simp] theorem halfBad_spoilHalf (s : State) (h : Nat) (b : Bool) (j : Nat) :
    (s.spoilHalf h b).halfBad j = if j = h then b else s.halfBad j := by
  simp [spoilHalf, halfBad]

/-! ### HBM -/

theorem memoryWf_iff (s : State) : s.memoryWf = true ↔ twf (fun _ => 0#8) s.hbm = true ∧ twf (fun _ => false) s.hbmBad = true := by
  simp [memoryWf]

/-- Poisoning or clearing a half keeps the canonical form. -/
theorem memoryWf_spoilHalf (s : State) (h : Nat) (b : Bool) (wf : s.memoryWf = true) : (s.spoilHalf h b).memoryWf = true := by
  rw [memoryWf_iff] at wf ⊢
  exact ⟨wf.1, twf_tset _ _ _ _ wf.2⟩

/-- A write into a line keeps the canonical form. -/
theorem memoryWf_hbmWrite (s : State) (line off : Nat) (bs : List Byte) (bad : Nat) (wf : s.memoryWf = true) :
    (s.hbmWrite line off bs bad).memoryWf = true := by
  unfold hbmWrite
  dsimp only
  split
  · exact wf
  · refine memoryWf_spoilHalf _ _ _ (memoryWf_spoilHalf _ _ _ ?_)
    rw [memoryWf_iff] at wf ⊢
    exact ⟨twf_tsets _ _ _ _ wf.1, wf.2⟩

/-- A write into a line leaves every byte outside those it names. -/
theorem hbmByte_hbmWrite_outside (s : State) (line off : Nat) (bs : List Byte) (bad a : Nat)
    (h : a < 128 * line + off ∨ 128 * line + off + bs.length ≤ a) : (s.hbmWrite line off bs bad).hbmByte a = s.hbmByte a := by
  unfold hbmWrite
  dsimp only
  split
  · rfl
  · exact tget_tsets_outside _ _ _ _ _ h

/-- A write into a line that is not poisoned, or of a whole line, stores the bytes it names. -/
theorem hbmByte_hbmWrite_inside (s : State) (line off : Nat) (bs : List Byte) (bad i : Nat)
    (h : s.lineBad line = false ∨ bs.length = 128) (hi : i < bs.length) :
    (s.hbmWrite line off bs bad).hbmByte (128 * line + off + i) = bs[i] := by
  have hc : (s.lineBad line && !decide (bs.length = 128)) = false := by
    rcases h with h | h <;> simp [h]
  unfold hbmWrite
  simp only [hc, Bool.false_eq_true, if_false]
  simp [hbmByte, spoilHalf, tget_tsets, List.getElem?_eq_getElem hi]

end State

end Sys2Proof.Machine
end

