-- ==== Sys2Proof/WellFormed.lean ====
section
/-!
DEFINITION. Well-formed commands: operands whose length or range the types of Syntax leave open.
-/
namespace Sys2Proof

/-- Exactly `n` entries. -/
def exactly {α : Type} (n : Nat) (l : List α) : Bool := decide (l.length = n)

/-- Bytes from an offset that stay within `n`, at least one of them. -/
def within (n : Nat) {m : Nat} (off : Fin m) (l : List Byte) : Bool := !l.isEmpty && decide (off.val + l.length ≤ n)

/-- A slot of a submission ring, of at most 65,536, or the mailbox (R472, R476). -/
def CmdSrc.wf (c : CmdSrc) : Bool := decide (c.slot < 65536) && decide (c.sq < 256 ∨ c.sq = 0xFFFF)

/-- A word of core store (R140). -/
def EccErr.wf (e : EccErr) : Bool := decide (e.word < 1048576)

/-- A 64-byte line within 52 bits of HPA. -/
def HostFill.wf (f : HostFill) : Bool := decide (f.line < 70368744177664) && f.data.all (exactly 64)

/-- A slot of 256 bytes (R476). -/
def SlotRead.wf : SlotRead → Bool
  | .data b => exactly 256 b
  | .ended => true

/-- The 256 option bytes (R540). -/
def Component.wf : Component → Bool
  | .set _ _ _ _ _ _ => true
  | .revoke _ _ _ => true
  | .options b => exactly 256 b

/-- A write within one line (R228). -/
def HbmReq.wf : HbmReq → Bool
  | .read => true
  | .write off b => within 128 off b
  | .spoil _ => true

/-- Well-formed commands. -/
def Instr.wf : Instr → Bool
  | .roundMark _ _ _ => true
  | .roundBoundary => true
  | .missingMark => true
  | .holdoverLimit => true
  | .standbyTakeover => true
  | .delayExchange t1 => decide ((t1.map (·.1)).Nodup)
  | .delayReq _ _ _ => true
  | .delayRsp _ _ => true
  | .delayRspTimeout _ => true
  | .referenceWindow _ => true
  | .ppsEdge => true
  | .roundCtl _ _ => true
  | .arithFlagsWrite _ _ _ _ => true
  | .nop _ => true
  | .halt _ => true
  | .tfence _ => true
  | .loop _ => true
  | .endloop _ => true
  | .call _ => true
  | .ret _ => true
  | .mm _ errs => errs.all EccErr.wf
  | .vec _ errs => errs.all EccErr.wf
  | .tu _ errs => errs.all EccErr.wf
  | .stageIn _ errs => errs.all EccErr.wf
  | .stageOut _ errs => errs.all EccErr.wf
  | .gather _ errs => errs.all EccErr.wf
  | .scatter _ errs => errs.all EccErr.wf
  | .copyLocal _ errs => errs.all EccErr.wf
  | .indexLaneFault _ _ fills => fills.all HostFill.wf
  | .enq _ => true
  | .pwait _ => true
  | .psig _ => true
  | .parm _ => true
  | .preset _ => true
  | .rwait _ => true
  | .deadline _ => true
  | .phase _ => true
  | .tmark _ => true
  | .engineTrickStart _ _ errs => errs.all EccErr.wf
  | .trickComplete _ _ _ _ fills => fills.all HostFill.wf
  | .rowCapture _ errs => errs.all EccErr.wf
  | .halted _ => true
  | .preemptionBoundary _ _ _ fills => fills.all HostFill.wf
  | .clockStopEntry _ => true
  | .clockStopExit _ => true
  | .coreInitDone _ => true
  | .correctingWriteBack _ => true
  | .rowRemap _ => true
  | .coreStoreScrub _ errs => errs.all EccErr.wf
  | .pegOperations _ _ _ => true
  | .pegReadyWake _ => true
  | .hbmRequest _ req _ _ => req.wf
  | .hbmRefresh _ => true
  | .laneRepair _ _ _ _ => true
  | .laneRepairDone _ => true
  | .patrolScrub _ _ => true
  | .sppr _ => true
  | .spprDone _ _ => true
  | .stackTemperatureRead _ _ => true
  | .regulatorPeriod => true
  | .pageWalk _ _ _ _ _ _ => true
  | .translationFault _ => true
  | .invalidationMark => true
  | .invalidationDrain _ => true
  | .dcRead _ _ _ _ _ => true
  | .dcWrite _ off bytes _ _ _ _ => within 64 off bytes
  | .zeroLine _ _ => true
  | .fillChunk _ _ data => exactly 32 data
  | .globalObservation _ => true
  | .cleanEvictDone _ => true
  | .hostSnpinv _ => true
  | .hostSnpdata _ => true
  | .hostSnpcur _ => true
  | .dcInitSweep => true
  | .rds _ _ _ _ _ => true
  | .rdo _ _ _ _ off bytes _ => within 128 off bytes
  | .ownnd _ _ _ _ bytes => exactly 128 bytes
  | .upg _ _ _ off bytes => within 128 off bytes
  | .dirtyn _ _ _ off bytes => within 128 off bytes
  | .evc _ _ _ => true
  | .wbm _ _ _ => true
  | .ncrd _ _ _ _ _ _ => true
  | .ncwr _ _ _ _ _ off bytes => within 128 off bytes
  | .ncat _ _ _ _ _ op wide _ _ value _ => exactly (if op = .radd64 then 128 else if wide then 8 else 4) value
  | .snpinv _ _ => true
  | .snpshr _ _ => true
  | .snpcur _ _ => true
  | .grant _ _ => true
  | .coherenceAck _ _ _ => true
  | .holdExpiry _ _ => true
  | .snoopTimeout _ _ => true
  | .reclaimWalkEnd _ => true
  | .listAccept _ errs => errs.all EccErr.wf
  | .listStart _ => true
  | .nopDescriptor _ _ => true
  | .fenceDescriptor _ _ => true
  | .copy _ _ _ fills => fills.all HostFill.wf
  | .zero _ _ _ => true
  | .inline _ _ => true
  | .atomic _ _ fills => fills.all HostFill.wf
  | .convert _ _ _ fills => fills.all HostFill.wf
  | .siltLEnc _ _ _ fills => fills.all HostFill.wf
  | .siltLDec _ _ _ fills => fills.all HostFill.wf
  | .siltZEnc _ _ _ fills => fills.all HostFill.wf
  | .siltZDec _ _ _ fills => fills.all HostFill.wf
  | .siltQEnc _ _ _ fills => fills.all HostFill.wf
  | .siltQDec _ _ _ fills => fills.all HostFill.wf
  | .descriptorComplete _ _ _ => true
  | .probeBurst _ => true
  | .lightDetect _ => true
  | .trainTimeout _ => true
  | .trainInfo _ => true
  | .auth _ _ => true
  | .keysInstalled _ => true
  | .authTimeout _ => true
  | .dataBlock _ _ _ _ _ slots => exactly 624 slots
  | .controlBlock _ _ _ _ _ _ msgs => decide (msgs.length ≤ 30)
  | .trainingBlock _ _ _ msgs => decide (msgs.length ≤ 30)
  | .blockBoundary _ _ => true
  | .widthReq _ => true
  | .keySwitch _ => true
  | .quarantineNotice _ => true
  | .markerSet _ _ _ _ => true
  | .nakTimeout _ => true
  | .replayTimeout _ => true
  | .laneLockLoss _ _ => true
  | .laneDegraded _ _ => true
  | .laserMonitorLow _ _ => true
  | .laneRetry _ => true
  | .widthReqTimeout _ => true
  | .headerLoss _ => true
  | .quarantineWindow _ => true
  | .quarantineHoldEnd _ => true
  | .lodePowerDown _ => true
  | .write _ => true
  | .readReq _ => true
  | .readRsp _ => true
  | .reduce _ => true
  | .reduceQ _ => true
  | .pegSig _ => true
  | .ack _ => true
  | .e2eTimeout _ => true
  | .noLodeTimeout _ => true
  | .txratePeriod _ _ => true
  | .fsend _ _ _ => true
  | .fget _ _ _ => true
  | .freduce _ _ _ => true
  | .freduceQ _ _ _ => true
  | .fsig _ _ _ => true
  | .ffinish _ _ _ => true
  | .placementWrite _ _ bytes => !bytes.isEmpty
  | .memrd _ _ => true
  | .memrddata _ _ => true
  | .memrdfwd _ _ => true
  | .memwr _ bytes => exactly 64 bytes
  | .memwrptl _ _ bytes => exactly 64 bytes
  | .memwrfwd _ bytes => exactly 64 bytes
  | .meminv _ _ => true
  | .meminvnt _ _ => true
  | .memspecrd _ => true
  | .unsupportedRequest => true
  | .configRequest _ _ _ => true
  | .decoderCommit _ _ _ _ _ _ => true
  | .d3hotWrite => true
  | .hostCompletion _ slot => slot.wf
  | .completionTimeout _ => true
  | .l1Entry => true
  | .vectorUnmask _ => true
  | .linkEvent _ => true
  | .hostLoss => true
  | .viralReceived => true
  | .linkReturn _ => true
  | .holdTimeout => true
  | .sqDb _ _ _ => true
  | .cqDb _ _ _ => true
  | .mboxGo => true
  | .commandFetch slot => slot.all SlotRead.wf
  | .nopCommand src => src.wf
  | .capQuery src => src.wf
  | .attach src => src.wf
  | .detach src => src.wf
  | .ringCreate src => src.wf
  | .ringDestroy src => src.wf
  | .lwlAck src => src.wf
  | .devIdSet src => src.wf
  | .dcClean src => src.wf
  | .dcInvalidate src => src.wf
  | .dcCleanInvalidate src => src.wf
  | .enterMaint src => src.wf
  | .leaveMaint src => src.wf
  | .biasSet src => src.wf
  | .lodeDisable src => src.wf
  | .lodeEnable src => src.wf
  | .lodeRelease src => src.wf
  | .lodeSet src => src.wf
  | .fwActivate src => src.wf
  | .partCreate src => src.wf
  | .partModify src => src.wf
  | .partDestroy src => src.wf
  | .ctxCreate src => src.wf
  | .ctxDestroy src => src.wf
  | .segMap src => src.wf
  | .segUnmap src => src.wf
  | .invalidate src => src.wf
  | .prefetchXlat src => src.wf
  | .advise src => src.wf
  | .handLoad src fills => src.wf && fills.all HostFill.wf
  | .launch src => src.wf
  | .cancel src => src.wf
  | .preempt src => src.wf
  | .preemptSaveDone _ => true
  | .resume src => src.wf
  | .resumeRestoreDone _ _ => true
  | .queryContext src => src.wf
  | .queryList src => src.wf
  | .listSubmit src fills => src.wf && fills.all HostFill.wf
  | .copyInline src => src.wf
  | .listCancel src => src.wf
  | .fence src => src.wf
  | .flistSubmit src fills => src.wf && fills.all HostFill.wf
  | .pegSignal src => src.wf
  | .pegArm src => src.wf
  | .pegReset src => src.wf
  | .pegQuery src => src.wf
  | .connOpen src => src.wf
  | .connClose src => src.wf
  | .handleReg src => src.wf
  | .handleRevoke src => src.wf
  | .placeReg src => src.wf
  | .placeUnreg src => src.wf
  | .drainEnd src => src.wf
  | .railWindow amps volts => (exactly 9 amps && exactly 9 volts)
  | .pwrLimit _ => true
  | .diodeRead temps => exactly 64 temps
  | .thermalControl => true
  | .tripSample _ => true
  | .pllLock _ => true
  | .railRampDone _ => true
  | .logWrite => true
  | .sensorUpdate _ => true
  | .designPowerEffecter _ => true
  | .logRead _ _ => true
  | .entdaa _ => true
  | .setdasa _ _ => true
  | .requestUpdate _ => true
  | .verifyComplete img => img.wf
  | .applyComplete => true
  | .activateFirmware => true
  | .firmwareSelfCheck _ => true
  | .heronRestartDone => true
  | .heronLockstep => true
  | .bitternCore _ => true
  | .bitternWatchdog _ => true
  | .heronWatchdog => true
  | .regionCollectorMessage _ => true
  | .faultMessage _ _ => true
  | .fatalLine => true
  | .ceHoldExpiry _ => true
  | .sumpAck _ => true
  | .sumpAckTimeout _ => true
  | .forceGo _ => true
  | .drillEnable => true
  | .coreIsolation _ => true
  | .coreFence _ => true
  | .powerOn => true
  | .brownOut => true
  | .pinReset => true
  | .softwareReset _ => true
  | .clockFailure _ => true
  | .lockUp => true
  | .nvPulseEnd => true
  | .startUp _ _ _ _ _ => true
  | .guardLatchWrite _ _ _ => true
  | .guardWindowExpiry _ _ => true
  | .registerWrite _ _ _ _ => true
  | .snap _ _ => true
  | .captureRead _ _ _ _ => true
  | .paritySweep _ => true
  | .parityRestore _ => true
  | .getVersion _ => true
  | .getCapabilities _ => true
  | .negotiateAlgorithms _ _ _ => true
  | .getDigests _ => true
  | .getCertificate _ _ => true
  | .challenge _ _ => true
  | .getMeasurements _ _ => true
  | .kemInit _ => true
  | .kemFin _ _ _ _ => true
  | .pskExchange _ _ => true
  | .pskFinish _ _ => true
  | .endSession _ _ => true
  | .setCertificate _ _ _ _ _ _ => true
  | .getCsr _ _ _ _ _ => true
  | .setOwner => true
  | .zeroiseSession _ _ => true
  | .decommission _ _ => true
  | .debugArm _ _ => true
  | .debugArmExpiry => true
  | .faultDrillEntry _ _ => true
  | .faultDrillExit _ _ => true
  | .selfTestOnDemand _ _ _ _ => true
  | .selftestDone _ _ => true
  | .healthTestFailure _ => true
  | .drbgReseed => true
  | .keyRenewal _ => true
  | .ideQuery _ => true
  | .keyProg _ _ => true
  | .kSetGo _ _ => true
  | .kSetStop _ _ => true
  | .keyRefresh _ _ => true
  | .ideIntegrityFailure _ => true
  | .lockInterface _ _ _ => true
  | .getDeviceInterfaceReport _ _ => true
  | .startInterface _ _ => true
  | .stopInterface _ _ => true
  | .trcRdWrite _ _ _ => true
  | .extest _ => true
  | .idcode => true
  | .samplePreload _ => true
  | .dbgStatus => true
  | .dbgUnlock _ => true
  | .dbgReq _ => true
  | .dbgMem _ _ _ => true
  | .bypass => true
  | .tapReset => true
  | .receiveLaneLock _ _ => true
  | .lanePass _ _ => true
  | .lodeDomainOn _ => true
  | .connDropWindow _ => true
  | .quarantineAgeOut _ => true
  | .bitternCoreRejoin _ => true

end Sys2Proof
end

