-- ==== Sys2Proof/Tests/Slice0.lean ====
section
/-!
SUPPORT. Tests: ill-formed terms that the checks of WellFormed refuse, values of the spec's worked examples, and, for every
statement with hypotheses, a state and operands that meet them.
-/
set_option maxRecDepth 100000
open Sys2Proof Sys2Proof.Machine Sys2Proof.Claims

namespace Sys2Proof.Tests

/-! ### Well-formed commands: one ill-formed term for each check -/

def badSrc : CmdSrc := ⟨256, 0⟩
def longSrc : CmdSrc := ⟨0, 65536⟩
def badFill : HostFill := { line := 0, data := some [] }

theorem test_wf_sources :
    ([.nopCommand, .capQuery, .attach, .detach, .ringCreate, .ringDestroy, .lwlAck, .devIdSet, .dcClean, .dcInvalidate, .dcCleanInvalidate,
      .enterMaint, .leaveMaint, .biasSet, .lodeDisable, .lodeEnable, .lodeRelease, .lodeSet, .fwActivate, .partCreate, .partModify, .partDestroy,
      .ctxCreate, .ctxDestroy, .segMap, .segUnmap, .invalidate, .prefetchXlat, .advise, .launch, .cancel, .preempt, .resume, .queryContext,
      .queryList, .copyInline, .listCancel, .fence, .pegSignal, .pegArm, .pegReset, .pegQuery, .connOpen, .connClose, .handleReg,
      .handleRevoke, .placeReg, .placeUnreg, .drainEnd] : List (CmdSrc → Instr)).all
      (fun f => !(f badSrc).wf && !(f longSrc).wf && (f ⟨0xFFFF, 0⟩).wf) = true := by decide

theorem test_wf_fills :
    ([.indexLaneFault 0 [], .trickComplete 0 0 .clean [], .preemptionBoundary 0 0 [], .copy 0 0 1, .atomic 0 0, .convert 0 0 1, .siltLEnc 0 0 1,
      .siltLDec 0 0 1, .siltZEnc 0 0 1, .siltZDec 0 0 1, .siltQEnc 0 0 1, .siltQDec 0 0 1, .handLoad ⟨0, 0⟩, .listSubmit ⟨0, 0⟩,
      .flistSubmit ⟨0, 0⟩] : List (List HostFill → Instr)).all
      (fun f => !(f [badFill]).wf && !(f [⟨2 ^ 46, none⟩]).wf && (f []).wf) = true := by decide

theorem test_wf_core_errors :
    ([.mm 0, .vec 0, .tu 0, .stageIn 0, .stageOut 0, .gather 0, .scatter 0, .copyLocal 0, .engineTrickStart 0 0, .rowCapture 0,
      .coreStoreScrub 0, .listAccept 0] : List (List EccErr → Instr)).all (fun f => !(f [⟨1048576, true, 0#8⟩]).wf && (f []).wf) = true := by
  decide

theorem test_wf_within :
    ([.hbmRequest 0 (.write 127 [0#8, 0#8]) .clean none, .dcWrite 0 63 [0#8, 0#8] .bittern none 0 .clean, .rdo 0 0#8 0 0 127 [0#8, 0#8] .clean,
      .upg 0 0#8 0 127 [0#8, 0#8], .dirtyn 0 0#8 0 0 [], .ncwr .bittern none 0 0 0 127 [0#8, 0#8], .placementWrite 0#16 0#52 []]
      : List Instr).all (fun i => !i.wf) = true := by decide

theorem test_wf_lengths :
    ([.delayExchange [(0, 0#56), (0, 1#56)], .fillChunk 0 false [], .ownnd 0 0#8 0 0 [],
      .ncat .bittern none 0 0 0 .add true 0 0#64 [0#8] none, .memwr 0 [], .memwrptl 0 0#64 [], .memwrfwd 0 [], .hostCompletion 0 (.data []),
      .commandFetch (some (.data [])), .handLoad ⟨256, 0⟩ [], .listSubmit ⟨256, 0⟩ [], .flistSubmit ⟨256, 0⟩ [], .railWindow [] [],
      .diodeRead [], .verifyComplete (.options [])] : List Instr).all (fun i => !i.wf) = true := by decide

theorem test_wf_blocks :
    (!(Instr.dataBlock 0 0#40 [] true false []).wf && !(Instr.controlBlock 0 0#40 [] true false 0#64 (List.replicate 31 (0#32, 0#128))).wf
      && !(Instr.trainingBlock 0 0#40 [] (List.replicate 31 (0#32, 0#128))).wf) = true := by decide

/-! ### Values of the spec's worked examples -/

/-- 0x3E99_999A in five formats (the first example of Number Formats). -/
theorem test_convert_three_tenths :
    ([Elem.bf16, .b16, .e4m3, .e5m2, .i8].map fun f => (encodeVal f ⟨false, false⟩ 0 0 1 (Elem.b32.decode 0x3E99999A)).code)
      = [0x3E9A, 0x34CD, 0x2A, 0x35, 0x00] := by decide

/-- The same value under stochastic rounding with seed 1: r = 0xB6DB_68A3 rounds down. -/
theorem test_stochastic_three_tenths :
    lfsrDraw (lfsrSeed 1) = 0xB6DB68A3
      ∧ (encodeVal .e4m3 ⟨false, true⟩ (lfsrDraw (lfsrSeed 1)) 0 1 (Elem.b32.decode 0x3E99999A)).code = 0x29 := by decide

/-- The F4B32 block of 10.0, 1.0 and −2.2: scale 0x03, bytes 0x17 and 0x0B. -/
theorem test_f4b32_block :
    let o := encodeRow .f4b ⟨false, false⟩ 0 1
      ((Elem.b32.decode 0x41200000) :: (Elem.b32.decode 0x3F800000) :: (Elem.b32.decode 0xC00CCCCD) :: List.replicate 29 Val.zero)
    o.scales = [0x03] ∧ (packElems .f4 (o.elems.map (·.code))).take 3 = [0x17#8, 0x0B#8, 0x00#8] := by decide

/-- Four contributions of 0x3DCC_CCCD at E −20 and H 2 sum to 419,428 (Arithmetic). -/
theorem test_fixed_point_sum :
    let q := (fixEnter (-20) 2 (Elem.b32.decode 0x3DCCCCCD)).1
    q = 104857 ∧ (fixAdd (fixAdd q q).1 (fixAdd q q).1).1 = 419428 := by decide

/-- Sixteen binary32 values in [1, 2) take 50 bytes in Silt-L. -/
theorem test_silt_group_size : (siltLGroup 0 ((List.range 16).flatMap fun i => leBytes 4 (0x3F800000 + 0x1000 * i))).length = 50 := by decide

/-- DPA 0x3A_1234_5680 lies in stack 3 and channel 25, and region 1 homes it. -/
theorem test_dpa_places :
    populated 0x3A12345680 = true ∧ stackOf (0x3A12345680 / 128) = 3 ∧ channelOf (0x3A12345680 / 128) = 25 ∧ homeOf (0x3A12345680 / 128) = 1 := by
  decide

/-- The host's guarded pair 0x225 and 0xFFFF_FDDA makes device 0 the Round master (Register Conventions). -/
def tReady : State := { State.reset with rst := { State.reset.rst with ready := true, scope := 1 } }

theorem test_guard_makes_master :
    (match exec (.guardLatchWrite .fw (BitVec.ofNat 28 0x400000) 0x225#32) tReady with
      | .next s => (match exec (.roundCtl .fw 0xFFFFFDDA#32) s with
        | .next t => t.round.state == .master && t.cfg Reg.ROUND_CTL == 0x225#32
        | _ => false)
      | _ => false) = true := by decide

/-- A failed complement changes nothing and counts. -/
theorem test_guard_fails :
    (match exec (.guardLatchWrite .fw (BitVec.ofNat 28 0x400000) 0x225#32) tReady with
      | .next s => (match exec (.roundCtl .fw 0xFFFFFDDB#32) s with
        | .next t => t.round.state == .off && t.ctr Reg.RF_W2_FAIL_CNT == 1
        | _ => false)
      | _ => false) = true := by decide

/-- A write of 0x0001_0000 to ARITH.FLAGS_VE of core 29 clears INEXACT alone. -/
theorem test_masked_write :
    Reg.ARITH_FLAGS_VE 1 3 = 0x40000C4 ∧
    (match exec (.arithFlagsWrite .fw 29 1 0x00010000#32) (tReady.setCfg (Reg.ARITH_FLAGS_VE 1 3) 3#32) with
      | .next t => t.cfg (Reg.ARITH_FLAGS_VE 1 3) == 2#32
      | _ => false) = true := by decide

/-- A mark of the trace at Round 1,000 offset 10 carries stamp 0xF_A00A. -/
theorem test_stamp : ({ State.reset with round := { ({} : RoundSt) with state := .master, run := true, cnt := 1000#64, phase := 10 } } : State).stamp = 0xFA00A := by
  decide

/-- Replacement in the device cache steps from 0xACE1 through 0x59C3 to 0xB387. -/
theorem test_lfsr16 : lfsr16 0xACE1 = 0x59C3 ∧ lfsr16 0x59C3 = 0xB387 := by decide

/-- OP_MAX of the design powers of Power, Thermal Control and Heron. -/
theorem test_op_max : [550, 800, 900, 1000].map opMax = [1, 5, 5, 7] := by decide

/-- A reset signal, then the signals as one sum, then the arm (Pegs): COUNT 6, TARGET 5 is ready. -/
theorem test_peg_cycle : (({ count := 9, target := 3 } : Peg).after [.arm 5 1, .signal 2, .reset, .signal 4]).count = 6
    ∧ (({ count := 9, target := 3 } : Peg).after [.arm 5 1, .signal 2, .reset, .signal 4]).ready = true := by decide

/-- Reset leaves memory in its canonical form, and START_UP then brings the block to READY. -/
theorem test_reset_memory : State.reset.memoryWf = true := by decide

/-- IDCODE of the test access port. -/
theorem test_idcode : (match exec .idcode State.reset with
      | .next t => t.out == [.tap 32 0x1A00476D]
      | _ => false) = true := by decide

/-! ### Witnesses: Rounds and arithmetic -/

/-- Depth 15 and period 2, for Round 0 of epoch 0. -/
def wMarkBits : Nat := 15 * 2 ^ 25 + 2 * 2 ^ 22

def wLode (k : LodeSt) : State := { State.reset with lodes := [(3, k)] }

/-- A follower that is LOCKED on lode 3, with a mark in its control block. -/
def wMark (b : Nat) : State :=
  { ((wLode { state := .active, inbox := [(1, b)] }).setCfg (Reg.ROUND_DELAY 3) 0x80000000#32) with
    round := { state := .locked, run := true, act := 3 } }

theorem witness_malformedMark :
    (wMark 0).sump.fatal = false ∧ ((wMark 0).lode (3 : Fin 16)).state = .active ∧ (wMark 0).round.state ≠ .off
      ∧ ((wMark (3 * 2 ^ 20)).lode (3 : Fin 16)).inbox = [(1, 3 * 2 ^ 20)] ∧ bitsOf (3 * 2 ^ 20) 21 20 = 3 ∧ bitsOf (7 * 2 ^ 22) 24 22 = 7
      ∧ bitsOf 1 19 0 ≠ 0 ∧ 15 < bitsOf (16 * 2 ^ 25) 29 25 := by decide

theorem witness_depth15Mark :
    let s := wMark wMarkBits
    s.sump.fatal = false ∧ (s.lode (3 : Fin 16)).state = .active ∧ s.round.state = .locked ∧ s.round.run = true
      ∧ (s.lode (3 : Fin 16)).inbox = [(1, wMarkBits)] ∧ (markFields wMarkBits).wellFormed = true ∧ bitsOf wMarkBits 29 25 = 15
      ∧ bitsOf wMarkBits 63 48 = s.fld Reg.ROUND_EPOCH 15 0 ∧ bitsOf wMarkBits 47 30 = s.fld Reg.ROUND_MASTER 17 0
      ∧ (3 : Fin 16).val = s.round.act ∧ s.delayGood (3 : Fin 16) = true
      ∧ (s.localTime (128#17).toNat : Int) - s.partnerTime (3 : Fin 16) (markFields wMarkBits) = 256
      ∧ (s.localTime (0#17).toNat : Int) - s.partnerTime (3 : Fin 16) (markFields wMarkBits) = 0 := by decide

/-- An epoch one below the domain's is stale. -/
theorem witness_staleMark :
    let s := (wMark (wMarkBits + 4 * 2 ^ 48)).setFld Reg.ROUND_EPOCH 15 0 5
    s.sump.fatal = false ∧ (s.lode (3 : Fin 16)).state = .active ∧ s.round.state ≠ .off
      ∧ (s.lode (3 : Fin 16)).inbox = [(1, wMarkBits + 4 * 2 ^ 48)] ∧ (markFields (wMarkBits + 4 * 2 ^ 48)).wellFormed = true
      ∧ (bitsOf (wMarkBits + 4 * 2 ^ 48) 63 48 + 65536 - s.fld Reg.ROUND_EPOCH 15 0) % 65536 > 32767 := by decide

def wFollower (r : RoundSt) : State := { State.reset with round := r }

theorem witness_roundBoundary : (wFollower { state := .master, run := true }).counting = true := by decide

/-- The fourth missing mark in a row, and the third. -/
theorem witness_missingMarks :
    let s := wFollower { state := .locked, run := true, noGood := 3 }
    let t := wFollower { state := .locked, run := true, noGood := 2 }
    s.sump.fatal = false ∧ s.counting = true ∧ s.round.state ≠ .master ∧ s.round.gotGood = false ∧ s.round.missed = false
      ∧ s.round.noGood = 3 ∧ s.round.state = .locked ∧ s.rctl 4 4 = 0 ∧ t.round.noGood < 3 ∧ t.counting = true := by decide

theorem witness_holdoverLimit :
    let s := (wFollower { state := .holdover, run := true, held := 0x10000 }).setCfg (Reg.ROUND_DELAY 0) 0x80000000#32
    s.round.state = .holdover ∧ s.fld Reg.ROUND_HOLD 23 0 ≠ 0 ∧ s.fld Reg.ROUND_HOLD 23 0 ≤ s.round.held
      ∧ (s.delayHeld s.srcLode = true ∨ s.delayHeld s.bkpLode = true) := by decide

theorem witness_standbyTakeover :
    let s := wFollower { state := .unaligned, run := true, away := 256, ctl := 0x209#32 }
    (s.round.state = .holdover ∨ s.round.state = .unaligned) ∧ s.rctl 3 2 = 2 ∧ s.fld Reg.ROUND_STANDBY 15 0 ≠ 0
      ∧ (s.fld Reg.ROUND_STANDBY 17 16 + 1) * s.fld Reg.ROUND_STANDBY 15 0 ≤ s.round.away := by decide

/-- The delay exchange of the example of Round Time: d is 9,801.0 ns, in eighths of a nanosecond 78,408 twice over. -/
def wDelay : State :=
  { (wLode { state := .active, inbox := [(3, 7 * 2 ^ 112 + (8 * 9900 + 4) * 2 ^ 56 + (8 * 9940 + 4))] }) with
    round := { state := .acquire, sinceExch := 16, delays := [(3, { id := 7, sent := some 800 })] } }

theorem witness_delayExchange :
    wDelay.round.state ≠ .off ∧ wDelay.sump.fatal = false ∧ 16 ≤ wDelay.round.sinceExch ∧ (wDelay.lode (3 : Fin 16)).state = .active
      ∧ (∃ b rest, (wDelay.lode (3 : Fin 16)).inbox = (3, b) :: rest ∧ b < 2 ^ 128 ∧ b / 2 ^ 112 = (wDelay.delay (3 : Fin 16)).id)
      ∧ (wDelay.delay (3 : Fin 16)).sent = some 800 ∧ (wDelay.delay (3 : Fin 16)).kept = [] ∧ (wDelay.delay (3 : Fin 16)).sent.isSome = true
      ∧ (wFollower { state := .master, run := true }).counting = true := by
  refine ⟨by decide, by decide, by decide, by decide, ⟨_, _, rfl, by decide, by decide⟩, by decide, by decide, by decide, by decide⟩

/-- The one-way delay of that example. -/
theorem test_delay_example :
    (match exec (.delayRsp 3 (BitVec.ofNat 56 (8 * 19742))) wDelay with
      | .next t => (t.delay 3).kept == [8 * 2 * 9801]
      | _ => false) = true := by decide

theorem witness_decodeThenEncode : Elem.b32.decode 0x80000001 = .fin true 1 (-149) ∧ 0x80000001 < 2 ^ Elem.b32.bits := by decide

theorem witness_windowSum :
    let vs := [Val.fin false 1 24, .fin false 1 0, .fin true 1 24]
    let ws := [Val.fin false 1 24, .fin true 1 24, .fin false 1 0]
    vs.Perm ws ∧ ((WAcc.start 0).takeAll vs).o = false ∧ ((WAcc.start 0).takeAll ws).o = false := by decide

theorem witness_fixedPointSum :
    let vs := [Elem.b32.decode 0x3DCCCCCD, Elem.b32.decode 0xBDCCCCCD]
    18 ≤ 18 ∧ vs.length ≤ 2 ^ 18 ∧ ∀ v ∈ vs, v ≠ .nan := by decide

/-- The largest entry at H 18, four times over, and each kind of sum. -/
theorem witness_reductionElements :
    let q := 2 ^ 45 - 1
    let t := SumTree.add (.add (.entry q) (.entry q)) (.add (.entry q) (.entry q))
    (fixNan % 2 ^ 64 = fixNan ∨ 1 % 2 ^ 64 = fixNan) ∧ 5 % 2 ^ 64 ≠ fixNan ∧ t.entries.length ≤ 2 ^ 18
      ∧ (∀ q ∈ t.entries, q < 2 ^ 64 ∧ q ≠ fixNan ∧ -(2 ^ (63 - 18) - 1) ≤ signed 64 q ∧ signed 64 q ≤ 2 ^ (63 - 18) - 1)
      ∧ (SumTree.add (.entry q) (.add (.entry q) (.add (.entry q) (.entry q)))).entries.Perm t.entries := by decide

/-- The root of 2 lies between 0x3FB5_04F3, which R107 gives times 2^74 for rsqrt at min, and its neighbour: exp2 of one
half is one of the two. -/
theorem test_exp2_of_a_half :
    let r := enclRange (enclExp2 0 (2 ^ 255)) 1 0
    ((r.1.eq (Elem.b32.decode 0x3FB504F3) && (Elem.b32.decode 0x3FB504F4).lt r.2)
      && r.2.lt (Elem.b32.decode 0x3FB504F5)) = true := by decide

/-- A codeword is zero at the 14 roots of R382: one, α, α^2 and on, α being 2. -/
theorem test_codeword_roots :
    ([1, 2, 4, 8, 16, 32, 64, 128, 256, 512, 9, 18, 36, 72].all fun a => gfEval ([3, 1] ++ rsParity [3, 1]) a == 0) = true := by decide

/-! ### Witnesses: cores, engines and pegs -/

/-- A row of a table: eight words, little-endian. -/
def rowBytes (ws : List Nat) : List Byte := (List.range 8).flatMap fun i => leBytes 4 (ws.getD i 0)

/-- Rows 100 to 103 of the table area: two OPDs, of one row of 16 binary16 and of 16 binary32 elements, a MEMD of 16 rows of
binary32 at DVA 0x10_0000, and an OPD of one row of index lanes. -/
def wStore : Tbl Byte :=
  tsets (fun _ => 0#8) [] (rowOff 1 100)
    (rowBytes [0x1F0, 0x20000, 0, 0, 0, 15] ++ rowBytes [0x0F0, 0x20010, 0, 0, 0, 15] ++ rowBytes [0x0F1, 0x100000, 0xF0000, 128]
      ++ rowBytes [0x0F0, 0x20020, 0, 0, 0, 15])

/-- Core 0 runs context 0 at row 2046 of a table of 2,048 rows, whose window holds a trick and the NOP after it. -/
def wCore (ws : List Nat) (f : Core → Core) : State :=
  { (State.reset.setCfg (Reg.PEG_CTX 0 0) 0x00100000#32).setCfg (Reg.PEG_PART 0 0) 0x00200040#32 with
    cores := [(0, f { pwr := .run, seq := .run, tbl := 1, row := 2046, ctx := some 0, lcore := some 0, base := 10, store := wStore
                      window := [(2046, ⟨ws ++ List.replicate (8 - ws.length) 0, false⟩), (2047, ⟨List.replicate 8 0, false⟩)] })]
    round := { state := .master, run := true, cnt := 20#64 } }

/-- Whether a core issues a trick, as a check. -/
def issuesB (s : State) (c : Nat) (a : Act) (sig : Option Nat) : Bool :=
  (s.core c).canIssue && !s.sump.fatal &&
    match tfind (s.core c).window (s.core c).row with
    | some r => !r.poison &&
      match decodeTrick (s.rowEnv c) r.words with
      | .ok p => decide (p = (a, sig))
      | .error _ => false
    | none => false

theorem issues_of (s : State) (c : Nat) (a : Act) (sig : Option Nat) (h : issuesB s c a sig = true) : Issues s c a sig := by
  unfold issuesB at h
  simp only [Bool.and_eq_true, Bool.not_eq_true'] at h
  obtain ⟨⟨h1, h2⟩, h3⟩ := h
  split at h3
  · rename_i r hr
    rw [Bool.and_eq_true, Bool.not_eq_true'] at h3
    obtain ⟨h4, h5⟩ := h3
    split at h5
    · rename_i p hp
      exact ⟨h1, h2, r, hr, h4, by rw [hp, of_decide_eq_true h5]⟩
    · cases h5
  · cases h3

/-- The trick that a core would issue next. -/
def nextTrick (s : State) (c : Nat) : Option (Act × Option Nat) :=
  match tfind (s.core c).window (s.core c).row with
  | some r => (match decodeTrick (s.rowEnv c) r.words with
    | .ok p => some p
    | .error _ => none)
  | none => none

theorem witness_nopHaltTfence :
    Issues (wCore [0x00] id) (0 : Fin 104) .nop none ∧ HasNext (wCore [0x00] id) (0 : Fin 104) ∧ Issues (wCore [0x01] id) (0 : Fin 104) .halt none
      ∧ Issues (wCore [0x02] id) (0 : Fin 104) .tfence none ∧ ((wCore [0x02] id).core (0 : Fin 104)).ranges.any (·.write) = false :=
  ⟨issues_of _ _ _ _ (by decide), by unfold HasNext; decide, issues_of _ _ _ _ (by decide), issues_of _ _ _ _ (by decide), by decide⟩

/-- Seven open loops, the last count of a loop and its end, eight rows of calls, and a return with its own loops closed. -/
theorem witness_loopsAndCalls :
    (let s := wCore [0x08, 5] fun k => { k with loops := List.replicate 7 ⟨0, 1, 0, 0⟩ };
      Issues s (0 : Fin 104) (.loop 5) none ∧ HasNext s (0 : Fin 104) ∧ (s.core (0 : Fin 104)).loops.length < 8)
    ∧ (let s := wCore [0x09] fun k => { k with loops := [⟨2040, 5, 4, 0⟩] };
      Issues s (0 : Fin 104) .endloop none ∧ (s.core (0 : Fin 104)).loops = [⟨2040, 5, 4, 0⟩] ∧ (s.core (0 : Fin 104)).calls.length = 0
        ∧ 2040 < (s.core (0 : Fin 104)).rows)
    ∧ (let s := wCore [0x09] fun k => { k with loops := [⟨2040, 5, 5, 0⟩] };
      Issues s (0 : Fin 104) .endloop none ∧ (s.core (0 : Fin 104)).loops = [⟨2040, 5, 5, 0⟩] ∧ HasNext s (0 : Fin 104))
    ∧ (let s := wCore [0x0A, 2047] fun k => { k with calls := List.replicate 7 1 };
      Issues s (0 : Fin 104) (.call 2047) none ∧ (s.core (0 : Fin 104)).calls.length < 8 ∧ 2047 < (s.core (0 : Fin 104)).rows)
    ∧ (let s := wCore [0x0B] fun k => { k with calls := [2047], loops := [⟨2040, 5, 5, 0⟩] };
      Issues s (0 : Fin 104) .ret none ∧ (s.core (0 : Fin 104)).calls = [2047]
        ∧ (s.core (0 : Fin 104)).loops.any (fun l => decide (l.depth = (s.core (0 : Fin 104)).calls.length)) = false) :=
  ⟨⟨issues_of _ _ _ _ (by decide), by unfold HasNext; decide, by decide⟩, ⟨issues_of _ _ _ _ (by decide), by decide, by decide, by decide⟩,
    ⟨issues_of _ _ _ _ (by decide), by decide, by unfold HasNext; decide⟩, ⟨issues_of _ _ _ _ (by decide), by decide, by decide⟩,
    ⟨issues_of _ _ _ _ (by decide), by decide, by decide⟩⟩

/-- A trick of each engine issues, into an empty queue. -/
def engineB (ws : List Nat) (e : Nat) (kind : EngOp → Bool) : Bool :=
  match nextTrick (wCore ws id) 0 with
  | some (.engine e' op rd wr, _) => decide (e' = e) && kind op && ((wCore ws id).core 0).hazardFree rd wr && ((wCore ws id).core 0).canIssue
      && decide ((((wCore ws id).storeErrs 0 []).core 0).row + 1 < (((wCore ws id).storeErrs 0 []).core 0).rows)
  | _ => false

theorem witness_engineTricks :
    engineB [0x10, 100 + 100 * 65536, 2 ^ 30, 15] 0 (fun o => match o with | .mm .. => true | _ => false) = true
      ∧ engineB [0x20, 101 + 101 * 65536, 101 * 65536, 0x00] 4 (fun o => match o with | .vec .. => true | _ => false) = true
      ∧ engineB [0x30, 101 + 101 * 65536, 0] 6 (fun o => match o with | .tu .. => true | _ => false) = true
      ∧ engineB [0x40, 102 + 101 * 65536, 0] 7 (State.isStream .stageIn) = true
      ∧ engineB [0x40, 102 + 101 * 65536, 0x10000] 7 (State.isStream .stageOut) = true
      ∧ engineB [0x40, 102 + 101 * 65536, 0x20000 + 103] 7 (State.isStream .gather) = true
      ∧ engineB [0x40, 102 + 101 * 65536, 0x30000 + 103] 7 (State.isStream .scatter) = true
      ∧ engineB [0x40, 103 + 101 * 65536, 0x40000] 7 (State.isStream .copyLocal) = true := by decide

theorem witness_pegTricks :
    (wCore [] id).pegOfCtx (((wCore [] id).core (0 : Fin 104)).ctx.getD 0) 15 = some 79 ∧ HasNext (wCore [] id) (0 : Fin 104)
      ∧ Issues (wCore [0x51, 15 + 65535 * 65536] id) (0 : Fin 104) (.psig 15 65535) none ∧ Issues (wCore [0x52, 15, 4] id) (0 : Fin 104) (.parm 15 4) none
      ∧ Issues (wCore [0x53, 15] id) (0 : Fin 104) (.preset 15) none :=
  ⟨by decide, by unfold HasNext; decide, issues_of _ _ _ _ (by decide), issues_of _ _ _ _ (by decide), issues_of _ _ _ _ (by decide)⟩

/-- The base Round is 10 and the Round 20: offset 10 has begun, offset 11 has not. -/
theorem witness_waitsAndDeadlines :
    (let s := wCore [0x50, 15] id;
      Issues s (0 : Fin 104) (.pwait 15) none ∧ s.pegOfCtx ((s.core (0 : Fin 104)).ctx.getD 0) 15 = some 79)
    ∧ (let s := wCore [0x58, 10] id;
      Issues s (0 : Fin 104) (.rwait 10) none ∧ s.counting = true ∧ HasNext s (0 : Fin 104) ∧ (s.core (0 : Fin 104)).base + 10 ≤ s.rnd)
    ∧ (let s := wCore [0x58, 11] id;
      Issues s (0 : Fin 104) (.rwait 11) none ∧ s.rnd < (s.core (0 : Fin 104)).base + 11)
    ∧ (let s := wCore [0x59, 15 + 600 * 65536, 11] id;
      Issues s (0 : Fin 104) (.deadline 15 600 11) none ∧ s.pegOfCtx ((s.core (0 : Fin 104)).ctx.getD 0) 15 = some 79
        ∧ s.rnd < (s.core (0 : Fin 104)).base + 11)
    ∧ (let s := (wCore [0x59, 15 + 600 * 65536, 10] id).setPeg 79 { armed := true };
      Issues s (0 : Fin 104) (.deadline 15 600 10) none ∧ s.counting = true ∧ (s.core (0 : Fin 104)).base + 10 ≤ s.rnd ∧ HasNext s (0 : Fin 104)
        ∧ (s.peg 79).ready = true)
    ∧ (let s := wCore [0x59, 15 + 600 * 65536, 10] fun k => { k with calls := List.replicate 7 0 };
      Issues s (0 : Fin 104) (.deadline 15 600 10) none ∧ (s.core (0 : Fin 104)).calls.length < 8 ∧ 600 < (s.core (0 : Fin 104)).rows
        ∧ (s.peg 79).ready = false) :=
  ⟨⟨issues_of _ _ _ _ (by decide), by decide⟩, ⟨issues_of _ _ _ _ (by decide), by decide, by unfold HasNext; decide, by decide⟩,
    ⟨issues_of _ _ _ _ (by decide), by decide⟩, ⟨issues_of _ _ _ _ (by decide), by decide, by decide⟩,
    ⟨issues_of _ _ _ _ (by decide), by decide, by decide, by unfold HasNext; decide, by decide⟩,
    ⟨issues_of _ _ _ _ (by decide), by decide, by decide, by decide⟩⟩

theorem witness_enqPhaseTmark :
    (let s := wCore [0x48, 2 + 31 * 256] id;
      Issues s (0 : Fin 104) (.enq 2 0 0 32) none ∧ (s.core (0 : Fin 104)).writeHolds 0 (32 * 32 - 1) = false)
    ∧ (let s := wCore [0x60, 6] id;
      Issues s (0 : Fin 104) (.phase 6) none ∧ HasNext s (0 : Fin 104) ∧ (s.core (0 : Fin 104)).ctx = some 0 ∧ s.round.state ≠ .off)
    ∧ Issues (wCore [0x61, 255, 7] id) (0 : Fin 104) (.tmark 255 7) none :=
  ⟨⟨issues_of _ _ _ _ (by decide), by decide⟩, ⟨issues_of _ _ _ _ (by decide), by unfold HasNext; decide, by decide, by decide⟩,
    issues_of _ _ _ _ (by decide)⟩

theorem witness_rowCapture :
    let s := wCore [] fun k => { k with row := 100, window := [] };
    (s.core (0 : Fin 104)).pwr = .run ∧ (s.core (0 : Fin 104)).isolated = false ∧ (s.core (0 : Fin 104)).halt = false
      ∧ (s.core (0 : Fin 104)).seq = .run ∧ s.sump.fatal = false ∧ 100 ∈ (s.core (0 : Fin 104)).captureRows
      ∧ (s.core (0 : Fin 104)).writeHolds (rowOff 1 100) (rowOff 1 100 + 31) = false := by decide

def wTile : Tile := ⟨.b32, 0, 0x80000, 128, 0, 0, 1, 16⟩

def wTrick (op : EngOp) (r : Option Running) : Trick := { id := 4, row := 90, opc := 0x20, op := op, sig := some 79, tr := false, running := r }

def wVec : EngOp := .vec .abs 0 wTile none none (some wTile) false false 0 0 0

theorem witness_engineStart :
    let s := wCore [] fun k => { k with eng := [(4, [wTrick wVec none])] };
    (s.core (0 : Fin 104)).pwr = .run ∧ (s.core (0 : Fin 104)).isolated = false ∧ s.sump.fatal = false
      ∧ (s.core (0 : Fin 104)).queue (4 : Fin 8) = [wTrick wVec none] ∧ (wTrick wVec none).running = none ∧ (wTrick wVec none).stopped = false := by
  decide

theorem witness_trickCompletion :
    let s := wCore [] fun k => { k with eng := [(4, [wTrick wVec (some {})])] };
    (s.core (0 : Fin 104)).pwr = .run ∧ (s.core (0 : Fin 104)).isolated = false ∧ s.sump.fatal = false ∧ (4 : Fin 8).val < 7
      ∧ (s.core (0 : Fin 104)).queue (4 : Fin 8) = [wTrick wVec (some {})] ∧ (wTrick wVec (some {})).sig = some 79 := by decide

/-- An index list whose first lane names row 16 of a tile of 16 rows. -/
def wGather : State :=
  wCore [] fun k => { k with
    ctx := none
    store := tsets (fun _ => 0#8) [] 0x1000 (leBytes 4 16)
    eng := [(7, [wTrick (.stream .gather ⟨.b32, 0, 0x80000, 128, 0, 0, 1, 16⟩ ⟨.b32, 0, 0x100000, 128, 0, 0, 16, 16⟩
      (some ⟨.b32, 0, 0x1000, 128, 0, 0, 1, 1⟩) false false 0 0 0 none) (some {})])] }

theorem witness_indexLaneFault :
    (wGather.core (0 : Fin 104)).pwr = .run ∧ (wGather.core (0 : Fin 104)).isolated = false ∧ wGather.sump.fatal = false
      ∧ ((wGather.core (0 : Fin 104)).queue 7).map (·.stopped) = [false]
      ∧ ((wGather.core (0 : Fin 104)).queue 7).all (fun k =>
        let d := wGather.streamRun (0 : Fin 104) [] k.op.streamRows
        (match d.1 with
          | .index n => decide (n = 0xD)
          | _ => false) && decide ((d.2.core (0 : Fin 104)).ctx = none)) = true := by decide

theorem witness_haltedAndSuspended :
    (let s : State := { State.reset with
        cores := [(0, { pwr := .run, seq := .run, halt := true, ctx := some 5, lcore := some 0 }),
          (1, { pwr := .run, seq := .run, ctx := some 5, lcore := some 1 })] };
      s.sump.fatal = false ∧ (s.core (0 : Fin 104)).halt = true ∧ (s.core (0 : Fin 104)).seq = .run ∧ (s.core (0 : Fin 104)).stop = none
        ∧ (s.core (0 : Fin 104)).isolated = false ∧ (s.core (0 : Fin 104)).enginesIdle = true ∧ (s.core (0 : Fin 104)).ctx = some 5
        ∧ 1 ∈ s.coresOf 5 ∧ 1 ≠ (0 : Fin 104).val ∧ (s.core 1).seq ≠ .halted)
    ∧ (let s : State := { State.reset with
        cores := [(0, { pwr := .run, seq := .run, halt := true, ctx := some 5, lcore := some 0 })], ctx := [(5, { state := .running })] };
      s.coresOf 5 = [(0 : Fin 104).val] ∧ (s.context 5).state = .running ∧ (s.context 5).preempt = none ∧ (s.context 5).launch = none)
    ∧ (let s : State := { State.reset with
        cores := [(0, { pwr := .run, seq := .draining, stop := some .preempt, ctx := some 5, lcore := some 0 })]
        ctx := [(5, { state := .preempting })] };
      (s.context 5).state = .preempting ∧ (s.context 5).cancel = none ∧ (s.core (0 : Fin 104)).stop = some .preempt
        ∧ (s.core (0 : Fin 104)).seq = .draining ∧ (s.core (0 : Fin 104)).enginesIdle = true) := by decide

def wOne (k : Core) : State := { State.reset with cores := [(0, k)] }

theorem witness_corePower :
    ((wOne { pwr := .init }).core (0 : Fin 104)).pwr = .init ∧ (wOne {}).sump.fatal = false
      ∧ ((wOne { pwr := .run, seq := .wait }).core (0 : Fin 104)).seq = .wait
      ∧ ((wOne { pwr := .run, seq := .wait }).core (0 : Fin 104)).enginesIdle = true
      ∧ ((wOne { pwr := .run, seq := .wait }).core (0 : Fin 104)).stop = none
      ∧ ((wOne { pwr := .clockStop }).core (0 : Fin 104)).pwr = .clockStop := by decide

theorem witness_coreStoreUpkeep :
    ((wOne { wb := [7] }).core (0 : Fin 104)).wb = [7] ∧ ((wOne { remap := [65535] }).core (0 : Fin 104)).remap = [65535]
      ∧ ((wOne { remap := [65535] }).core (0 : Fin 104)).spareTaken (65535 / 1024) < 16
      ∧ (let s := (wOne { pwr := .run, scrub := 1039 }).setBit (Reg.CSTORE_SCRUB_CTL 0) 16 true;
        s.bit (Reg.CSTORE_SCRUB_CTL ((0 : Fin 104).val / 26)) 16 = true ∧ (s.core (0 : Fin 104)).pwr = .run ∧ (s.core (0 : Fin 104)).scrub = 1039)
      ∧ ((wOne { pwr := .run, scrub := 1038 }).core (0 : Fin 104)).scrub < 1039 := by decide

/-- A reset, two signals and an arm of one peg, with an operation of another between them. -/
def wPegOps : List (Nat × PegOp) := [(8460, .signal 2), (1, .reset), (8460, .reset), (8460, .signal 4), (8460, .arm 5 1)]

theorem witness_pegCycle :
    (pegTake 8460 9 wPegOps).2 = [(1, .reset)] ∧ (pegTake 8460 9 wPegOps).1 ≠ [] ∧ PegOp.reset ∈ (pegTake 8460 9 wPegOps).1
      ∧ PegOp.reset ∉ (pegTake 8460 1 wPegOps).1 ∧ pegArm (pegTake 8460 9 wPegOps).1 = some (5, 1)
      ∧ ({ count := 0xFFFFFFFF } : Peg).poison = false ∧ ({ poison := true } : Peg).poison = true := by decide

theorem witness_readiness :
    let s : State := { (wCore [] fun k => { k with seq := .wait, wait := some (.peg 79) }) with wakes := [(79, .seq 0)] };
    s.sump.fatal = false ∧ s.wakes[0]? = some (79, .seq (0 : Fin 104)) ∧ (s.core (0 : Fin 104)).seq = .wait
      ∧ (s.core (0 : Fin 104)).isolated = false ∧ (s.core (0 : Fin 104)).stop = none ∧ (s.core (0 : Fin 104)).pwr = .run
      ∧ (s.core (0 : Fin 104)).row + 1 < (s.core (0 : Fin 104)).rows ∧ (s.core (0 : Fin 104)).wait = some (.peg 79) := by decide


/-! ### Witnesses: memory, translation, the device cache and coherence -/

/-- The last line of stack 7. -/
def topLine : Nat := 7 * 2 ^ 29 + 402653183

def wStack (h : Hbm) : State := { State.reset with hctl := [(7, h)] }

theorem witness_hbmRequests :
    let s := wStack { state := .run }
    let t : State := { s with hbmBad := [(2 * topLine, true)] }
    populated (128 * topLine) = true ∧ s.hbmServes topLine = true ∧ t.hbmServes topLine = true ∧ t.lineBad topLine = true
      ∧ 127 + ([] : List Byte).length < 128 ∧ (List.replicate 128 1#8).length = 128 := by decide

theorem witness_uncorrectableErrors :
    let s := wStack { state := .run }
    populated (128 * topLine) = true ∧ s.hbmServes topLine = true ∧ s.lineBad topLine = false := by decide

theorem witness_stackMaintenance :
    let a := wStack { state := .run }
    let b := (wStack { state := .repair, ch := 31, lane := 255, onto := 1 }).setFld (Reg.HBMC_LANE 7 31) 7 0 1
    let c := (wStack { state := .run, cand := [5, 6] }).setBit (Reg.HBMC_CTL 7) 17 true
    let d := wStack { state := .run, sppr := some 5 }
    let e := (wStack { state := .run, scrub := 402653183 }).setBit (Reg.HBMC_CTL 7) 16 true
    a.sump.fatal = false ∧ (a.ctl (7 : Fin 8)).state = .run ∧ (a.ctl (7 : Fin 8)).sppr = none
      ∧ (b.ctl (7 : Fin 8)).state = .repair ∧ (b.ctl (7 : Fin 8)).ch < 32 ∧ 0 < b.fld (Reg.HBMC_LANE (7 : Fin 8) (b.ctl (7 : Fin 8)).ch) 7 0
      ∧ (c.ctl (7 : Fin 8)).state = .run ∧ c.bit (Reg.HBMC_CTL (7 : Fin 8)) 17 = true ∧ (c.ctl (7 : Fin 8)).sppr = none
      ∧ (c.ctl (7 : Fin 8)).cand = [5, 6] ∧ (d.ctl (7 : Fin 8)).sppr = some 5
      ∧ e.bit (Reg.HBMC_CTL (7 : Fin 8)) 16 = true ∧ (e.ctl (7 : Fin 8)).state = .run ∧ (e.ctl (7 : Fin 8)).sppr = none
      ∧ (e.ctl (7 : Fin 8)).passed = [] ∧ (e.ctl (7 : Fin 8)).scrub + 1 = 402653184 := by decide

/-- The reset thresholds are 95 and 105 °C, so that 94 to 105 °C take in every level. -/
theorem witness_temperature :
    let s := wStack { state := .run }
    (s.ctl (7 : Fin 8)).state ≠ .off ∧ (s.ctl (7 : Fin 8)).level = 0 ∧ tget (fun _ => 0) s.thr ((7 : Fin 8).val / 2) = 0
      ∧ s.fld (Reg.HBMC_THERM (7 : Fin 8)) 23 16 + 5 < s.fld (Reg.HBMC_THERM (7 : Fin 8)) 31 24
      ∧ s.fld (Reg.HBMC_THERM (7 : Fin 8)) 31 24 < 256 := by decide

theorem witness_regulatorPeriod :
    let s : State := { State.reset with short := [35] }
    tget (fun _ => 0) s.thr (3 : Fin 4) < 2 ∧ s.short = [9 * (3 : Fin 4).val + (8 : Fin 9).val] := by decide

/-- Context 63 has segment 15: one page of 64 KiB that may be read, flat or by pages whose table is all zeros. -/
def wSeg (ty : Nat) (rd : Bool) : State :=
  { (((State.reset.setCfg (Reg.XLAT_SEG_W0 63 15) (BitVec.ofNat 32 (2 ^ 31 + ty * 2 ^ 28 + b2n rd * 2 ^ 27 + 255))).setCfg
      (Reg.XLAT_SEG_W1 63 15) 0#32).setCfg (Reg.XLAT_SEG_W2 63 15) 0x10#32) with
    ctx := [(63, { state := .loaded, part := 7 })], hctl := [(0, { state := .run })] }

def wDva : Nat := 15 * 2 ^ 44 + 0xFFFF

theorem witness_walks :
    let s := wSeg 0 true
    let n := wSeg 0 false
    let p := wSeg 2 true
    s.sump.fatal = false ∧ (s.context 63).state ≠ .free ∧ wDva / 2 ^ 44 % 16 = 15 ∧ (s.seg 63 15).valid = true
      ∧ wDva % 2 ^ 44 < (s.seg 63 15).bytes ∧ rights 0 (s.seg 63 15).rd (s.seg 63 15).wr (s.seg 63 15).atomics = true
      ∧ (s.seg 63 15).type < 2 ∧ (s.seg 63 14).valid = false ∧ (s.seg 63 15).bytes ≤ (wDva + 1) % 2 ^ 44
      ∧ rights 0 (n.seg 63 15).rd (n.seg 63 15).wr (n.seg 63 15).atomics = false
      ∧ 2 ≤ (p.seg 63 15).type ∧ p.xl.utlb = [] ∧ p.xl.rtlb = [] ∧ p.xl.walkc = []
      ∧ (let d := ((p.bump (Reg.RTLB_UTLB_MISS_CNT 0)).bump (Reg.RTLB_MISS_CNT 0)).readPte (p.ctxCls 63)
          ((p.seg 63 15).base + 8 * pteIndex 2 0xFFFF)
        d.1.2 = false ∧ bitOf (fieldAt d.1.1 (((p.seg 63 15).base + 8 * pteIndex 2 0xFFFF) % 128) 8) 63 = false) := by decide

def wFault (req : Nat) : XFault := ⟨63, 3, 1, 2, 15, req, 3, wDva, 7, 0⟩

theorem witness_faultRecords :
    let s : State := { State.reset with xl := { faults := [wFault 4] } }
    let t := s.setBit (Reg.XLAT_CTX 63) 0 true
    let u : State := { State.reset with xl := { faults := [wFault 1] }, ctx := [(63, { state := .running })] }
    s.sump.fatal = false ∧ s.xl.faults = [wFault 4] ∧ (wFault 4).ctx < 64 ∧ (wFault 4).req = 4 ∧ s.bit (Reg.XLAT_CTX 63) 0 = false
      ∧ t.bit (Reg.XLAT_CTX 63) 0 = true ∧ (wFault 1).req ≠ 4 ∧ (u.context 63).state = .running := by decide

theorem witness_invalidations :
    let v (m : Bool) : Inval := { cmd := none, ctx := 63, lo := 0, hi := 2 ^ 48, marked := m }
    let s : State := { State.reset with xl := { invs := [v false] } }
    let t : State := { State.reset with xl := { invs := List.replicate 8 (v true) ++ [v false] } }
    s.sump.fatal = false ∧ s.xl.invs = [v false] ∧ (v false).marked = false ∧ (s.xl.invs.filter (·.marked)).length < 8
      ∧ 8 ≤ (t.xl.invs.filter (·.marked)).length ∧ t.xl.invs.head? = some (v true) ∧ (v true).marked = true
      ∧ t.drainedInv (v true) = true ∧ (v true).cmd = none := by decide

def wDc (d : DcSt) : State := { State.reset with dc := d, hl := { attach := .attached, up := true } }

def wLine64 : DLine := ⟨70368744177663, 8, 0, List.replicate 64 7#8, true⟩

theorem witness_dcReadsAndWrites :
    let s := wDc { state := .run, lines := [(16 * 16383 + 15, wLine64)] }
    let t := (wDc { state := .run }).setCfg (Reg.DC_WAYMASK 8) 0x8000#32
    DcOpen s 70368744177663 ∧ s.dcLine 70368744177663 = some wLine64 ∧ DcOpen t 70368744177663 ∧ t.dcKey 70368744177663 = none
      ∧ t.dcMask 8 ≠ 0 ∧ [1#8] ≠ [] ∧ 63 + [1#8].length ≤ 64 := by
  refine ⟨?_, by decide, ?_, by decide, by decide, by decide, by decide⟩ <;> (unfold DcOpen; decide)

theorem witness_dcCompletions :
    let f : Fill := { line := 70368744177663, key := some (16 * 16383), cls := 8, lo := some (List.replicate 32 0#8) }
    let w : Wt := { id := 3, line := 70368744177663, off := 0, data := [1#8], owner := .bittern, ctx := none, cls := 8 }
    let s := wDc { state := .run, fills := [f] }
    let t := wDc { state := .run, wt := [w, { w with id := 4 }] }
    let u := wDc { state := .run, evb := [70368744177663] }
    s.hl.attach = .attached ∧ s.sump.fatal = false ∧ s.dc.fills = [f] ∧ f.hi = none ∧ f.agent = none ∧ 70368744177663 ∉ s.dc.evb
      ∧ tfind s.dc.lines (16 * 16383) = none ∧ t.dc.wt = w :: [{ w with id := 4 }] ∧ w.zero = none ∧ w.owner = .bittern ∧ t.dc.op = none
      ∧ u.dc.evb = [70368744177663] ∧ u.dc.fills = [] ∧ u.dc.op = none := by decide

theorem witness_hostSnoops :
    let s := wDc { state := .run, lines := [(16 * 16383 + 15, wLine64)] }
    let t := wDc { state := .init }
    s.hl.up = true ∧ s.dc.state ≠ .off ∧ (s.dcKey 70368744177663).isSome = true ∧ t.dcKey 70368744177663 = none ∧ t.dc.state = .init
      ∧ t.dc.op = none := by decide

/-- Line 5 stands in its slice; core 103 may hold it. -/
def wHeld (k : Option CLine) (c : CohSt) : State :=
  { State.reset with
    slice := [(80, { line := 5, data := List.replicate 128 1#8 })]
    cores := (k.map fun l => [(103, ({ cc := [(40, l)] } : Core))]).getD []
    coh := c }

def wCopy (st : Mesi) : CLine := ⟨5, st, List.replicate 128 2#8, 0⟩

theorem witness_coreCacheRequests :
    let s := wHeld none {}
    Claims.Held s 5 { line := 5, data := List.replicate 128 1#8 } ∧ Fresh s (103 : Fin 104) 0#8 ∧ s.holders 5 = []
      ∧ ([Mesi.s, .e, .m].all fun st =>
        let t := wHeld (some (wCopy st)) {}
        t.holders 5 == [103] && (t.core (103 : Fin 104)).ccLine 5 == some (wCopy st) && t.sLine 5 == s.sLine 5) = true
      ∧ (∀ st, Claims.Held (wHeld (some (wCopy st)) {}) 5 { line := 5, data := List.replicate 128 1#8 })
      ∧ (wCopy .m).line = 5 ∧ (wCopy .m).poison = 0 ∧ 127 + [1#8].length ≤ 128 := by
  refine ⟨by unfold Claims.Held; decide, by unfold Fresh; decide, by decide, by decide, ?_, by decide, by decide, by decide⟩
  intro st
  cases st <;> (unfold Claims.Held; decide)

theorem witness_staleMessages :
    ¬ Fresh (wHeld none {}) (103 : Fin 104) 255#8 ∧ (wHeld none {}).sump.fatal = false ∧ populated (128 * 5) = true
      ∧ (List.replicate 128 0#8).length = 128
      ∧ Instr.wbm 103 255#8 5 ∈ [Instr.rds 103 255#8 (.hbm 5) 0 .clean, .wbm 103 255#8 5] := by
  refine ⟨by unfold Fresh; decide, by decide, by decide, by decide, by decide⟩

/-- Line 5, and the first address of the hole of stack 0. -/
theorem witness_nonCachingAccesses :
    Claims.Held (wHeld none {}) 5 { line := 5, data := List.replicate 128 1#8 } ∧ (wHeld none {}).holders 5 = [] ∧ 120 % 8 = 0
      ∧ (AtomOp.cas ≠ .radd64 ∧ AtomOp.cas ≠ .fadd ∧ AtomOp.cas ≠ .fmin ∧ AtomOp.cas ≠ .fmax)
      ∧ State.reset.sump.fatal = false ∧ populated (128 * 0x18000000) = false ∧ coreStoreAt (128 * 0x18000000) = none
      ∧ inRegFile (128 * 0x18000000) = false := by
  refine ⟨by unfold Claims.Held; decide, by decide, by decide, by decide, by decide, by decide, by decide, by decide⟩

theorem witness_snoopsAndHolds :
    ([SnpKind.inv, .shr, .cur].all fun kind =>
      let s := wHeld (some (wCopy .m)) { snoops := [⟨103, 5, kind, false⟩], holds := if kind = .inv then [(103, 5)] else [] }
      s.coh.snoops == [⟨103, 5, kind, false⟩] && s.coh.open_.isEmpty && (s.sLine 5).isSome
        && (s.core (103 : Fin 104)).ccLine 5 == some (wCopy .m) && decide ((103, 5) ∈ s.coh.holds) == decide (kind = .inv)) = true
      ∧ (wCopy .m).line = 5 ∧ (wCopy .m).st = .m
      ∧ (103, 5) ∉ (wHeld (some (wCopy .m)) { snoops := [⟨103, 5, .inv, false⟩] }).coh.holds := by decide

theorem witness_grantsAndAcks :
    let g : Grant := ⟨103, 5, .m, List.replicate 128 3#8, 0, 127, [9#8]⟩
    let s := wHeld (some (wCopy .s)) { grants := [g], open_ := [{ line := 5, kind := .upg, core := some 103 }] }
    let a := wHeld none { acks := [(103, 5)], open_ := [{ line := 5, kind := .upg, core := some 103 }] }
    let h := wHeld none { holds := [(103, 5)] }
    let n := wHeld none { snoops := [⟨103, 5, .inv, false⟩] }
    let w := wHeld none { walk := [(3, ⟨103, 1, none⟩)] }
    s.coh.grants = [g] ∧ g.core = (103 : Fin 104).val ∧ g.line = 5 ∧ g.poison = 0 ∧ g.st = .m
      ∧ (s.core (103 : Fin 104)).ccLine 5 = some (wCopy .s) ∧ a.fld (Reg.DIR_EPOCH 3 25) 7 0 = 0 ∧ a.coh.acks = [(103, 5)]
      ∧ a.coh.waiting = [] ∧ h.coh.holds = [(103, 5)] ∧ h.coh.snoops = [] ∧ n.coh.snoops = [⟨103, 5, .inv, false⟩]
      ∧ (n.core (103 : Fin 104)).ccLine 5 = none ∧ n.coh.open_ = [] ∧ tfind w.coh.walk (3 : Fin 4).val = some ⟨103, 1, none⟩ ∧ 0 < 1 := by
  decide

/-! ### Witnesses: lists, chunks and the Silt codecs -/

/-- Context 0 has a flat segment of 64 MiB at HBM address 0 with every right. -/
def wFlat (hbm : Tbl Byte) : State :=
  { ((State.reset.setCfg (Reg.XLAT_SEG_W0 0 0) 0x8E0000FF#32).setCfg (Reg.XLAT_SEG_W1 0 0) 0x3FF#32) with
    ctx := [(0, { state := .running })], hctl := [(0, { state := .run })], tokens := [(0, 1000), (1, 1000)], hbm := hbm }

def wUnits (ws : List Nat) : List (List Byte × Bool) :=
  (List.range ((ws.length + 7) / 8)).map fun i => (rowBytes (ws.drop (8 * i)), false)

/-- A list of one descriptor that runs at entry 63 of copy engine 2. -/
def wCList (ws : List Nat) : CList := { id := 0, ctx := 0, units := wUnits ws, lcore := none, cmd := none, st := .running, open_ := true }

def wListAt (hbm : Tbl Byte) (ws : List Nat) : State := { wFlat hbm with lists := [(2 * 64 + 63, wCList ws)] }

def bytesAt (a : Nat) (bs : List Byte) : Tbl Byte := tsets (fun _ => 0#8) [] a bs

/-- The list has reached its descriptor, whose TYPE is `ty`, and its first chunk goes through. -/
def chunkB (hbm : Tbl Byte) (ws : List Nat) (ty : Nat) : Bool :=
  let l := wCList ws
  let s := wListAt hbm ws
  let d := descAt false l.units l.unit
  s.list (listKey 2 63) == some l && decide (l.unit < l.units.length) && !s.sump.fatal && d.ty == ty && l.open_ && !l.hold
    && decide (l.off < d.extent)
    && (match (s.ceChunk (chunkEnv s (2 : Fin 16) (63 : Fin 64) l d [])).1 with
      | .ok _ => true
      | _ => false)
    && (s.ceChunk (chunkEnv s (2 : Fin 16) (63 : Fin 64) l d [])).2.dc.wt.isEmpty

theorem witness_copyChunk : chunkB [] [0x02, 0, 0x1000, 0, 0x2000, 0, 1] 0x02 = true := by decide
/-- A source line that holds poison. -/
theorem witness_copyStops :
    let l := wCList [0x02, 0, 0x1000, 0, 0x2000, 0, 1]
    let s : State := { wListAt [] [0x02, 0, 0x1000, 0, 0x2000, 0, 1] with hbmBad := [(0x40, true)] }
    let d := descAt false l.units l.unit
    s.list (listKey 2 63) = some l ∧ l.unit < l.units.length ∧ s.sump.fatal = false ∧ d.ty = 2 ∧ l.open_ = true ∧ l.off < d.extent
      ∧ l.hold = false ∧ (s.ceChunk (chunkEnv s (2 : Fin 16) (63 : Fin 64) l d [])).1 = .stop 0xA := by decide

theorem witness_zeroChunk : chunkB [] [0x03, 0, 0, 0, 0x2000, 0, 128] 0x03 = true := by decide
theorem witness_inlineChunk : chunkB [] [0x04, 0, 0, 0, 0x2000, 0, 0, 0, 5] 0x04 = true := by decide
theorem witness_atomicChunk : chunkB [] [0x08, 0x300000, 0x1000, 0, 7, 0, 0, 0, 0x2000, 0] 0x08 = true := by decide
theorem witness_convertChunk : chunkB [] [0x10, 0x100000, 0x1000, 0, 0x2000, 0, 0, 0, 0, 0, 32, 0, 0, 0, 0, 0] 0x10 = true := by decide
theorem witness_siltLEncChunk : chunkB [] [0x18, 0, 0x1000, 0, 0x2000, 0, 0, 0, 0x3000, 0, 64, 0, 0, 0, 0, 0] 0x18 = true := by decide
theorem witness_siltZEncChunk : chunkB [] [0x1A, 0, 0x1000, 0, 0x2000, 0, 0, 0, 0x3000, 0, 64, 0, 0, 0, 0, 0] 0x1A = true := by decide
theorem witness_siltQEncChunk : chunkB [] [0x1C, 0x600000, 0x1000, 0, 0x2000, 0, 0x4000, 0, 0, 0, 32, 0, 0, 0, 0, 0] 0x1C = true := by decide
theorem witness_siltLDecChunk :
    chunkB (bytesAt 0x1000 (siltHeader 1 0 0 64 ++ siltLFrame 0 65 (List.replicate 64 0#8)))
      [0x19, 0, 0x1000, 0, 0x2000, 0, 0, 0, 0, 0, 64, 0, 0, 0, 0, 0] 0x19 = true := by decide
theorem witness_siltZDecChunk :
    chunkB (bytesAt 0x1000 (siltHeader 3 0 0 64 ++ siltZFrame (List.replicate 64 0#8)))
      [0x1B, 0, 0x1000, 0, 0x2000, 0, 0, 0, 0, 0, 64, 0, 0, 0, 0, 0] 0x1B = true := by decide
theorem witness_siltQDecChunk :
    chunkB (bytesAt 0x1000 (siltHeader 2 6 0 32))
      [0x1D, 0, 0x1000, 0, 0x2000, 0, 0, 0, 0, 0, 32, 0, 0, 0, 0, 0] 0x1D = true := by decide

theorem witness_nopAndFence :
    ([0, 1].all fun ty =>
      let l := wCList [ty]
      let s := wListAt [] [ty]
      s.list (listKey 2 63) == some l && decide (l.unit < l.units.length) && !s.sump.fatal && (descAt false l.units l.unit).ty == ty
        && l.open_) = true := by decide

theorem witness_lists :
    let s : State := { (wCore [] fun k => { k with enq := some (2, 0, 32) }) with lists := [(2 * 64, wCList [1])] }
    let a : State := { State.reset with lists := [(2 * 64, { wCList [1] with st := .accepted })] }
    let f := { wCList [1] with fins := [⟨255, some 79⟩] }
    let c : State := { State.reset with lists := [(19 * 64 + 63, f)] }
    (s.core (0 : Fin 104)).enq = some (2, 0, 32) ∧ s.sump.fatal = false ∧ (s.core (0 : Fin 104)).isolated = false
      ∧ (s.core (0 : Fin 104)).pwr = .run ∧ s.listRoom 2 ((s.core (0 : Fin 104)).ctx.getD 0) 32 = some 1
      ∧ (s.core (0 : Fin 104)).row + 1 < (s.core (0 : Fin 104)).rows
      ∧ a.nextStart (2 : Fin 20) = some (2 * 64, { wCList [1] with st := .accepted })
      ∧ ((a.engLists (2 : Fin 20)).filter fun q => decide (q.2.st = .running ∨ q.2.st = .gated)).length < runLimit (2 : Fin 20)
      ∧ c.list (listKey (19 : Fin 20) (63 : Fin 64)) = some f ∧ f.fins = [⟨(255#8).toNat, some 79⟩] ∧ (255#8).toNat ∉ f.sigged
      ∧ c.descQuiet (listKey (19 : Fin 20) (63 : Fin 64)) f 255 = true ∧ f.unit < f.units.length ∧ f.st = .running := by decide

theorem witness_siltFrames :
    let bs := (List.range 16).flatMap fun i => leBytes 4 (0x3F800000 + 0x1000 * i)
    bs.length ≤ 4096 ∧ bs.length % siltLWidth 0 = 0 ∧ (siltLFrame 0 65 bs).length ≤ 50 ∧ bs.length % 8 = 0 ∧ (siltZFrame bs).length ≤ 65 := by
  decide

/-! ### Witnesses: lodes -/

def wL (k : LodeSt) : State := { State.reset with lodes := [(15, k)], rst := { ready := true } }

theorem witness_lodeStates :
    let p := wL { state := .probe, backoff := 64 }
    let t := wL { state := .train, inbox := [(6, 2 ^ 118)], infoTx := true }
    let u := wL { state := .train, retrains := 255 }
    let o := (wL { state := .off }).setBit (Reg.LODE_CTL 15) 0 true
    LodeIn p 15 .probe ∧ p.sedge.state ≠ .error ∧ p.sedge.state ≠ .decommissioned ∧ LodeIn t 15 .train
      ∧ (t.lode (15 : Fin 16)).inbox = [(6, 2 ^ 118)] ∧ (t.lode (15 : Fin 16)).infoTx = true
      ∧ (t.lode (15 : Fin 16)).retrains < t.fld (Reg.LODE_QCTL1 (15 : Fin 16)) 15 8 ∧ LodeIn u 15 .train
      ∧ u.fld (Reg.LODE_QCTL1 (15 : Fin 16)) 15 8 ≤ (u.lode (15 : Fin 16)).retrains ∧ LodeIn o 15 .off ∧ o.rst.ready = true
      ∧ o.bit (Reg.LODE_CTL (15 : Fin 16)) 0 = true ∧ LodeIn (wL { state := .dark }) 15 .dark
      ∧ (wL { state := .dark }).bit (Reg.LODE_CTL (15 : Fin 16)) 0 = false ∧ LodeIn (wL { state := .quarantine, latched := true }) 15 .quarantine
      ∧ LodeIn (wL { state := .quarantine }) 15 .quarantine := by
  unfold LodeIn
  decide

/-- Fragments of 3 bytes: one that begins a message of 4 bytes, and one that is a whole message. -/
theorem witness_authentication :
    let b (n : Nat) := 3 * 2 ^ 112 + n
    let s (k : LodeSt) : State := { wL { k with state := .auth } with sedge := { state := .approved } }
    let f := s { inbox := [(7, b 1)] }
    let w := s { inbox := [(7, b 0)], authStep := 2 }
    let c := s { inbox := [(7, b 0)] }
    LodeIn f 15 .auth ∧ f.sedge.state ≠ .selftest ∧ (f.lode (15 : Fin 16)).inbox = [(7, b 1)]
      ∧ bitsOf (b 1) 127 120 = (f.lode (15 : Fin 16)).authFrag ∧ bitsOf (b 1) 119 112 = 3 ∧ b 1 % 2 ^ 112 < 2 ^ (8 * 3)
      ∧ ofLe ((leBytes 3 1).take 2) ≤ 3000 ∧ (leBytes 3 1).length < 3 + ofLe ((leBytes 3 1).take 2)
      ∧ LodeIn w 15 .auth ∧ (w.lode (15 : Fin 16)).inbox = [(7, b 0)] ∧ bitsOf (b 0) 119 112 = 3
      ∧ (leBytes 3 0).length = 3 + ofLe ((leBytes 3 0).take 2) ∧ (w.lode (15 : Fin 16)).authStep = 2
      ∧ (w.lode (15 : Fin 16)).authDone = false ∧ LodeIn c 15 .auth ∧ (c.lode (15 : Fin 16)).authStep = 0
      ∧ (c.lode (15 : Fin 16)).authFails + 1 < max 1 (c.fld (Reg.LODE_QCTL1 (15 : Fin 16)) 3 0)
      ∧ ((s { authDone := true }).lode (15 : Fin 16)).authDone = true ∧ (s { authDone := true }).sedgeServes = true
      ∧ max 1 ((s { authFails := 15 }).fld (Reg.LODE_QCTL1 (15 : Fin 16)) 3 0) ≤ ((s { authFails := 15 }).lode (15 : Fin 16)).authFails + 1 := by
  unfold LodeIn
  decide

theorem witness_blocksArrive :
    let s := wL { state := .active, e := 2 ^ 14 + 8191, cctrRx := some 5 }
    let h (ty n : Nat) : BitVec 40 := BitVec.ofNat 40 (ty * 2 ^ 38 + n * 2 ^ 24 + 33)
    let t := wL { state := .active, tag := 255 }
    LodeIn s 15 .active ∧ bitsOf (h 0 8191).toNat 7 0 ≤ fillMax (s.lode (15 : Fin 16)).rxw ∧ bitOf (h 0 8191).toNat 9 = false
      ∧ bitsOf (h 0 8191).toNat 39 38 = 0 ∧ bitsOf (h 0 8191).toNat 37 24 = (s.lode (15 : Fin 16)).e % 2 ^ 14
      ∧ 8191 ≤ (s.lode (15 : Fin 16)).e ∧ bitsOf (h 0 0).toNat 37 24 = ((s.lode (15 : Fin 16)).e - 8191) % 2 ^ 14
      ∧ bitsOf (h 0 16383).toNat 37 24 = ((s.lode (15 : Fin 16)).e + 8192) % 2 ^ 14
      ∧ bitsOf (h 1 0).toNat 39 38 = 1 ∧ (6#64).toNat < 2 ^ 63 ∧ State.msgOk true false 4#32 0#128 = true ∧ (4#32 : Word) ≠ 0#32
      ∧ (∀ x, (s.lode (15 : Fin 16)).cctrRx = some x → x < (6#64).toNat) ∧ (s.lode (15 : Fin 16)).cctrRx = some 5 ∧ (5#64).toNat ≤ 5
      ∧ LodeIn t 15 .active ∧ t.fld (Reg.LODE_QCTL1 (15 : Fin 16)) 31 24 ≤ (t.lode (15 : Fin 16)).tag
      ∧ (∀ x, (t.lode (15 : Fin 16)).cctrRx = some x → x < (6#64).toNat)
      ∧ 7 < ((([0, 2, 4, 6, 8, 10, 12, 14] : List (Fin 544)).map (·.val)).eraseDups.filter fun i => decide (i % 2 = 0)).length
      ∧ (s.lode (15 : Fin 16)).ue < s.fld (Reg.LODE_QCTL0 (15 : Fin 16)) 31 16
      ∧ LodeIn (wL { state := .auth }) 15 .auth ∧ bitsOf (h 2 0).toNat 39 38 = 2 ∧ State.msgOk false false 7#32 0#128 = true := by
  refine ⟨by unfold LodeIn; decide, by decide, by decide, by decide, by decide, by decide, by decide, by decide, by decide, by decide,
    by decide, by decide, fun x hx => ?_, by decide, by decide, by unfold LodeIn; decide, by decide, fun x hx => ?_, by decide, by decide,
    by unfold LodeIn; decide, by decide, by decide⟩
  · have hx : some 5 = some x := hx
    cases hx
    decide
  · have hx : none = some x := hx
    cases hx

theorem witness_blocksLeave :
    let b : Blk := ⟨9, 33, [], 1⟩
    let m := wL { state := .active, mark := some 7 }
    let r := wL { state := .active, resend := [9], replay := [b] }
    let z := wL { state := .active, replay := [b], timeouts := 7 }
    LodeIn m 15 .active ∧ (m.lode (15 : Fin 16)).setDue = false ∧ (m.lode (15 : Fin 16)).mark = some 7 ∧ LodeIn r 15 .active
      ∧ (r.lode (15 : Fin 16)).mark = none ∧ (r.lode (15 : Fin 16)).msgs = [] ∧ (r.lode (15 : Fin 16)).resend = [9]
      ∧ (r.lode (15 : Fin 16)).replay.find? (fun b => decide (b.n = 9)) = some b ∧ (r.lode (15 : Fin 16)).replay ≠ []
      ∧ (r.lode (15 : Fin 16)).timeouts < 7 ∧ LodeIn z 15 .active ∧ (z.lode (15 : Fin 16)).replay ≠ [] ∧ (z.lode (15 : Fin 16)).timeouts = 7
      ∧ (z.lode (15 : Fin 16)).retrains < z.fld (Reg.LODE_QCTL1 (15 : Fin 16)) 15 8 := by
  unfold LodeIn
  decide

theorem witness_messagesAndWidths :
    let i (m : Nat × Nat) := wL { state := .active, inbox := [m] }
    let k : LodeSt := { state := .active, lock := 255 }
    let lost := { k with lock := clearBitIn k.lock 7 }
    let worn := { k with degraded := setBitIn k.degraded 7 }
    LodeIn (wL k) 15 .active ∧ ((i (2, 5)).lode (15 : Fin 16)).inbox = [(2, 5)] ∧ ((i (5, 5)).lode (15 : Fin 16)).inbox = [(5, 5)]
      ∧ ((i (8, 0)).lode (15 : Fin 16)).inbox = [(8, 0)] ∧ ((i (4, 2 ^ 127)).lode (15 : Fin 16)).inbox = [(4, 2 ^ 127)]
      ∧ ((i (4, 2 ^ 127)).lode (15 : Fin 16)).txw < bitsOf (2 ^ 127) 127 126 ∧ groupOk 2 3 = true ∧ lost.lock ≠ 0 ∧ worn.lock ≠ 0
      ∧ 7 ∈ groupLanes k.rxw k.rxg ∧ chooseWidth lost.usable ((wL k).fld (Reg.LODE_CTL (15 : Fin 16)) 5 4) = some (1, 0)
      ∧ chooseWidth worn.usable ((wL k).fld (Reg.LODE_CTL (15 : Fin 16)) 5 4) = some (1, 0)
      ∧ ((wL k).lode (15 : Fin 16)).txw = 0 ∧ ((wL k).lode (15 : Fin 16)).txg = 0
      ∧ (let t := wL { k with trying := 128 }
        bitOf (t.lode (15 : Fin 16)).trying 7 = true ∧ bitOf (t.lode (15 : Fin 16)).lock 7 = true)
      ∧ (let t := wL { k with want := some (1, 0), asks := 3 }
        (t.lode (15 : Fin 16)).want = some (1, 0) ∧ (t.lode (15 : Fin 16)).asks < 4) := by
  unfold LodeIn
  decide

/-- The slot of the mailbox. -/
def wSrc : CmdSrc := ⟨0xFFFF, 0⟩

/-- A command of the mailbox at the admin class with a code and parameter bytes. -/
def wCmd (op : Nat) (par : List (Nat × Nat × Nat)) (ctx : Nat := 0) (part : Nat := 0) (cls : Nat := 15) : Cmd :=
  { id := 5, src := ⟨0xFFFF, 0⟩, cls := cls, head := 0
    bytes := par.foldl (fun bs p => bs.take (0x10 + p.1) ++ leBytes p.2.1 p.2.2 ++ bs.drop (0x10 + p.1 + p.2.1))
      (leBytes 2 op ++ [0#8, 0#8] ++ leBytes 4 77 ++ leBytes 2 ctx ++ leBytes 2 part ++ List.replicate 244 0#8) }

def wWait (c : Cmd) (s : State) : State := { s with vci := { s.vci with up := true, cmds := [c], dead := [] } }

theorem waiting_of (s : State) (c : Cmd)
    (h : s.sump.fatal = false ∧ c.ran = false) : Waiting (wWait c s) c.src c.opcode c := by
  refine ⟨h.1, by simp [wWait, State.bitternUp], ?_⟩
  simp [wWait, h.2]

theorem witness_lodeCommands :
    let c (f v : Nat) := wCmd 0x000A [(0, 1, 15), (1, 1, f), (2, 1, v)]
    let s (k : LodeSt) := wL k
    (∀ f v k, Waiting (wWait (c f v) (s k)) ⟨0xFFFF, 0⟩ 0x000A (c f v)) ∧ (c 3 0x34).par 0 1 = (15 : Fin 16).val ∧ (c 1 0).par 1 1 = 1
      ∧ ((s { state := .dark }).lode (15 : Fin 16)).disable = none ∧ ((s { state := .dark }).lode (15 : Fin 16)).state = .dark
      ∧ (s { state := .dark }).fld (Reg.LODE_CTL (15 : Fin 16)) 5 4 ≠ 3 ∧ (c 0 0).par 1 1 = 0
      ∧ ((s { state := .active }).lode (15 : Fin 16)).state = .active ∧ (c 2 0).par 1 1 = 2
      ∧ ((s { state := .quarantine, latched := true }).lode (15 : Fin 16)).latched = true ∧ (c 3 0x24).par 1 1 = 3
      ∧ (s { state := .dark }).bit (Reg.LODE_CTL (15 : Fin 16)) 0 = false ∧ bitsOf ((c 3 0x24).par 2 1) 5 4 ≠ 3
      ∧ bitsOf ((c 3 0x30).par 2 1) 5 4 = 3 := by
  refine ⟨fun f v k => waiting_of (wL k) _ ⟨rfl, rfl⟩, ?_⟩
  decide

theorem witness_lodeDrain :
    let c := { wCmd 0x000A [(0, 1, 15)] with ran := true }
    let s := wWait c (wL { state := .dark, disable := some c })
    s.sump.fatal = false ∧ s.bitternUp = true ∧ c.opcode = 0x000A
      ∧ s.vci.cmds.find? (fun d => decide (d.src = ⟨0xFFFF, 0⟩) && d.ran
        && decide (d.opcode ∈ [0x0002, 0x0003, 0x000A, 0x0102, 0x0201, 0x0302, 0x0501])) = some c := by decide

/-! ### Witnesses: the fabric -/

/-- Device 5, endpoint 7: connection 4095 of region 3 is OPEN to endpoint 2 of device 9, and handle 0 of context 0 covers 64 KiB
of HBM from address 0 on. -/
def wFab (k : Conn) (rx : List (Option Nat × Pkt)) : State :=
  let s := (((wFlat []).setCfg (Reg.FAB_ID 0) (BitVec.ofNat 32 (2 ^ 31 + 5 * 256 + 7))).setCfg (connReg 4095 0)
    (BitVec.ofNat 32 (4 * 65536 + 0xF000))).setCfg (connReg 4095 1) (BitVec.ofNat 32 (9 * 256 + 2))
  let s := s.setCfg (connReg 4095 2) (BitVec.ofNat 32 (77 * 65536 + 100))
  { s with fab := {
      conns := [(4095, { k with state := .opened })]
      handles := [(0, ⟨1, 0, 0, 0, 65536, true, true, true, 0, 2⟩)]
      rx := [(3, rx)] } }

/-- A packet of the peer to the connection, with its CRC. -/
def wPkt (ty op : Nat) (payload : List Byte) (psn : Nat := 0) : Pkt :=
  ({ ty := ty, len := payload.length / 16, dstId := 5, dstEp := 7, dstConn := 4095, srcId := 9, srcEp := 2, psn := psn, cgen := 4
     op := op, payload := payload } : Pkt).sealed

theorem witness_connTimeouts :
    let h : HeldPkt := { pkt := wPkt 6 0 [] }
    let s := wFab { held := [h] } []
    let t := wFab { held := [h], timeouts := 255 } []
    ConnOpen s (4095 : Fin 4096) ∧ (s.conn (4095 : Fin 4096)).held ≠ []
      ∧ (s.conn (4095 : Fin 4096)).timeouts + 1 < s.retryMax ((4095 : Fin 4096) / 1024) ∧ ConnOpen t (4095 : Fin 4096)
      ∧ (t.conn (4095 : Fin 4096)).held ≠ [] ∧ t.retryMax ((4095 : Fin 4096) / 1024) ≤ (t.conn (4095 : Fin 4096)).timeouts + 1
      ∧ s.pickLode (4095 : Fin 4096) = none ∧ State.reset.fab.conns = [] := by
  unfold ConnOpen
  decide

/-- The packet is admitted, in order and well-formed, and its row applies it. -/
def appliesB (i : Instr) (p : Pkt) (f : State → State) : Bool :=
  let s := f (wFab {} [(none, p)])
  decide (s.rxQueue 3 = [(none, p)] ∧ s.sump.fatal = false ∧ (s.conn p.dstConn).state = .opened ∧ s.loopback p.dstConn = false
    ∧ p.dstConn / 1024 = 3 ∧ s.devOk = true ∧ p.dstId = s.devId ∧ p.dstEp = s.devEp ∧ s.wrongPartner none p = false ∧ p.crc = p.sum
    ∧ s.peerId p.dstConn = p.srcId ∧ s.connGen p.dstConn = p.cgen ∧ p.srcEp = s.peerEp p.dstConn
    ∧ psnFrom (s.conn p.dstConn).rx p.psn = 0 ∧ (s.conn p.dstConn).spent < s.creditInit p.dstConn ∧ p.malformed = false)
  && match applyOf (3 : Fin 4) i with
    | some (ty, apply) => decide (p.ty = ty) && (match apply (s.setRx (3 : Fin 4) []) p with
      | (.applied _, u) => !u.loopback p.dstConn
      | _ => false)
    | none => false

theorem admitted_of (i : Instr) (p : Pkt) (f : State → State) (h : appliesB i p f = true) :
    Admitted (f (wFab {} [(none, p)])) (3 : Fin 4) none p [] := by
  unfold appliesB at h
  simp only [Bool.and_eq_true, decide_eq_true_eq] at h
  obtain ⟨⟨h1, h2, h3, h4, h5, h6, h7, h8, h9, h10, h11, h12, h13, -⟩, -⟩ := h
  exact ⟨h1, ⟨h2, h3, h4⟩, h5, h6, h7, h8, h9, h10, h11, h12, h13⟩

/-- The first bytes of the handle, and its last. -/
theorem witness_packetsWriteAndRead :
    appliesB (.write 3) (wPkt 1 (opHandle 0x10000 65520 0) (List.replicate 16 9#8)) id = true
      ∧ appliesB (.readReq 3) (wPkt 2 (opHandle 0x10000 65408 (7 * 2 ^ 12)) []) id = true
      ∧ appliesB (.readRsp 3) (wPkt 3 (opHandle 0 0 (1023 * 2 ^ 12)) (List.replicate 128 3#8))
        (fun s => { s with fab := { s.fab with tags := [(1024 * 3 + 1023, ⟨64, 0, 0, 0, 4095, 0x2000, 128, 0⟩)] } }) = true
      ∧ appliesB (.pegSig 3) (wPkt 6 (opHandle 0x10000 0 0) []) id = true := by decide

theorem witness_packetsReduce :
    appliesB (.reduce 3) (wPkt 4 (opHandle 0x10000 0 0) (List.replicate 128 1#8)) id = true
      ∧ appliesB (.reduceQ 3) (wPkt 5 (opHandle 0x10000 0 (6 * 2 ^ 9)) (List.replicate 32 0#8)) id = true := by decide

/-- Another key, and a duplicate. -/
theorem witness_packetsRefused :
    let p := wPkt 1 (opHandle 0x20000 0 0) (List.replicate 16 9#8)
    let d := wPkt 6 (opHandle 0x10000 0 0) [] 0xFFFFFF
    let s := wFab {} [(none, p)]
    (∀ h, tfind s.fab.handles (p.o 111 96) = some h → h.key ≠ p.o 127 112 ∨ h.part ≠ s.connPart p.dstConn)
      ∧ p.malformed = false ∧ (s.conn p.dstConn).drops < s.fld (Reg.FAB_TIMING (3 : Fin 4)) 15 8
      ∧ 2 ^ 23 ≤ psnFrom ((wFab {} [(none, d)]).conn d.dstConn).rx d.psn ∧ d.crc = d.sum := by
  refine ⟨fun h hh => ?_, by decide, by decide, by decide, by decide⟩
  have hh : some (⟨1, 0, 0, 0, 65536, true, true, true, 0, 2⟩ : Handle) = some h := hh
  cases hh
  exact .inl (by decide)

theorem witness_acks :
    let p := wPkt 7 (5 * 2 ^ 72 + 1 * 2 ^ 19) []
    let b := wPkt 7 (5 * 2 ^ 72 + 1 * 2 ^ 64) []
    let s := wFab { tx := 6, credit := 94 } [(none, p)]
    p.ty = 7 ∧ s.ackOk p = true ∧ psnFrom (s.conn p.dstConn).unack (p.o 127 104) < 2 ^ 23
      ∧ (wFab { tx := 6, credit := 94 } [(none, b)]).ackOk b = false
      ∧ (s.conn p.dstConn).drops < s.fld (Reg.FAB_TIMING (3 : Fin 4)) 15 8
      ∧ p.crc = p.sum ∧ s.rxQueue 3 = [(none, p)] := by decide

/-- A list of one fabric descriptor at entry 63 of the transmit path of region 3. -/
def wFabList (ws : List Nat) : State := { wFab { credit := 10 } [] with lists := [(listKey 19 63, wCList ws)] }

/-- The first packet or chunk of a descriptor is formed, and it is not the last. -/
def formsB (ws : List Nat) (ty : Nat) : Bool :=
  let l := wCList ws
  let s := wFabList ws
  let d := descAt true l.units l.unit
  decide (s.list (listKey 19 63) = some l ∧ l.unit < l.units.length ∧ s.sump.fatal = false ∧ d.ty = ty ∧ l.off < d.fabExtent
      ∧ d.connNo = 4095 ∧ ((s.conn d.connNo).ready.length < (s.conn d.connNo).credit ∨ ty = 0x25))
    && match s.fabBases l.ctx d with
      | some (a, b) =>
        (match s.fabChunk ⟨listKey 19 63, l, d, ⟨.fabric (Fin.ofNat 4 (3 : Fin 4)), some l.ctx,
            if d.ty = 0x25 then s.ctxCls l.ctx else s.connPart d.connNo, none, .bittern⟩, a, b⟩ with
        | (.ok x, s') => !s'.loopback d.connNo && decide (x.off < d.fabExtent)
        | _ => false)
      | none => false

theorem witness_fsend : formsB [0x20, 0x0FFF0000, 0x1000, 0, 0x10000, 0, 0, 577] 0x20 = true := by decide
theorem witness_fget : formsB [0x21, 0x0FFF0000, 0x1000, 0, 0x10000, 0, 0, 32769] 0x21 = true := by decide
theorem witness_freduce : formsB [0x22, 0x0FFF0000, 0x1000, 0, 0x10000, 0, 0, 65] 0x22 = true := by decide
theorem witness_freduceQ : formsB [0x23, 0x0FFF0000, 0x1000, 0, 0x10000, 0, 0, 545, 0, 0, 0x700000, 0, 0, 0x2000] 0x23 = true := by decide
theorem witness_ffinish : formsB [0x25, 0x0FFF0000, 0x1000, 0, 0, 0, 0, 33, 0, 0, 0, 0, 0, 0x4000] 0x25 = true := by decide

theorem witness_fsig :
    let l := wCList [0x24, 0x0FFF0000, 0, 0, 0, 0, 0, 0, 0, 0x10001]
    let s := wFabList [0x24, 0x0FFF0000, 0, 0, 0, 0, 0, 0, 0, 0x10001]
    let d := descAt true l.units l.unit
    s.list (listKey 19 63) = some l ∧ d.ty = 0x24 ∧ l.open_ = true ∧ l.off = 0 ∧ l.hold = false
      ∧ (s.conn d.connNo).ready.length < (s.conn d.connNo).credit ∧ s.loopback d.connNo = false ∧ l.sigged = [] ∧ d.ty ≠ 0x25 := by decide

/-! ### Witnesses: commands on units -/

/-- The first and the last granule, the HDM range of a decoder that covers all eight stacks of R286, and lines at the top of the host
address space. -/
theorem witness_cacheCommands :
    let line := 2 ^ 46 - 1
    let c (op scope : Nat) := wCmd 0x0008 [(0, 1, op), (1, 1, scope), (8, 8, 64 * line)]
    let l : DLine := ⟨line, 0, 0, List.replicate 64 1#8, false⟩
    let s := wDc { state := .run, lines := [(16 * 16383, l)] }
    (∀ op scope, Waiting (wWait (c op scope) s) wSrc 0x0008 (c op scope)) ∧ s.dc.op = none ∧ s.hl.attach = .attached
      ∧ (c 1 0).par 1 1 = 0 ∧ (c 1 0).par 8 8 = 64 * line ∧ 64 * line < 2 ^ 52 ∧ s.dc.state = .run ∧ s.dc.wt = [] ∧ (c 1 0).par 0 1 = 1
      ∧ (c 2 0).par 0 1 = 2 ∧ (c 3 0).par 0 1 = 3 ∧ s.dc.lines = [(16 * 16383, l)] ∧ s.dc.evb = [] ∧ (c 0 2).par 1 1 = 2
      ∧ (c 0 3).par 1 1 = 3 ∧ (wDc { state := .maint }).dc.state = .maint ∧ (wDc {}).dc.state ≠ .init := by
  refine ⟨fun op scope => waiting_of (wDc _) _ ⟨rfl, rfl⟩, ?_⟩
  decide

theorem witness_biasCommands :
    let c (h : Nat) := wCmd 0x0009 [(0, 4, 0), (4, 4, 2), (8, 1, h)]
    let s : State := { State.reset with hl := { attach := .attached, dec := [(0, { size := 0x400000, ways := 1, committed := true })] } }
    let r : State := { s with hl := { s.hl with bias := some ⟨0, 2, false, c 0⟩ } }
    (∀ h, Waiting (wWait (c h) s) wSrc 0x0009 (c h)) ∧ (c 1).par 0 4 = 0 ∧ (c 1).par 4 4 = 2 ∧ 0 + 2 ≤ 196608 ∧ s.coh.open_ = []
      ∧ s.coh.waiting = [] ∧ s.hl.bias = none ∧ bitOf ((c 1).par 8 1) 0 = true ∧ (∀ g, g < 2 → s.granuleInHdm g = true)
      ∧ s.biasLines 0 2 = [] ∧ bitOf ((c 0).par 8 1) 0 = false ∧ (∀ g, g < 2 → s.granuleHost g = false)
      ∧ r.hl.bias = some ⟨0, 2, false, c 0⟩ ∧ (c 0).src = wSrc ∧ r.hl.attach = .attached ∧ r.sump.fatal = false := by
  refine ⟨fun h => waiting_of _ _ ⟨rfl, rfl⟩, ?_⟩
  decide

theorem witness_listCommands :
    let c (op : Nat) := wCmd op [(0, 1, 15), (1, 1, 1), (2, 2, 5)]
    let s := (wFlat []).setCfg (Reg.PART_CE 0) 0xFFFF#32
    let f := wCmd 0x0304 [(0, 1, 3), (1, 1, 1), (2, 2, 5)]
    let p : State := { wFlat [] with parts := [(0, { state := .active, record := List.replicate 1024 1#8 })] }
    let q : State := { wFlat [] with parts := [(0, { state := .active, record := List.replicate 1024 8#8 })] }
    (∀ op, Waiting (wWait (c op) s) wSrc (c op).opcode (c op)) ∧ (c 0x0300).opcode = 0x0300 ∧ (c 0x0301).opcode = 0x0301
      ∧ (c 0x0300).par 1 1 = 1 ∧ (c 0x0300).par 2 2 < 6 ∧ (c 0x0301).par 1 1 < 192 ∧ (c 0x0301).par 8 8 < 2 ^ 48
      ∧ s.engineOwned (s.context (c 0x0300).ctx).part ((c 0x0300).par 0 1) = true ∧ s.fenced (c 0x0300) = false
      ∧ s.listRoom (engineIndex ((c 0x0300).par 0 1)) 0 6 = some 0 ∧ s.listRoom (engineIndex ((c 0x0301).par 0 1)) 0 (inlineUnits (c 0x0301)).length = some 0
      ∧ (wFlat []).engineOwned 0 15 = false ∧ f.opcode = 0x0304 ∧ f.par 0 1 < 4
      ∧ q.partRec 0 (0x40 + 32 * f.par 0 1 + 0x12) 1 ≠ 0 ∧ q.listRoom (16 + f.par 0 1) 0 6 = some 0
      ∧ p.listRoom (16 + f.par 0 1) 0 258 = none := by
  refine ⟨fun op => waiting_of _ _ ⟨rfl, rfl⟩, ?_⟩
  decide

theorem witness_listCancelAndFence :
    let c := wCmd 0x0302 [(0, 2, 3), (2, 2, 9)]
    let d : Cmd := { wCmd 0x0300 [] with src := ⟨3, 9⟩, ran := true }
    let l := { wCList [1] with cmd := some d, fins := [⟨0, none⟩] }
    let s : State := { State.reset with lists := [(5, l)] }
    let f := wCmd 0x0303 []
    Waiting (wWait c s) wSrc 0x0302 c ∧ c.cls = 15 ∧ (wWait c s).listOfCmd ⟨c.par 0 2, c.par 2 2⟩ = some (5, l) ∧ s.list 5 = some l
      ∧ l.st = .running ∧ s.listQuiet 5 l = false ∧ l.cmd.map (·.src) = some ⟨c.par 0 2, c.par 2 2⟩
      ∧ State.reset.listOfCmd ⟨c.par 0 2, c.par 2 2⟩ = none ∧ (∀ e ∈ (wWait c State.reset).vci.cmds, e.submits = false)
      ∧ Waiting (wWait f State.reset) wSrc 0x0303 f
      ∧ (∀ e ∈ (wWait f State.reset).vci.cmds, e.submits = true → (wWait f State.reset).sameRing f e = true → f.id ≤ e.id) := by
  refine ⟨waiting_of _ _ ⟨rfl, rfl⟩, by decide, by decide, by decide, by decide, by decide, by decide, by decide, by decide,
    waiting_of _ _ ⟨rfl, rfl⟩, by decide⟩

theorem witness_pegCommands :
    let c (op j : Nat) := wCmd op [(0, 2, j), (2, 2, 0xFFFF), (4, 4, 0xFFFFFFFF)]
    let s := State.reset.setCfg (Reg.PEG_PART 0 0) 0x00200040#32
    (∀ op j, Waiting (wWait (c op j) s) wSrc (c op j).opcode (c op j)) ∧ (c 0x0400 31).par 2 2 ≠ 0 ∧ (c 0x0401 0).opcode = 0x0401
      ∧ (c 0x0402 0).opcode = 0x0402 ∧ (c 0x0403 0).opcode = 0x0403 ∧ (wWait (c 0x0400 31) s).pegOfPart (c 0x0400 31).part 31 = some 95
      ∧ (wWait (c 0x0400 32) s).pegOfPart (c 0x0400 32).part 32 = none := by
  refine ⟨fun op j => waiting_of _ _ ⟨rfl, rfl⟩, ?_⟩
  decide

/-- A connection of region 3 with 1,536 credits, and one with 1,537. -/
theorem witness_connOpen :
    let c (n : Nat) := wCmd 0x0500 [(0, 2, 4095), (2, 2, 4095), (4, 4, 2 ^ 18 - 1), (8, 1, 2), (9, 1, 3), (0xA, 2, 0xF000), (0xC, 2, n)]
    let s : State := { State.reset with parts := [(0, { state := .active, record := List.replicate 1024 6#8 })] }
    (∀ n, Waiting (wWait (c n) s) wSrc 0x0500 (c n)) ∧ (c 1536).par 0 2 = 4095 ∧ (c 1536).par 2 2 < 4096 ∧ (c 1536).par 4 4 < 2 ^ 18
      ∧ (c 1536).par 0xC 2 < 2048 ∧ (c 1536).par 0xA 2 % 2 ^ (4 * (4095 / 1024)) = 0 ∧ (c 1536).par 0xA 2 < 2 ^ (4 * (4095 / 1024) + 4)
      ∧ (s.conn 4095).state = .closed ∧ (s.conn 4095).close = none
      ∧ (∀ l, l < 16 → bitOf ((c 1536).par 0xA 2) l = true → (c 1536).par 0xC 2 + s.creditSum (fun e => bitOf (s.connLodes e) l) ≤ 1536)
      ∧ (c 1536).part < 8
      ∧ (c 1536).par 0xC 2 + s.creditSum (fun e => decide (e / 1024 = 4095 / 1024) && decide (s.connPart e = (c 1536).part))
        ≤ s.fcredit (c 1536).part (4095 / 1024)
      ∧ 15 < 16 ∧ bitOf ((c 1537).par 0xA 2) 15 = true
      ∧ 1536 < (c 1537).par 0xC 2 + s.creditSum (fun e => bitOf (s.connLodes e) 15) := by
  refine ⟨fun n => waiting_of _ _ ⟨rfl, rfl⟩, ?_⟩
  decide

theorem witness_connClose :
    let c := wCmd 0x0501 [(0, 2, 4095)]
    let s := wFab {} []
    Waiting (wWait c s) wSrc 0x0501 c ∧ c.par 0 2 = 4095 ∧ (s.conn 4095).state ≠ .closed ∧ s.connPart 4095 = c.part
      ∧ (s.conn 4095).close = none ∧ s.listsNaming 4095 = [] := by
  refine ⟨waiting_of _ _ ⟨rfl, rfl⟩, ?_⟩
  decide

theorem witness_handleCommands :
    let c := wCmd 0x0502 [(1, 1, 18), (8, 8, 2 ^ 48 - 2 ^ 36), (0x10, 8, 2 ^ 36)]
    let s := State.reset.setCfg (Reg.PART_T2_LIMIT 0) 1#32
    let d (k : Nat) := wCmd 0x0503 [(0, 4, k * 65536)]
    Waiting (wWait c s) wSrc 0x0502 c ∧ c.par 1 1 ≤ 18 ∧ c.par 8 8 % 128 = 0 ∧ c.par 0x10 8 % 128 = 0 ∧ 0 < c.par 0x10 8
      ∧ c.par 0x10 8 ≤ 2 ^ 36 ∧ c.par 8 8 + c.par 0x10 8 ≤ 2 ^ 48 ∧ s.useT2 (s.context c.ctx).part < s.limT2 (s.context c.ctx).part
      ∧ (∃ i, i < 65536 ∧ tfind s.fab.handles i = none) ∧ (∀ k, Waiting (wWait (d k) (wFab {} [])) wSrc 0x0503 (d k))
      ∧ tfind (wFab {} []).fab.handles ((d 1).par 0 4 % 65536) = some ⟨1, 0, 0, 0, 65536, true, true, true, 0, 2⟩
      ∧ (d 1).par 0 4 / 65536 = 1 ∧ (d 1).part = 0 ∧ 1 ≠ (d 2).par 0 4 / 65536 := by
  refine ⟨waiting_of _ _ ⟨rfl, rfl⟩, by decide, by decide, by decide, by decide, by decide, by decide, by decide, ⟨0, by decide, by decide⟩,
    fun k => waiting_of _ _ ⟨rfl, rfl⟩, by decide, by decide, by decide, by decide⟩

theorem witness_placementCommands :
    let c := wCmd 0x0504 [(0, 1, 15), (2, 2, 0xFFFF), (4, 2, 31), (8, 8, 0x10000), (0x10, 4, 0)]
    let s : State := { (State.reset.setCfg (Reg.PEG_PART 0 0) 0x00200040#32) with
      hl := { dec := [(0, { size := 0x10000000, ways := 1, committed := true })] } }
    let d := wCmd 0x0505 [(0, 1, 15)]
    let t := State.reset.setBit (Reg.FAB_PLACE_W0 0 15) 31 true
    Waiting (wWait c s) wSrc 0x0504 c ∧ c.par 0 1 = 15 ∧ c.par 8 8 % 65536 = 0 ∧ c.par 0x10 4 < 2 ^ 24
      ∧ inStack (c.par 8 8) ((c.par 0x10 4 + 1) * 65536) = true ∧ (s.pegOfPart c.part (c.par 4 2)).isSome = true
      ∧ (s.windows.any fun w => decide (w.1 ≤ c.par 8 8 ∧ c.par 8 8 + (c.par 0x10 4 + 1) * 65536 ≤ w.1 + w.2.1)) = true
      ∧ s.bit (Reg.FAB_PLACE_W0 0 15) 31 = false
      ∧ (∀ m ∈ handleArea :: s.saveAreas, meets (c.par 8 8, (c.par 0x10 4 + 1) * 65536) m = false) ∧ c.part < 8
      ∧ Waiting (wWait d t) wSrc 0x0505 d ∧ t.bit (Reg.FAB_PLACE_W0 0 15) 31 = true ∧ t.fld (Reg.FAB_PLACE_W0 0 15) 30 28 = d.part := by
  refine ⟨waiting_of _ _ ⟨rfl, rfl⟩, by decide, by decide, by decide, by decide, by decide, by decide, by decide, by decide, by decide,
    waiting_of _ _ ⟨rfl, rfl⟩, by decide, by decide⟩

/-! ### Witnesses: the host link -/

/-- The link is up and attached, one decoder maps the first 256 MiB of HBM from HPA 0 on, and line 5 stands in its slice. -/
def wHost (f : HlSt → HlSt) : State :=
  { wHeld none {} with hl := f { attach := .attached, up := true, dec := [(0, { size := 2 ^ 28, ways := 1, committed := true })] }
                       tokens := [(16, 1), (0, 1)], vci := { up := true } }

/-- Host line 11 is the upper half of line 5. -/
theorem witness_hostRequests :
    let s := wHost id
    let b := (wHost id).setBit (Reg.HL_BIAS 0) 0 true
    s.hl.up = true ∧ s.hl.viralRx = false ∧ s.hdmLine 11 = some (5, 1) ∧ Claims.Held s 5 { line := 5, data := List.replicate 128 1#8 }
      ∧ s.holders 5 = [] ∧ s.admits (homeOf 5) 8 false = true ∧ b.hdmLine 11 = some (5, 1) ∧ b.hostBias 5 = true ∧ b.hl.bias = none
      ∧ (List.replicate 64 0#8).length = 64 ∧ Instr.meminvnt 11 3 ∈ [Instr.meminv 11 3, .meminvnt 11 3] := by
  refine ⟨by decide, by decide, by decide, by unfold Claims.Held; decide, ?_⟩
  decide

theorem witness_fatalHostRequests :
    let s : State := { wHost id with sump := { fatal := true } }
    s.hl.up = true ∧ s.sump.fatal = true := by decide

theorem witness_linkEvents :
    let s := wHost id
    let r := (wHost fun h => { h with up := false, attach := .hold, held := [.write 64 [1#8]], conf := [(1, 4#32), (0x53, 1#32)] })
    let w : State := { wHost id with dc := { wt := [{ id := 3, line := 1, off := 0, data := [1#8], owner := .bittern, ctx := none, cls := 8 }] } }
    let h := wHost fun h => { h with attach := .hold }
    LinkUp s ∧ s.fld Reg.HL_CTL 15 0 ≠ 0 ∧ modsOk (8 : Fin 16) = true ∧ r.hl.up = false ∧ r.hl.attach = .hold ∧ r.hl.hr = false
      ∧ r.vci.up = true ∧ r.busMaster = true ∧ r.cacheEnable = true ∧ r.sump.fatal = false ∧ r.hl.held = [.write 64 [1#8]]
      ∧ r.dc.op = none ∧ w.sump.fatal = false ∧ w.hl.attach ≠ .detached ∧ w.hl.up = true ∧ h.hl.attach = .hold ∧ h.hl.up = true := by
  unfold LinkUp
  decide

theorem witness_configuration :
    let s := wHost fun h => { h with attach := .detached }
    let d : State := { wHost id with ctx := [(63, { state := .empty })] }
    s.hl.up = true ∧ s.hl.attach = .detached ∧ s.hl.pendIrq = [] ∧ s.noContexts = true ∧ d.noContexts = false := by decide

theorem witness_decoders :
    let s := wHost fun h => { h with dec := [] }
    s.inD3 = false ∧ (tget (fun _ => ({} : Decoder)) s.hl.dec 0).committed = false ∧ 2 ^ 40 % 2 ^ 28 = 0
      ∧ (0xC00000000 : Nat) % 2 ^ 28 = 0 ∧ (7 * 2 ^ 36 : Nat) < 2 ^ 39 ∧ (7 * 2 ^ 36) % 2 ^ 36 + 0xC00000000 ≤ 0xC00000000
      ∧ (2 ^ 28 + 1) % 2 ^ 28 ≠ 0 := by decide

theorem witness_l1AndVectors :
    let s := wHost fun h => { h with conf := [(0x20, 2#32)] }
    let v := wHost fun h => { h with conf := [(0x2C, 0x80000000#32)], pendIrq := [2047] }
    LinkUp s ∧ s.aspmL1 = true ∧ s.hl.l1 = false ∧ s.dc.wt = [] ∧ s.dc.fills = [] ∧ s.dc.evb = [] ∧ s.hl.reads = [] ∧ s.hl.held = []
      ∧ s.hl.bias = none ∧ LinkUp v ∧ v.inD3 = false ∧ v.msixEnable = true ∧ v.msixMaskAll = false ∧ v.hl.pendIrq = [(2047 : Fin 2048).val] := by
  unfold LinkUp
  decide

/-- Window 15: one page of 64 KiB, whose doorbell line is line 511 and whose peg is peg 31 of partition 0. -/
def wPlace : State :=
  let s := (wHost id).setCfg (Reg.PEG_PART 0 0) 0x00200040#32
  let s := ((s.setCfg (Reg.FAB_PLACE_W0 0 15) 0x8000FFFF#32).setCfg (Reg.FAB_PLACE_W1 0 15) 0#32).setCfg (Reg.FAB_PLACE_W3 0 15) 31#32
  { s with slice := [(511 * 16, { line := 511, data := List.replicate 128 0#8 })] }

theorem witness_placementWrites :
    let s := wPlace
    s.hl.up = true ∧ s.inD3 = false ∧ s.sump.fatal = false ∧ List.replicate 128 7#8 ≠ []
      ∧ s.dpaOf 0x10000 = some 0x10000 ∧ s.placeWindow 0xFFFF 0x10000 128 = none ∧ s.dpaOf (128 * 511) = some (128 * 511)
      ∧ s.placeWindow 0xFFFF (128 * 511) 128 = some 15
      ∧ 128 * (511 + 1) = (s.fld (Reg.FAB_PLACE_W1 0 15) 23 0 + s.fld (Reg.FAB_PLACE_W2 0 15) 23 0 + 1) * 65536
      ∧ Claims.Held s 511 { line := 511, data := List.replicate 128 0#8 } ∧ s.holders 511 = []
      ∧ s.admits (homeOf 511) (s.fld (Reg.FAB_PLACE_W0 0 15) 30 28) false = true
      ∧ s.pegOfPart (s.fld (Reg.FAB_PLACE_W0 0 15) 30 28) (s.fld (Reg.FAB_PLACE_W3 0 15) 14 0) = some 95 := by
  refine ⟨by decide, by decide, by decide, by decide, by decide, by decide, by decide, by decide, by decide,
    by unfold Claims.Held; decide, by decide, by decide, by decide⟩

theorem witness_hostTimeouts :
    let f : Fill := { line := 2 ^ 46 - 1, key := none, cls := 0, agent := some .bittern }
    let s : State := { wHost id with dc := { state := .run, fills := [f] } }
    s.hl.up = true ∧ s.sump.fatal = false ∧ (∀ e ∈ s.hl.reads, e.tag ≠ (1023 : Fin 1024).val) ∧ s.hl.attach = .attached
      ∧ s.dc.fills = [f] ∧ f.line = ((2 ^ 46 - 1 : Nat)) ∧ f.agent = some .bittern := by decide

/-! ### Witnesses: rings and commands -/

/-- Submission ring 255 of the admin class names completion ring 254. -/
def wRings (v : VciSt → VciSt) (reads : List HostRd := []) : State :=
  { State.reset with
    hl := { attach := .attached, up := true, mods := 15, reads := reads }
    vci := v { up := true, mbusy := false, sq := [(255, { cls := 15, log2 := 4, base := 0x1000, cq := 254, head := 15, tail := 3 })]
               cq := [(254, { event := false, cls := 15, log2 := 4, vec := 0, base := 0x8000, head := 14, tail := 15 })] } }

theorem witness_completionRecords :
    let s := wRings id
    let c : Cmd := { wCmd 0 [] with src := ⟨255, 9⟩ }
    (wCmd 0 []).src.sq = 0xFFFF ∧ s.sqAt 0xFFFF = none ∧ c.src.sq ≠ 0xFFFF ∧ (s.sqAt c.src.sq).isSome = true
      ∧ ((s.sqAt c.src.sq).all fun q => decide (q.since ≤ c.id) && q.barrier.isNone && q.closing.isNone
        && ((s.cqAt q.cq).any fun k => decide (k.vec = 0))) = true
      ∧ s.hl.attach = .attached := by decide

theorem witness_doorbells :
    let s := wRings id
    s.hostOpen = true ∧ (s.sqAt (255 : Fin 256)).isSome = true ∧ (15#32 : Word).toNat % 65536 < 2 ^ 4 ∧ s.hl.attach = .attached
      ∧ s.onStream 15 (8 : Fin 9) = true ∧ ((s.cqAt (254 : Fin 256)).any fun k => k.waiting.isEmpty && decide (k.lost = 0)) = true
      ∧ s.sqAt (0 : Fin 256) = none ∧ s.cqAt (0 : Fin 256) = none := by decide

/-- A slot of zeros is a NOP; one with a reserved bit is refused. -/
def wSlot (v : VciSt) : Cmd :=
  { id := v.nextCmd, src := ⟨0xFFFF, 0⟩, cls := 15, head := 0
    bytes := (List.range 64).flatMap fun w => leBytes 4 (tget (fun _ => 0#32) v.mslot w).toNat }

theorem witness_mailbox :
    let s := wRings id
    let b := wRings fun v => { v with mbusy := true }
    let r := wRings fun v => { v with mslot := [(0, 0x00020000#32)] }
    s.hostOpen = true ∧ s.vci.up = true ∧ b.vci.mbusy = true ∧ s.vci.mbusy = false ∧ s.precheck (wSlot s.vci) = none
      ∧ r.precheck (wSlot r.vci) = some (2, 2) := by decide

theorem witness_fetch :
    let s := wRings id
    let c : Cmd := { id := 0, src := ⟨255, 15⟩, cls := 15, head := 0, bytes := List.replicate 256 0#8 }
    s.nextRing = some (8, 255) ∧ (s.sqAt 255).isSome = true ∧ (s.cqAt 254).isSome = true ∧ s.fetches = true ∧ c.barrier = false
      ∧ s.precheck c = none ∧ s.freeReadTag.isSome = true := by decide

theorem witness_slotCompletion :
    let s := wRings id [⟨1023, 255, 15⟩]
    let c : Cmd := { id := 0, src := ⟨255, 15⟩, cls := 15, head := 0, bytes := List.replicate 256 0#8 }
    s.hl.up = true ∧ s.sump.fatal = false ∧ s.hl.reads = [⟨(1023 : Fin 1024).val, 255, 15⟩] ∧ (s.sqAt 255).isSome = true
      ∧ c.barrier = false ∧ s.precheck c = none ∧ Waiting (wWait (wCmd 0 []) s) wSrc 0 (wCmd 0 []) := by
  refine ⟨by decide, by decide, by decide, by decide, by decide, by decide, waiting_of _ _ ⟨rfl, rfl⟩⟩

theorem witness_deviceCommands :
    let q := wCmd 1 [(0, 8, 2 ^ 52 - 64)]
    let r (ring kind link : Nat) := wCmd 4 [(0, 2, ring), (2, 1, kind), (3, 1, 16), (4, 1, 15), (6, 2, link), (8, 8, 2 ^ 52 - 4096)]
    let d (ring : Nat) := wCmd 5 [(0, 2, ring), (2, 1, 1)]
    let l (f : Nat) := wCmd 6 [(0, 2, 511), (2, 2, 1), (4, 1, f)]
    let i := wCmd 7 [(0, 4, 2 ^ 18 - 1), (4, 1, 255)]
    let s := wRings id
    let o := wRings fun v => { v with cq := v.cq ++ [(255, { event := false, cls := 15, log2 := 4, vec := 0, base := 0 })] }
    (∀ c ∈ [q, r 0 0 254, r 0 1 2047, d 255, l 0, l 1, i], Waiting (wWait c s) wSrc c.opcode c) ∧ q.opcode = 1 ∧ q.par 0 8 ≠ 0
      ∧ q.par 0 8 % 64 = 0 ∧ q.par 0 8 < 2 ^ 52 ∧ s.hl.attach = .attached ∧ q.cls = 15 ∧ s.ringBad (r 0 0 254) = none ∧ (r 0 0 254).par 2 1 = 0
      ∧ s.ringBad (r 0 1 2047) = none ∧ (r 0 1 2047).par 2 1 = 1 ∧ s.ringBad (r 255 0 254) = some (6, 1) ∧ (d 255).par 2 1 = 1
      ∧ (o.cqAt 255).isSome = true ∧ (∀ e ∈ o.vci.sq, e.2.cq ≠ 255) ∧ (∃ e ∈ s.vci.sq, e.2.cq = 254) ∧ (s.cqAt 254).isSome = true
      ∧ (l 0).par 0 2 + (l 0).par 2 2 ≤ 512 ∧ bitOf ((l 1).par 4 1) 0 = true ∧ bitOf ((l 0).par 4 1) 0 = false ∧ i.par 0 4 < 2 ^ 18
      ∧ (∀ e ∈ s.fab.conns, e.2.state ≠ .opened) ∧ (∃ e ∈ (wFab {} []).fab.conns, e.2.state = .opened) := by
  refine ⟨fun c hc => ?_, by decide⟩
  have h : c.src = wSrc ∧ c.ran = false := by
    revert hc c
    decide
  have := waiting_of (wRings id) c ⟨rfl, h.2⟩
  rwa [h.1] at this

theorem witness_contextCommands :
    let k : Ctx := { state := .empty, part := 0, cores := 0, save := [0, 0, 0, 0] }
    let c := wCmd 0x0200 [] 63
    let s : State := State.reset.setFld (Reg.PART_STS 0) 22 16 1
    let m := wCmd 0x0202 [(0, 1, 15), (0x10, 4, 0x98000000), (0x18, 4, 0x100000)] 63
    let a : State := { State.reset.setCfg (Reg.PART_T1_LIMIT 0) 1#32 with ctx := [(63, { state := .empty })] }
    let b := wCmd 0x0202 [(0, 1, 15)] 63
    let u := wCmd 0x0206 [(0, 1, 15), (1, 1, 2)] 63
    s.ctxBad k c.ctx (c.par 0xC 2) (c.par 0xE 2) = none ∧ (a.context c.ctx).state ≠ .free ∧ (a.context c.ctx).state ≠ .destroying
      ∧ (a.context c.ctx).destroy = none ∧ m.par 0 1 = 15 ∧ m.ctx < 64
      ∧ a.segBad 63 15 ⟨m.par 0x10 4, m.par 0x14 4, m.par 0x18 4, m.par 0x1C 4⟩ = none ∧ (a.seg 63 15).valid = false
      ∧ a.segBad 63 15 ⟨b.par 0x10 4, b.par 0x14 4, b.par 0x18 4, b.par 0x1C 4⟩ = some (0xB, 1) ∧ u.par 1 1 < 3
      ∧ ((wSeg 0 true).seg u.ctx 15).valid = true ∧ (wCmd 0x0204 []).par 0 1 = 0 ∧ (wCmd 0x0205 []).par 0x10 8 = 0
      ∧ (let p := wCmd 0x0205 [(8, 8, 2 ^ 48 - 65536), (0x10, 8, 65536)]
        p.par 0 1 = 0 ∧ 0 < p.par 0x10 8 ∧ p.par 0x10 8 ≤ 65536 ∧ p.par 8 8 + p.par 0x10 8 ≤ 2 ^ 48 ∧ p.par 8 8 % 65536 = 0)
      ∧ (let q := wCmd 0x020C [(0, 1, 1), (2, 2, 3), (4, 2, 9)]
        let l := { wCList [1] with cmd := some { wCmd 0x0300 [] with src := ⟨3, 9⟩, ran := true } }
        let t : State := { State.reset with lists := [(5, l)] }
        q.par 0 1 = 1 ∧ q.cls = 15 ∧ t.listOfCmd ⟨q.par 2 2, q.par 4 2⟩ = some (5, l) ∧ a.listOfCmd ⟨q.par 2 2, q.par 4 2⟩ = none
          ∧ (wCmd 0x020C []).par 0 1 = 0) := by decide

/-- A container of one hand core of one row, without sections. -/
def wHandBytes (crc : Nat) : List Byte :=
  leBytes 4 0x444E4856 ++ [3#8, 0#8] ++ leBytes 2 64 ++ leBytes 8 80 ++ leBytes 2 1 ++ leBytes 2 0 ++ [0xFF#8] ++ List.replicate 3 0#8
    ++ leBytes 4 0 ++ leBytes 2 0 ++ leBytes 2 0 ++ leBytes 8 64 ++ leBytes 8 80 ++ leBytes 4 crc ++ List.replicate 12 0#8
    ++ [0#8, 0#8] ++ leBytes 2 0 ++ leBytes 4 1 ++ leBytes 4 0 ++ leBytes 4 0

def wHandCmd : Cmd := wCmd 0x0207 [(0, 8, 0x1000), (8, 8, 80), (0x30, 1, 0x80)]

def wHandState (crc : Nat) : State :=
  { wFlat (bytesAt 0x1000 (wHandBytes crc)) with ctx := [(0, { state := .empty, cores := 1 })], cores := [(0, { pwr := .run, lcore := some 0 })] }

def wHandMap (g : Nat) : Option Nat := if bitOf (wHandCmd.at (0x40 + g) 1) 7 then some (wHandCmd.at (0x40 + g) 1 % 4) else none

/-- The container is read; it passes every check, its one core bound, or fails the second. -/
def loadsB (crc : Nat) (row : Option Nat) : Bool :=
  let c := wHandCmd
  let s := wHandState crc
  let d := s.readCmd c.ctx [] (c.par 0 8) (c.par 8 8)
  decide ((s.context c.ctx).state = .empty ∧ 0 < c.par 8 8 ∧ c.par 0 8 + c.par 8 8 ≤ 2 ^ 48) && match d.1 with
    | .ok g => !g.hostEnd && !g.bytes.any (·.2) && (match d.2.handCheck c.ctx (g.bytes.map (·.1)) wHandMap with
      | .ok bs => row.isNone && decide (bs.map (·.1) = [0])
        && bs.all (fun e => !d.2.coreTaken c.ctx e.1 && decide (d.2.coreOf e.1 = some 0 ∧ (d.2.core 0).pwr = .run))
      | .error n => row == some n)
    | _ => false

theorem witness_handLoad : loadsB (crc32c (wHandBytes 0)) none = true ∧ loadsB 0 (some 2) = true := by decide

theorem witness_launch :
    let h : Hand := ⟨0xFF, [], [(0, 0)]⟩
    let s : State := { wHandState 0 with ctx := [(0, { state := .loaded, cores := 1, hand := some h })]
                                         round := { state := .master, run := true } }
    let c (rnd : Nat) := wCmd 0x0208 [(0, 8, rnd), (8, 1, 1)]
    (s.context (c 2).ctx).state = .loaded ∧ (s.context (c 2).ctx).hand = some h ∧ s.periodBad 0 = false
      ∧ (∀ e ∈ h.binds, s.coreTaken 0 e.1 = false) ∧ h.plan = [] ∧ bitOf ((c 2).par 8 1) 1 = false
      ∧ s.rnd + s.lead 0 ≤ s.rnd + (c 2).par 0 8 ∧ s.rnd + (c 1).par 0 8 < s.rnd + s.lead 0 := by decide

theorem witness_cancelPreemptResume :
    let s (k : Ctx) : State := { State.reset with
      ctx := [(63, k)]
      cores := [(103, { pwr := .run, seq := .run, ctx := some 63, lcore := some 95 })] }
    let c (op : Nat) := wCmd op [] 63
    (∀ op k, Waiting (wWait (c op) (s k)) wSrc (c op).opcode (c op)) ∧ (c 0x0209).opcode = 0x0209 ∧ (c 0x020A).opcode = 0x020A
      ∧ (c 0x020B).opcode = 0x020B ∧ (c 0x0209).ctx = 63
      ∧ ((s { state := .armed }).context 63).launch = none ∧ ((s { state := .preempting }).context 63).cancel = none
      ∧ ((s { state := .loaded }).context 63).state = .loaded ∧ ((s { state := .running }).context 63).goes = false
      ∧ 103 ∈ (s { state := .running }).coresOf 63 ∧ ((s { state := .running }).core 103).seq = .run
      ∧ (s { state := .suspended, causes := [.host] }).persists 63 = none
      ∧ (s { state := .suspended, causes := [.core], lost := [5] }).persists 63 = some (0xF, 5)
      ∧ ((s { state := .empty }).context 63).state = .empty := by
  refine ⟨fun op k => waiting_of _ _ ⟨rfl, rfl⟩, ?_⟩
  decide

theorem witness_imagesSavedAndRestored :
    let c := wCmd 0x020A [] 63
    let s : State := { State.reset with
      ctx := [(63, { state := .preempting, preempt := some c })]
      cores := [(103, { pwr := .run, seq := .halted, ctx := some 63, lcore := some 95 })] }
    let r := wCmd 0x020B [] 63
    let t : State := { State.reset with
      ctx := [(63, { state := .resuming, resume := some r })]
      cores := [(103, { pwr := .run, seq := .ready, ctx := some 63, lcore := some 95 })] }
    (s.context (63 : Fin 64)).state = .preempting ∧ s.handStill (63 : Fin 64) = true ∧ s.sump.fatal = false
      ∧ (s.context (63 : Fin 64)).preempt = some c ∧ (s.context (63 : Fin 64)).cancel = none ∧ (s.context (63 : Fin 64)).destroy = none
      ∧ (t.context (63 : Fin 64)).state = .resuming ∧ (t.context (63 : Fin 64)).goes = false
      ∧ (∀ i ∈ t.coresOf (63 : Fin 64), (t.core i).pwr = .run) ∧ (t.context (63 : Fin 64)).resume = some r
      ∧ (t.context (63 : Fin 64)).cancel = none ∧ (t.context (63 : Fin 64)).causes = [] := by decide

/-- The record of a partition that owns nothing. -/
theorem witness_partitions :
    let c (op : Nat) := wCmd op [(0, 1, 7)]
    let s (k : PartState) : State := { State.reset with parts := [(7, { state := k })] }
    (∀ op k, Waiting (wWait (c op) (s k)) wSrc (c op).opcode (c op)) ∧ (c 0x0100).opcode = 0x0100 ∧ (c 0x0101).opcode = 0x0101
      ∧ (c 0x0102).opcode = 0x0102 ∧ (c 0x0100).par 0 1 = 7 ∧ (wWait (c 0x0100) (s .free)).partTurn (c 0x0100) = true
      ∧ ((s .free).part 7).state = .free ∧ ((s .active).part 7).state = .active ∧ ((s .destroying).part 7).state = .destroying
      ∧ recordRange ((c 0x0100).bytes.drop 0x40) false = false ∧ (s .free).recordCore 7 ((c 0x0100).bytes.drop 0x40) false = none
      ∧ (s .free).recordSpace 7 ((c 0x0100).bytes.drop 0x40) = false ∧ ((s .active).tdiOf 7).stream = 0
      ∧ (s .active).recordCore 7 ((c 0x0101).bytes.drop 0x40) true = none ∧ (s .active).recordSpace 7 ((c 0x0101).bytes.drop 0x40) = false
      ∧ (s .active).recordUse 7 ((c 0x0101).bytes.drop 0x40) = none
      ∧ (∀ l, l < 96 → (s .active).ownsCore 7 l = true → bitOf (rec_ ((c 0x0101).bytes.drop 0x40) 0 12) l = true)
      ∧ ((s .active).tdiOf 7).state = .unlocked ∧ (∀ d ∈ (wWait (c 0x0102) (s .active)).vci.cmds, d.opcode < 0x0200) := by
  refine ⟨fun op k => waiting_of _ _ ⟨rfl, rfl⟩, ?_⟩
  decide

theorem witness_attachment :
    let a (k : Nat) := wCmd 2 [(0, 8, k)]
    let s (h : HlSt) : State := { State.reset with hl := h, vci := { token := some 9 } }
    (∀ k h, Waiting (wWait (a k) (s h)) wSrc 2 (a k)) ∧ (s {}).vci.detach = none
      ∧ (∀ d ∈ (wWait (a 9) (s {})).vci.cmds, d.opcode = 0x0002 → d.ran = false) ∧ (s {}).hl.attach = .detached ∧ (s {}).vci.token = some 9
      ∧ (a 9).par 0 8 = 9 ∧ (s {}).hl.lwl = [] ∧ (a 8).par 0 8 ≠ 9 ∧ bitOf ((a 8).par 8 1) 1 = false
      ∧ (s { attach := .attached }).hl.attach = .attached ∧ (∀ h, Waiting (wWait (wCmd 3 []) (s h)) wSrc 3 (wCmd 3 []))
      ∧ (let d := wCmd 0x0201 [] 63
        let t : State := { State.reset with ctx := [(63, { state := .preempting })] }
        Waiting (wWait d t) wSrc 0x0201 d ∧ (t.context d.ctx).state = .preempting) := by
  refine ⟨fun k h => waiting_of _ _ ⟨rfl, rfl⟩, by decide, by decide, by decide, by decide, by decide, by decide, by decide, by decide,
    by decide, fun h => waiting_of _ _ ⟨rfl, rfl⟩, waiting_of _ _ ⟨rfl, rfl⟩, by decide⟩

/-! ### Witnesses: Heron and faults -/

def wHeron (h : HeronSt) : State := { State.reset with heron := h, round := { state := .locked, run := true } }

theorem witness_railsAndDiodes :
    let r := wHeron { state := .run, rails := [(5, { at7 := 500 }), (6, { overAmps := 15 })] }
    r.heron.state ≠ .boot ∧ (r.rail 6).overAmps = 15 ∧ r.heron.ilim.getD 6 0 < (BitVec.ofNat 16 65535).toNat ∧ (r.rail 7).overAmps ≠ 15
      ∧ (r.rail 8).overAmps ≠ 15 ∧ 500 ≤ (r.rail (5 : Fin 6)).at7 ∧ (r.rail (5 : Fin 6)).reported = false
      ∧ (List.replicate 64 40#8).length = 64 := by decide

/-- Every diode at 100 °C, under a control temperature of 90 °C. -/
theorem witness_thermalControl :
    let s := wHeron { state := .run, tctl := 90, diodes := (List.range 64).map fun d => (d, 100) }
    s.heronRuns = true ∧ s.round.state ≠ .off ∧ s.tj 3 = some 100 ∧ ((s.tjMax).any fun p => decide (s.heron.tctl + 10 ≤ p.2)) = true
      ∧ s.heron.alarm = false ∧ (wHeron { state := .run, alarm := true }).heron.alarm = true := by decide

theorem witness_tripSamples :
    let s := wHeron { state := .run, hot := [63] }
    s.heron.state ≠ .boot ∧ 115 ≤ (115#8 : Byte).toNat ∧ (63 : Fin 64).val ∈ s.heron.hot ∧ (63 : Fin 64).val ∉ s.heron.tripped
      ∧ (0 : Fin 64).val ∉ s.heron.hot := by decide

/-- Region 3 is asked for point 7 and holds 0: with the rails quiet it is granted, with one just loaded it is refused. -/
theorem witness_operatingPoints :
    let s := { wHeron { state := .run, dp := 1000, ops := [(3, { target := some 7, pll := true, rail := true })] } with
      ctx := [(63, { state := .running, cores := 2 ^ 95, op := 7 })] }
    let t := { s with heron := { s.heron with rails := [(3, { quiet := 499 })] } }
    (s.op (3 : Fin 4)).target = some 7 ∧ s.round.state ≠ .off ∧ min (s.opReq 3) (min (opMax s.heron.dp) (s.op 3).capT) = 7
      ∧ s.railRecent 3 = false ∧ (t.op 3).applied < 7 ∧ t.railRecent 3 = true ∧ (s.op 3).applied < 7 ∧ (s.op 3).pll = true
      ∧ (s.op 3).rail = true ∧ ((wHeron { ops := [(3, { target := some 7 })] }).op 3).pll = false := by decide

theorem witness_designPower :
    let s := wHeron { state := .run, dpMax := 1000 }
    s.heronRuns = true ∧ s.round.state ≠ .off ∧ 550 ≤ (BitVec.ofNat 16 1000).toNat ∧ (BitVec.ofNat 16 1000).toNat ≤ s.heron.dpMax
      ∧ (BitVec.ofNat 16 549).toNat < 550 ∧ s.heron.dpMax < (BitVec.ofNat 16 1001).toNat := by decide

theorem witness_eventLog :
    let s (k : Nat) : State := { wHeron { state := .run } with due := [⟨k, 1, 0, 0⟩] }
    (s 9).due = [⟨9, 1, 0, 0⟩] ∧ (s 9).heronRuns = true ∧ (s 9).rst.pulse = false ∧ (s 9).rst.late = false ∧ (s 6).due = [⟨6, 1, 0, 0⟩]
      ∧ (s 6).heron.repair.length < 2048 := by decide

theorem witness_fullRepairArea :
    let s : State := { wHeron { state := .run, repair := List.replicate 2048 ⟨1, 5, 1, 0, 0⟩ } with due := [⟨5, 1, 0, 0⟩] }
    s.due = [⟨5, 1, 0, 0⟩] ∧ s.heronRuns = true ∧ 2048 ≤ s.heron.repair.length := by
  refine ⟨rfl, rfl, ?_⟩
  exact Nat.le_of_eq List.length_replicate.symm

theorem witness_i3c :
    let s := wHeron { state := .run, static := 127 }
    s.heronRuns = true ∧ s.heron.addr = none ∧ s.heron.static = (127#7 : BitVec 7).toNat ∧ (127#7 : BitVec 7).toNat ≠ 0
      ∧ s.heron.static ≠ (0#7 : BitVec 7).toNat := by decide

theorem witness_firmwareUpdates :
    let b := wHeron { state := .run, update := some { comp := 1 } }
    let s := wHeron { state := .run }
    let v : State := { b with sedge := { state := .approved } }
    let o : State := { b with sedge := { state := .decommissioned } }
    let g := wHeron { state := .run, slots := [⟨.active, {}⟩, ⟨.staged, {}⟩] }
    let k := wHeron { state := .run, check := some { slot := 1, old := 0, rnd := 9, cmd := none } }
    s.heronRuns = true ∧ s.heron.slots.length = 2 ∧ b.heron.update.isSome = true ∧ s.heron.update = none ∧ s.heron.act = none
      ∧ s.heron.check = none ∧ s.heron.revert = none ∧ v.heron.update = some { comp := 1 } ∧ v.sedge.state ≠ .selftest
      ∧ v.sedgeServes = true ∧ v.setPasses true true 64 3 = true ∧ o.sedge.state ≠ .selftest ∧ o.sedgeServes = false
      ∧ v.setPasses true true 65 3 = false
      ∧ (wHeron { state := .run, update := some { comp := 1, verified := true } }).heron.update = some { comp := 1, verified := true }
      ∧ (wHeron { state := .run, update := some { comp := 2, verified := true } }).heron.update = some { comp := 2, verified := true }
      ∧ (g.slotAt (1 - g.activeSlot)).state = .staged ∧ g.heron.act = none ∧ (k.heron.check.any fun c => decide (c.slot < 2)) = true := by decide

theorem witness_firmwareActivation :
    let c := wCmd 0x000B [(0, 8, 9), (8, 1, 1)]
    let g := wHeron { state := .run, slots := [⟨.active, {}⟩, ⟨.staged, {}⟩] }
    let b := wHeron { state := .run, act := some { slot := 1, rnd := 9, cmd := none } }
    let k : Checking := { slot := 1, old := 0, rnd := 9, cmd := some c }
    let f : State := { wHeron { state := .run, check := some k } with sedge := { state := .approved }, vci := { up := true } }
    let a : Activation := { slot := 1, rnd := 0, cmd := none }
    let l := wHeron { state := .run, act := some a }
    let u : State := { l with round := { state := .unaligned, run := true } }
    Waiting (wWait c g) wSrc 0x000B c ∧ g.heron.slots.length = 2 ∧ c.par 8 1 < 2 ∧ g.heron.act = none ∧ g.heron.check = none
      ∧ g.heron.revert = none ∧ (g.slotAt (c.par 8 1)).state = .staged ∧ Waiting (wWait c b) wSrc 0x000B c ∧ b.heron.slots.length = 2
      ∧ b.heron.act.isSome = true ∧ f.heron.check = some k ∧ k.cmd = some c ∧ (f.slotAt k.slot).man.raising = false ∧ f.heronRuns = true
      ∧ f.sedgeServes = true ∧ f.bitternUp = true ∧ f.sump.fatal = false ∧ l.sump.fatal = false ∧ l.heron.revert = none
      ∧ l.heron.act = some a ∧ a.rnd ≤ l.rnd ∧ l.rst.late = false ∧ l.round.state = .locked ∧ u.round.state = .unaligned
      ∧ a.deferred = false := by
  refine ⟨waiting_of (wHeron { state := .run, slots := [⟨.active, {}⟩, ⟨.staged, {}⟩] }) (wCmd 0x000B [(0, 8, 9), (8, 1, 1)]) ⟨rfl, rfl⟩,
    by decide, by decide, by decide, by decide, by decide, by decide,
    waiting_of (wHeron { state := .run, act := some { slot := 1, rnd := 9, cmd := none } }) (wCmd 0x000B [(0, 8, 9), (8, 1, 1)]) ⟨rfl, rfl⟩, ?_⟩
  decide

theorem witness_heronAndBittern :
    (wHeron { state := .restart }).heron.state = .restart ∧ (wHeron { state := .run }).heronRuns = true
      ∧ (let s : State := { State.reset with vci := { up := true, dead := [3] } }
        s.vci.up = true ∧ (0 : Fin 4).val ∉ s.vci.dead ∧ (3 : Fin 4).val ∈ s.vci.dead) := by decide

def wMsg (src kind raised : Nat) : FaultMsg := ⟨src, kind, raised, raised, false, none, 0, false, 0, 0⟩

/-- A source of the highest level of region 3, and a device source. -/
theorem witness_collectors :
    let m := wMsg (srcRegion 3 13) 0x402 2
    let q (r : Nat) : State := { State.reset with sump := {
      flight := [wMsg (srcRegion 3 13) 0x402 r]
      rfc := [(3, { q := List.replicate 64 (wMsg (srcRegion 3 0) 0x100 1), held := [m] })] } }
    let c : State := (({ State.reset with sump := { flight := [wMsg (srcCore 103 0) 0x010 2] } } : State)).setBit (Reg.RFC_CORE 3 25) 30 true
    nextOf 0 [m] = some m ∧ srcLevel m.src ≠ 3 ∧ srcRegionOf m.src = 3 ∧ 2 ≤ srcLevel m.src ∧ (State.reset.rfcOf 3).q.length < 64
      ∧ 64 ≤ ((q 1).rfcOf 3).q.length
      ∧ (((q 2).rfcOf 3).held.filter fun e => decide (e.src = m.src)).getLast? = some m
      ∧ nextOf 0 c.sump.flight = some (wMsg (srcCore 103 0) 0x010 2) ∧ srcLevel (srcCore 103 0) < 2
      ∧ c.bit (Reg.RFC_CORE (srcRegionOf (srcCore 103 0)) (srcCore 103 0 / 64 % 32)) 30 = true := by decide

theorem witness_sumpJudges :
    let m (r : Nat) := wMsg (srcDevice 12) 0x600 r
    let s (r : Nat) (p1 p10 : List Nat) : State := { State.reset with sump := { flight := [m r], pend1 := p1, pend10 := p10 } }
    nextOf 0 (s 1 [] []).sump.flight = some (m 1) ∧ srcLevel (m 1).src = 3 ∧ (s 1 [] []).sump.fatal = false ∧ (s 1 [] []).sump.fq.length < 1024
      ∧ (m 1).raised = 1 ∧ (m 1).src ∉ (s 1 [] []).sump.pend1 ∧ (m 1).src ∈ (s 1 [srcDevice 12] []).sump.pend1
      ∧ (m 2).src ∉ (s 2 [] []).sump.pend10 ∧ (m 2).src ∈ (s 2 [] [srcDevice 12]).sump.pend10 ∧ (m 3).raised = 3
      ∧ (s 3 [] []).sump.fatalSeen = false := by decide

theorem witness_faultQueues :
    let m := wMsg (srcRegion 3 13) 0x402 2
    let s : State := { State.reset with sump := { rfc := [(3, { q := [m] })] } }
    let l : State := { State.reset with sump := { lines := [m] } }
    let a : State := { State.reset with sump := { fq := [m], pend10 := [m.src] }, vci := { up := true } }
    (s.rfcOf (3 : Fin 4)).q = [m] ∧ (s.rfcOf (3 : Fin 4)).held = [] ∧ s.sump.fatal = false ∧ s.sump.fq.length < 1024 ∧ m.raised = 2
      ∧ m.src ∉ s.sump.pend10 ∧ l.sump.lines = [m] ∧ { l with sump := { l.sump with fatal := true } }.sump.fatal = true
      ∧ (BitVec.ofNat 16 m.src).toNat ∈ a.sump.pend10 ∧ a.bitternUp = true ∧ a.sump.fq = [m] ∧ m.src = (BitVec.ofNat 16 m.src).toNat := by
  decide

theorem witness_sparing :
    let t : State := { State.reset with sump := { triggers := [103] } }
    let f : State := { State.reset with sump := { isolate := [103] }, vci := { up := true }, cores := [(103, { lcore := some 95, isolated := true })] }
    let d : State := { State.reset with sump := { ask := some true }, heron := { state := .run }, sedge := { state := .approved } }
    t.sump.fatal = false ∧ (103 : Fin 104).val ∈ t.sump.triggers ∧ f.bitternUp = true ∧ f.sump.fatal = false
      ∧ (f.sump.isolate.filter fun d => decide (d / 26 = (103 : Fin 104).val / 26)).head? = some 103
      ∧ tfind f.coh.walk ((103 : Fin 104).val / 26) = none ∧ (f.core (103 : Fin 104)).lcore = some 95
      ∧ (f.widows ((103 : Fin 104).val / 26)).head?.isSome = true ∧ d.sump.ask = some true ∧ d.heronRuns = true ∧ d.sump.fatal = false
      ∧ d.sedge.state = .approved := by decide

theorem witness_forcedFaults :
    let s : State := { State.reset with sump := { factory := true } }
    let v (src kind : Nat) := s.setCfg Reg.SUMP_FORCE_SEL (BitVec.ofNat 32 (src * 65536 + kind))
    State.reset.pathOpen .fw = true ∧ State.reset.forcing = false ∧ s.forcing = true
      ∧ (v 65535 4095).cfg Reg.SUMP_FORCE_SEL = BitVec.ofNat 32 (65535 * 65536 + 4095) ∧ raisesKind 65535 4095 = false
      ∧ raisesKind (srcDevice 13) 0x602 = true ∧ srcLevel (srcDevice 13) = 3 ∧ srcDevice 13 < 65536
      ∧ (v (srcDevice 13) 0x602).cfg Reg.SUMP_FORCE_SEL = BitVec.ofNat 32 (srcDevice 13 * 65536 + 0x602) := by decide

/-! ### Witnesses: reset, registers, security and debug -/

theorem witness_resetSources :
    let s := tReady
    let p : State := { State.reset with rst := { pulse := true } }
    let l : State := { State.reset with rst := { pulse := true, late := true } }
    { s with rst := { s.rst with scope := 2 } }.inCold = false ∧ s.inCold = false ∧ s.sump.fatal = false ∧ s.pathOpen .fw = true
      ∧ s.rst.pulse = false ∧ p.rst.pulse = true ∧ p.rst.late = false ∧ l.rst.late = true
      ∧ LodeIn (wL { state := .train }) 15 .train := by
  refine ⟨by decide, by decide, by decide, by decide, by decide, by decide, by decide, by decide, by unfold LodeIn; decide⟩

theorem witness_startUp :
    let s := State.reset
    s.rst.ready = false ∧ s.rst.late = false ∧ s.sump.fatal = false ∧ s.rst.step = 0 ∧ s.rst.scope ≠ 2 ∧ s.cores = []
      ∧ (∀ r, r < 4 → ∀ k, k < 26 → s.bit (Reg.RFC_CORE r k) 30 = false) ∧ tReady.rst.ready = true := by decide

/-- The host path is open in READY with the link up; the other path always. -/
def tHost : State := { tReady with hl := { up := true } }

theorem witness_registerPaths :
    tHost.pathOpen .host = true ∧ tHost.pathOpen .fw = true ∧ tHost.uncoreOn = true ∧ State.reset.uncoreOn = false
      ∧ State.reset.pathOpen .fw = true ∧ State.goodSize 2 4 = false ∧ State.goodSize 0 5 = false ∧ 2 < 0x10000000 := by decide

theorem witness_trcRead :
    let s : State := { tReady with trc := [(3, { wr := 5 })] }
    s.pathOpen .fw = true ∧ s.uncoreOn = true
      ∧ ((5#32 : Word).toNat % 16384 + 16384 - s.fld (Reg.TRC_RD (3 : Fin 4)) 13 0) % 16384
        ≤ (tget (fun _ => ({} : TrcSt)) s.trc (3 : Fin 4).val).fill (s.fld (Reg.TRC_RD (3 : Fin 4)) 13 0)
      ∧ (tget (fun _ => ({} : TrcSt)) s.trc (3 : Fin 4).val).fill (s.fld (Reg.TRC_RD (3 : Fin 4)) 13 0)
        < ((6#32 : Word).toNat % 16384 + 16384 - s.fld (Reg.TRC_RD (3 : Fin 4)) 13 0) % 16384 := by decide

/-- A latch of the unit for another register, none, and one for ROUND.CTL with a value that the unit refuses or takes. -/
theorem witness_guardLatch :
    let s (a : Nat) (v : Word) : State := { tReady with reg := { latch := [(pathKey Reg.ROUND_CTL .fw, ⟨a, v⟩)] } }
    tReady.pathOpen .fw = true ∧ tfind (s (Reg.ROUND_CTL + 4) 0#32).reg.latch (pathKey Reg.ROUND_CTL .fw) = some ⟨Reg.ROUND_CTL + 4, 0#32⟩
      ∧ tfind tReady.reg.latch (pathKey Reg.ROUND_CTL .fw) = none
      ∧ tfind (s Reg.ROUND_CTL 0xD#32).reg.latch (pathKey Reg.ROUND_CTL .fw) = some ⟨Reg.ROUND_CTL, 0xD#32⟩
      ∧ (s Reg.ROUND_CTL 0xD#32).roundRefuses 0xD#32 = true ∧ (s Reg.ROUND_CTL 0x225#32).roundRefuses 0x225#32 = false
      ∧ (s Reg.ROUND_CTL 0x225#32).bit Reg.ROUND_CTL 0 = false ∧ bitOf (0x225#32 : Word).toNat 0 = true ∧ bitsOf (0x225#32 : Word).toNat 3 2 = 1
      ∧ (0#32 : Word) ≠ ~~~ 0x225#32 ∧ pathKey (4 * 0x100000) .fw = pathKey Reg.ROUND_CTL .fw := by decide

theorem witness_capturesAndParity :
    let s : State := { tReady with reg := { capt := [(pathKey Reg.ROUND_RND_LO .fw, [(Reg.ROUND_RND_HI, 7#32)])] } }
    let b : State := { tReady with reg := { bad := [(Reg.RF_SCAN, 0#32)] }, vci := { up := true } }
    s.pathOpen .fw = true ∧ tget (fun _ => []) s.reg.capt (pathKey Reg.ROUND_RND_LO .fw) = [(Reg.ROUND_RND_HI, 7#32)]
      ∧ (5#8 : Byte).toNat ∈ [0, 1, 2, 3, 4, 5] ∧ twf (fun _ => 0#32) s.reg.ctr = true ∧ tReady.reg.bad = [] ∧ b.bitternUp = true
      ∧ b.reg.bad = [(Reg.RF_SCAN, 0#32)] := by decide

/-- Sedge in APPROVED, with an owner and sessions over DOE. -/
def wSedge (f : SedgeSt → SedgeSt) : State :=
  { tHost with sedge := f { state := .approved, owner := true, alias_ := 1 } }

theorem witness_attestation :
    let s := wSedge id
    let n := wSedge fun k => { k with owner := false }
    let k (p : SessPhase) : Session := { doe := true, id := 3, phase := p, auth := p == .up }
    let v (p : SessPhase) := wSedge fun g => { g with sess := [k p] }
    let full := wSedge fun g => { g with sess := (List.range 4).map fun i => { doe := true, id := i } }
    s.attests true = true ∧ 0 ∈ s.certSlots ∧ s.sedge.alias_ ≠ 0 ∧ s.serves true = true ∧ n.serves true = true ∧ n.sedge.owner = false
      ∧ s.sedge.owner = true ∧ (List.range 4).find? (fun i => (s.session true i).isNone) = some 0
      ∧ (List.range 4).find? (fun i => (full.session true i).isNone) = none ∧ full.serves true = true
      ∧ ([SessPhase.kem, .psk, .up].all fun p => decide ((v p).session true (3 : Fin 4) = some (k p)) && (v p).serves true) = true
      ∧ s.authed true (3 : Fin 4) = false ∧ (v .up).authed true (3 : Fin 4) = true := by decide

theorem witness_sedgeStates :
    let s (f : FwSlot) : State := { State.reset with heron := { slots := [f, {}] } }
    let o : State := { tReady with heron := { state := .run }, sedge := { state := .approved } }
    (s ⟨.active, {}⟩).sedge.state = .selftest ∧ (s ⟨.active, {}⟩).sedge.exitDrill = false
      ∧ ((s ⟨.active, {}⟩).slotAt (s ⟨.active, {}⟩).activeSlot).man.approved = true
      ∧ ((s ⟨.active, { approved := false }⟩).slotAt (s ⟨.active, { approved := false }⟩).activeSlot).man.approved = false
      ∧ o.sedgeServes = true ∧ o.sump.fatal = false ∧ o.serves false = true ∧ o.sedge.owner = false := by decide

theorem witness_keyRenewal :
    let s (k : LodeSt) : State := { wL k with sedge := { state := .approved } }
    let a := s { state := .active, session := true, n := 2 ^ 44 }
    let b : State := { s { state := .active, session := true } with round := { state := .locked, run := true, cnt := BitVec.ofNat 64 (2 ^ 36) } }
    a.sump.fatal = false ∧ (a.lode (15 : Fin 16)).state = .active ∧ (a.lode (15 : Fin 16)).session = true
      ∧ (a.lode (15 : Fin 16)).txNext = none ∧ a.sedgeServes = true ∧ (a.lode (15 : Fin 16)).keyN + 2 ^ 44 ≤ (a.lode (15 : Fin 16)).n
      ∧ (b.lode (15 : Fin 16)).since + 2 ^ 36 ≤ b.rnd := by decide

theorem witness_streamsAndInterfaces :
    let s := wSedge fun g => { g with
      sess := [{ doe := true, id := 3, phase := .up, auth := true }], streams := [(8, ⟨true, true⟩)]
      tdi := [(7, { state := .locked, stream := 8 })] }
    let a : State := { s with parts := [(6, { state := .active })] }
    s.serves true = true ∧ s.authed true (3 : Fin 4) = true ∧ (s.stream (8 : Fin 9)).keyed = true ∧ (8 : Fin 9).val ≠ 0
      ∧ (s.tdiOf 7).stream = (8 : Fin 9).val ∧ (s.tdiOf 7).state ≠ .unlocked ∧ (s.tdiOf 6).stream ≠ (8 : Fin 9).val
      ∧ (a.tdiOf (6 : Fin 8)).state = .unlocked ∧ a.partActive (6 : Fin 8) = true ∧ (a.stream (8 : Fin 9)).used = true
      ∧ (s.tdiOf (7 : Fin 8)).state = .locked ∧ s.ctxsOf (7 : Fin 8) = [] ∧ s.hl.up = true := by decide

theorem witness_testPort :
    let o : State := { tReady with sedge := { unlocked := true } }
    let a : State := { tReady with sedge := { state := .approved, armed := true } }
    State.reset.testOpen = false ∧ o.testOpen = true ∧ o.sump.fatal = false ∧ o.inCold = false ∧ a.sedge.armed = true
      ∧ a.sedge.state = .approved ∧ State.reset.sedge.armed = false ∧ 0xFFFFF < 0x100000 := by decide

/-! ### Witnesses: the whole block -/

theorem witness_memoryForm : State.reset.memoryWf = true ∧ step State.reset = .next State.reset := ⟨by decide, rfl⟩

theorem witness_fatalSafeState :
    let s : State := { State.reset with sump := { fatal := true }, sedge := { unlocked := true } }
    s.sump.fatal = true ∧ s.testOpen = true ∧ Instr.lockUp ≠ .powerOn ∧ Instr.lockUp ≠ .brownOut ∧ Instr.lockUp ≠ .clockFailure .aon
      ∧ s.rst.late = false ∧ (∃ t, exec .nvPulseEnd s = .next t) :=
  ⟨rfl, by decide, by decide, by decide, by decide, rfl, _, rfl⟩

/-- The step takes the command at the front of the queue. -/
theorem test_step_takes_the_front :
    (match step { State.reset with pending := [.tapReset, .bypass] } with
      | .next t => decide (t.pending = [.bypass] ∧ t.tap.ir = 1)
      | _ => false) = true := by decide

end Sys2Proof.Tests
end

namespace Sys2Proof.Machine

/-!
What every command keeps. `exec c s` is a composition of the model's named updates, so the proof follows the model: `Keeps s t`
says that `t` has the queue of `s`, and still has the canonical form of HBM where `s` had it; each named update of the model
has one lemma that carries `Keeps s` over it, each meaning `execX` one that it runs into a next state with `Keeps s`, in the
order of the model's files. A lemma is named after its function, so that a chain of updates is proved by the chain of their
names: `h.setCfg.bump` for `(t.setCfg ..).bump`.
-/

/-- What every command keeps of a state `s`: the queue, which only the step of the machine changes, and the form of HBM. -/
structure Keeps (s t : State) : Prop where
  pending : t.pending = s.pending
  memoryWf : s.memoryWf = true → t.memoryWf = true

/-- The command completes, in a state that keeps these of `s`. -/
def RunsKeeping (s : State) (r : Res) : Prop := ∃ t, r = .next t ∧ Keeps s t

variable {s t : State}

/-- `Keeps` of an update that also answers a value. It is a name of its own for the continuation of `Chunk.bind`: unification
then compares the update itself, where it would else unfold both sides to their second components. -/
def StepKeeps {α : Type} (s : State) (o : α × State) : Prop := Keeps s o.2

namespace Keeps

theorem refl (s : State) : Keeps s s := ⟨rfl, id⟩

/-- The one rule for a record update: every field but the queue and the two of HBM may change. -/
theorem frame {free out round sump reg pegs waits pegOps wakes cores ctx vci hl parts trc hctl slice useNo tokens short thr
    coh xl dc lists nextList lbytes lodes fab due heron rst sedge tap pins} (h : Keeps s t) :
    Keeps s { pending := t.pending, hbm := t.hbm, hbmBad := t.hbmBad, free, out, round, sump, reg, pegs, waits, pegOps, wakes,
              cores, ctx, vci, hl, parts, trc, hctl, slice, useNo, tokens, short, thr, coh, xl, dc, lists, nextList, lbytes,
              lodes, fab, due, heron, rst, sedge, tap, pins } :=
  ⟨h.pending, h.memoryWf⟩

/-- Names what holds of an intermediate state that the rest of the update uses more than once. -/
theorem andThen {p : Prop} (h : Keeps s t) (k : Keeps s t → p) : p := k h

/-- `andThen` with the rest of the update first, where the intermediate state is itself a `match`. -/
theorem since {p : Prop} (k : Keeps s t → p) (h : Keeps s t) : p := k h

variable {α β γ : Type}

theorem ite {c : Prop} {_ : Decidable c} {a b : State} (ha : Keeps s a) (hb : Keeps s b) : Keeps s (if c then a else b) := by
  split
  · exact ha
  · exact hb

theorem iteSnd {c : Prop} {_ : Decidable c} {a b : α × State} (ha : Keeps s a.2) (hb : Keeps s b.2) :
    Keeps s (if c then a else b).2 := by
  split
  · exact ha
  · exact hb

theorem foldl {f : State → α → State} {l : List α} (h : Keeps s t) (hf : ∀ {u a}, Keeps s u → Keeps s (f u a)) :
    Keeps s (l.foldl f t) := by
  induction l generalizing t with
  | nil => exact h
  | cons a l ih => exact ih (hf h)

theorem foldlFst {f : State × β → α → State × β} {l : List α} {b : State × β} (h : Keeps s b.1)
    (hf : ∀ {u a}, Keeps s u.1 → Keeps s (f u a).1) : Keeps s (l.foldl f b).1 := by
  induction l generalizing b with
  | nil => exact h
  | cons a l ih => exact ih (hf h)

/-- A chunk goes on with `f` only where `c` answered a value; else the state is the one `c` left. -/
theorem bind {c : Chunk α × State} {f : α → State → Chunk β × State} (h : Keeps s c.2)
    (hf : ∀ {a u}, Keeps s u → StepKeeps s (f a u)) : StepKeeps s (Chunk.bind c f) := by
  unfold Chunk.bind
  split
  · exact h
  · exact h
  · exact h
  · exact hf h

end Keeps

namespace RunsKeeping

theorem done (h : Keeps s t) : RunsKeeping s (done t) := ⟨t, rfl, h⟩

theorem when {c : Bool} {f : State → State} (h : Keeps s t) (hf : ∀ {u}, Keeps s u → Keeps s (f u)) :
    RunsKeeping s (when c f t) :=
  ⟨_, rfl, .ite (hf h) h⟩

theorem ite {c : Prop} {_ : Decidable c} {a b : Res} (ha : RunsKeeping s a) (hb : RunsKeeping s b) :
    RunsKeeping s (if c then a else b) := by
  split
  · exact ha
  · exact hb

end RunsKeeping

/-! ### Named operations of the state -/

theorem Keeps.setCfg (h : Keeps s t) {a w} : Keeps s (t.setCfg a w) :=
  h.frame

theorem Keeps.setFld (h : Keeps s t) {a hi lo v} : Keeps s (t.setFld a hi lo v) :=
  h.setCfg

theorem Keeps.setBit (h : Keeps s t) {a i b} : Keeps s (t.setBit a i b) :=
  h.setFld

theorem Keeps.bumpBy (h : Keeps s t) {a n} : Keeps s (t.bumpBy a n) :=
  h.frame

theorem Keeps.bump (h : Keeps s t) {a} : Keeps s (t.bump a) :=
  h.bumpBy

theorem Keeps.bumpIf (h : Keeps s t) {c a} : Keeps s (t.bumpIf c a) :=
  .ite h.bump h

theorem Keeps.drawn (h : Keeps s t) : Keeps s t.drawn :=
  h.frame

theorem Keeps.send (h : Keeps s t) {o} : Keeps s (t.send o) :=
  h.frame

theorem Keeps.tick (h : Keeps s t) : Keeps s t.tick :=
  .ite h.drawn.frame h

theorem Keeps.logDue (h : Keeps s t) {kind sev data} : Keeps s (t.logDue kind sev data) :=
  h.tick.frame

theorem Keeps.report (h : Keeps s t) {m} : Keeps s (t.report m) :=
  .ite h (.ite h.frame h.frame)

theorem Keeps.raise (h : Keeps s t) {src kind ctx atype addr syn} : Keeps s (t.raise src kind ctx atype addr syn) :=
  h.report

theorem Keeps.raiseEcc (h : Keeps s t) {src kind ctx atype addr lane} : Keeps s (t.raiseEcc src kind ctx atype addr lane) :=
  h.drawn.raise

theorem Keeps.trcPut (h : Keeps s t) {r w} : Keeps s (t.trcPut r w) :=
  (Keeps.ite h.setFld h).bump.frame

theorem Keeps.trcStore (h : Keeps s t) {r ty core eng data} : Keeps s (t.trcStore r ty core eng data) :=
  h.tick.andThen fun h1 => .ite h1.bump.frame ((Keeps.ite h1 h1.trcPut.frame).trcPut)

theorem Keeps.trcCore (h : Keeps s t) {core ty eng data} : Keeps s (t.trcCore core ty eng data) :=
  .ite h.trcStore h

theorem Keeps.trcMark (h : Keeps s t) {core sleep p} : Keeps s (t.trcMark core sleep p) :=
  .ite h.trcStore.bump h

theorem Keeps.setCore (h : Keeps s t) {c k} : Keeps s (t.setCore c k) :=
  h.frame

theorem Keeps.modCore (h : Keeps s t) {c f} : Keeps s (t.modCore c f) :=
  h.setCore

theorem Keeps.setCtx (h : Keeps s t) {c x} : Keeps s (t.setCtx c x) :=
  h.frame

theorem Keeps.modCtx (h : Keeps s t) {c f} : Keeps s (t.modCtx c f) :=
  h.setCtx

theorem Keeps.setPeg (h : Keeps s t) {p v} : Keeps s (t.setPeg p v) :=
  h.frame

theorem Keeps.unwait (h : Keeps s t) {w} : Keeps s (t.unwait w) :=
  h.frame

theorem Keeps.pegDo (h : Keeps s t) {p op} : Keeps s (t.pegDo p op) :=
  h.frame

theorem Keeps.setList (h : Keeps s t) {k l} : Keeps s (t.setList k l) :=
  h.frame

theorem Keeps.stopLists (h : Keeps s t) {x} : Keeps s (t.stopLists x) := by
  unfold State.stopLists
  dsimp only
  refine h.foldl fun h1 => ?_
  split
  · exact h1.setList
  · exact h1.unwait.setList
  · exact h1

/-! ### Traffic toward the host (R453, R459, R463) -/

theorem Keeps.sendMsi (h : Keeps s t) {v} : Keeps s (t.sendMsi v) :=
  h.send.bump

theorem Keeps.deliver (h : Keeps s t) {w} : Keeps s (t.deliver w) := by
  unfold State.deliver
  split
  · exact h.send
  · exact h.sendMsi
  · exact h.send
  · exact h.send

theorem Keeps.hostWrite (h : Keeps s t) {w} : Keeps s (t.hostWrite w) := by
  unfold State.hostWrite
  dsimp only
  split
  · exact h.deliver
  · exact h.frame
  · exact h

theorem Keeps.cacheReq (h : Keeps s t) {op line off bs} : Keeps s (t.cacheReq op line off bs) :=
  h.hostWrite

theorem Keeps.irq (h : Keeps s t) {v} : Keeps s (t.irq v) :=
  .ite (.ite h h.frame) h.hostWrite

theorem Keeps.biasAsk (h : Keeps s t) {line write} : Keeps s (t.biasAsk line write) := by
  unfold State.biasAsk
  dsimp only
  split
  · exact h
  · split
    · exact h
    · exact h.send.send

/-! ### Records of Bittern's commands (R472 to R499) -/

theorem Keeps.setSq (h : Keeps s t) {q r} : Keeps s (t.setSq q r) :=
  h.frame

theorem Keeps.setCq (h : Keeps s t) {c r} : Keeps s (t.setCq c r) :=
  h.frame

theorem Keeps.postRec (h : Keeps s t) {c r} : Keeps s (t.postRec c r) := by
  unfold State.postRec
  dsimp only
  split
  · exact h
  · exact h.hostWrite.setCq.andThen fun h1 => .ite h1 h1.irq

theorem Keeps.postEventRec (h : Keeps s t) {c r} : Keeps s (t.postEventRec c r) := by
  unfold State.postEventRec
  dsimp only
  split
  · exact h
  · exact .ite h.setCq.postRec (.ite h.setCq h.setCq)

theorem Keeps.flushEvents (h : Keeps s t) {c n} : Keeps s (State.flushEvents c n t) := by
  induction n generalizing t with
  | zero => exact h
  | succ n ih =>
    unfold State.flushEvents
    split
    · exact h
    · split
      · exact h
      · split
        · exact ih h.setCq.postRec
        · exact .ite h h.setCq.postRec

theorem Keeps.event (h : Keeps s t) {cls kind detail r0 r1} : Keeps s (t.event cls kind detail r0 r1) := by
  unfold State.event
  split
  · exact h
  · exact h.postEventRec

theorem Keeps.writeRec (h : Keeps s t) {c r} : Keeps s (t.writeRec c r) := by
  unfold State.writeRec
  dsimp only
  split
  · exact h.frame.drawn
  · split
    · split
      · exact h.postEventRec
      · exact h.frame
    · split
      · exact h
      · exact h.setCq.postRec

theorem Keeps.dropCmd (h : Keeps s t) {c} : Keeps s (t.dropCmd c) :=
  h.frame

theorem Keeps.finish (h : Keeps s t) {c status detail flags r0 r1} : Keeps s (t.finish c status detail flags r0 r1) :=
  h.writeRec

theorem Keeps.startCmd (h : Keeps s t) {c} : Keeps s (t.startCmd c) := by
  unfold State.startCmd
  dsimp only
  split
  · exact h.finish
  · exact h.frame

theorem Keeps.ringIdle (h : Keeps s t) {q} : Keeps s (t.ringIdle q) := by
  unfold State.ringIdle
  dsimp only
  split
  · exact h
  · split
    · exact h
    · split
      · exact h.setSq.startCmd
      · split
        · exact h
        · exact .since (fun h1 => h1.frame.dropCmd.finish) (by
            split
            · exact .ite h.setCq h
            · exact h)
      · exact h

theorem Keeps.complete (h : Keeps s t) {c status detail flags r0 r1} : Keeps s (t.complete c status detail flags r0 r1) :=
  h.dropCmd.finish.ringIdle

theorem Keeps.running (h : Keeps s t) {c} : Keeps s (t.running c) :=
  h.frame

theorem Keeps.withCmd (h : Keeps s t) {src op f} (hf : ∀ {c u}, Keeps s u → Keeps s (f c u)) :
    Keeps s (t.withCmd src op f) := by
  unfold State.withCmd
  split
  · exact .ite (hf h) h
  · exact h

theorem Keeps.stopCore (h : Keeps s t) {why c} : Keeps s (t.stopCore why c) :=
  h.modCore

theorem Keeps.suspend (h : Keeps s t) {x c r0 r1} : Keeps s (t.suspend x c r0 r1) :=
  .ite (((h.setCtx.foldl fun h1 => h1.stopCore).stopLists).event)
    (.ite (h.setCtx.stopLists.andThen fun h2 => .ite h2.event h2) (.ite h.stopLists.event h))

theorem Keeps.suspendAll (h : Keeps s t) {c xs} : Keeps s (t.suspendAll c xs) :=
  h.foldl fun h1 => h1.suspend

/-! ### Pegs (R208 to R223) -/

theorem Keeps.pegError (h : Keeps s t) {p double} : Keeps s (t.pegError p double) :=
  .ite h.bump.raiseEcc h.setPeg.bump.setCfg.raiseEcc.suspendAll

theorem Keeps.pegCycle (h : Keeps s t) {p ops} : Keeps s (t.pegCycle p ops) :=
  h.setPeg.andThen fun h1 => (Keeps.ite h1.bumpBy (h1.bumpBy.andThen fun h2 => .ite h2.bumpBy h2)).andThen fun h3 =>
    .ite h3.bumpBy.frame h3.frame

theorem RunsKeeping.execPegOperations (h : Keeps s t) {peg n err} : RunsKeeping s (execPegOperations peg n err t) := by
  unfold Machine.execPegOperations
  dsimp only
  refine .when h fun h1 => ?_
  exact .since (fun h2 => h2.frame.pegCycle) (by
    split
    · exact h1.pegError
    · exact h1)

/-! ### The core store -/

theorem Keeps.isolate (h : Keeps s t) {c} : Keeps s (t.isolate c) :=
  .ite h h.modCore.unwait.frame

theorem Keeps.fenceTrigger (h : Keeps s t) {c} : Keeps s (t.fenceTrigger c) :=
  .ite h h.frame

theorem Keeps.wantRemap (h : Keeps s t) {c row} : Keeps s (t.wantRemap c row) :=
  h.modCore

theorem Keeps.storeErr (h : Keeps s t) {c e} : Keeps s (t.storeErr c e) :=
  .ite h (.ite (h.setCore.bump.raise.andThen fun h1 => .ite h1.wantRemap h1)
    (h.setCore.bump.setCfg.setBit.raise.wantRemap.andThen fun h2 => .ite h2.fenceTrigger h2))

theorem Keeps.storeErrs (h : Keeps s t) {c es} : Keeps s (t.storeErrs c es) :=
  h.foldl fun h1 => h1.storeErr

theorem RunsKeeping.execCorrectingWriteBack (h : Keeps s t) {core} : RunsKeeping s (execCorrectingWriteBack core t) :=
  .when h fun h1 => h1.modCore

theorem RunsKeeping.execRowRemap (h : Keeps s t) {core} : RunsKeeping s (execRowRemap core t) := by
  unfold Machine.execRowRemap
  dsimp only
  split
  · exact .done h
  · exact .done h.setCore.setFld

theorem RunsKeeping.execCoreStoreScrub (h : Keeps s t) {core errs} : RunsKeeping s (execCoreStoreScrub core errs t) :=
  .when h fun h1 => h1.storeErrs.modCore.bumpIf

/-! ### Lists (R337 to R351, R364 to R370) -/

theorem Keeps.ceBytes (h : Keeps s t) {e c n} : Keeps s (t.ceBytes e c n) :=
  .ite h h.bumpBy.frame

theorem Keeps.acceptList (h : Keeps s t) {e i x units lcore cmd} : Keeps s (t.acceptList e i x units lcore cmd) :=
  h.setList.frame

theorem Keeps.listGone (h : Keeps s t) {k l} : Keeps s (t.listGone k l) := by
  unfold State.listGone
  dsimp only
  exact h.frame.andThen fun h1 => (Keeps.ite h1.bump h1).andThen fun h2 => by
    exact .since (fun h3 => (Keeps.ite h3.event h3).andThen fun h4 => by
        split
        · exact .ite h4.complete h4.complete
        · exact h4) (by
      split
      · exact h2.setCfg
      · exact h2)

theorem Keeps.listSettle (h : Keeps s t) {k} : Keeps s (t.listSettle k) := by
  unfold State.listSettle
  split
  · exact h
  · exact .ite h.listGone h

theorem Keeps.listStop (h : Keeps s t) {k status} : Keeps s (t.listStop k status) := by
  unfold State.listStop
  dsimp only
  split
  · exact h
  · exact (Keeps.ite h.unwait h).setList.listSettle

theorem Keeps.listAbort (h : Keeps s t) {k status} : Keeps s (t.listAbort k status) := by
  unfold State.listAbort
  dsimp only
  split
  · exact h
  · exact (Keeps.ite h.bump.bumpIf h).listStop.suspend

theorem Keeps.chunkAck (h : Keeps s t) {e n w} : Keeps s (t.chunkAck e n w) := by
  unfold State.chunkAck
  dsimp only
  split
  · exact h
  · exact h.setList.ceBytes.listSettle

theorem Keeps.chunkLost (h : Keeps s t) {e n w} : Keeps s (t.chunkLost e n w) := by
  unfold State.chunkLost
  dsimp only
  split
  · exact h
  · split
    · exact h
    · exact (Keeps.ite h.unwait h).setList.bumpIf

/-! ### Packets and connections (R416 to R418) -/

theorem Keeps.setFab (h : Keeps s t) {f} : Keeps s (t.setFab f) :=
  h.frame

theorem Keeps.setConn (h : Keeps s t) {c k} : Keeps s (t.setConn c k) :=
  h.setFab

theorem Keeps.trcFab (h : Keeps s t) {c ty psn pty status} : Keeps s (t.trcFab c ty psn pty status) :=
  .ite h.trcStore h

theorem Keeps.arrive (h : Keeps s t) {lode p} : Keeps s (t.arrive lode p) :=
  h.setFab

theorem Keeps.takeRate (h : Keeps s t) {c n} : Keeps s (t.takeRate c n) :=
  h.setFab

theorem Keeps.sendNew (h : Keeps s t) {c} : Keeps s (t.sendNew c).2 := by
  unfold State.sendNew
  dsimp only
  split
  · exact h
  · exact h.setConn.takeRate.bump.trcFab

theorem Keeps.sendAck (h : Keeps s t) {c} : Keeps s (t.sendAck c).2 := by
  unfold State.sendAck
  dsimp only
  split
  · exact h
  · exact h.setConn.bump

theorem Keeps.sendAgain (h : Keeps s t) {c} : Keeps s (t.sendAgain c).2 := by
  unfold State.sendAgain
  dsimp only
  split
  · exact h
  · exact h.setConn.andThen fun h1 => by
      split
      · exact h1.bump
      · exact h1

theorem Keeps.pump (h : Keeps s t) {c n} : Keeps s (State.pump c n t) := by
  induction n generalizing t with
  | zero => exact h
  | succ n ih =>
    unfold State.pump
    extract_lets k o
    have ho : Keeps s o.2 := .iteSnd h.sendAck (.iteSnd h.sendAgain (.iteSnd h.sendNew h))
    split
    · exact ih ho.arrive
    · exact .ite ho (ih ho)

theorem Keeps.pumpAll (h : Keeps s t) {c} : Keeps s (t.pumpAll c) :=
  .ite h.pump h

theorem Keeps.queuePkt (h : Keeps s t) {c pkt} : Keeps s (t.queuePkt c pkt) :=
  h.setConn.pumpAll

theorem Keeps.queueAck (h : Keeps s t) {c a} : Keeps s (t.queueAck c a) :=
  h.setConn.pumpAll

theorem Keeps.sigLost (h : Keeps s t) {r x dev} : Keeps s (t.sigLost r x dev) :=
  h.bump.event

theorem Keeps.listFail (h : Keeps s t) {k status c} : Keeps s (t.listFail k status c) := by
  unfold State.listFail
  split
  · exact .ite h h.setList.listStop
  · exact h

theorem Keeps.connBreak (h : Keeps s t) {c cause} : Keeps s (t.connBreak c cause) :=
  .ite h (((h.setConn.setFld.bump.setFab.foldl fun h1 => h1.listFail).foldl fun h2 => h2.sigLost).event)

theorem Keeps.connDrop (h : Keeps s t) {c} : Keeps s (t.connDrop c) :=
  h.setConn.andThen fun h1 => .ite h1.connBreak.raise h1

theorem Keeps.resendAll (h : Keeps s t) {c} : Keeps s (t.resendAll c) :=
  h.setConn.pumpAll

theorem Keeps.fabLodeUp (h : Keeps s t) {l} : Keeps s (t.fabLodeUp l) :=
  h.foldl fun h1 => .ite h1.setConn h1

theorem Keeps.fabLodeDown (h : Keeps s t) {l} : Keeps s (t.fabLodeDown l) :=
  h.foldl fun h1 => .ite h1.setConn h1

theorem Keeps.pegMsg (h : Keeps s t) {r x dev index amount} : Keeps s (t.pegMsg r x dev index amount) := by
  unfold State.pegMsg
  split
  · exact h.queuePkt
  · exact h.sigLost

theorem RunsKeeping.execE2eTimeout (h : Keeps s t) {conn} : RunsKeeping s (execE2eTimeout conn t) :=
  .when h fun h1 => h1.setConn.andThen fun h2 => .ite h2.connBreak h2.resendAll

theorem RunsKeeping.execNoLodeTimeout (h : Keeps s t) {conn} : RunsKeeping s (execNoLodeTimeout conn t) :=
  .when h fun h1 => h1.connBreak

theorem RunsKeeping.execTxratePeriod (h : Keeps s t) {region part} : RunsKeeping s (execTxratePeriod region part t) :=
  .when h fun h1 => h1.setFab.foldl fun h2 => .ite h2.pumpAll h2

theorem RunsKeeping.execConnDropWindow (h : Keeps s t) {conn} : RunsKeeping s (execConnDropWindow conn t) :=
  .when h fun h1 => h1.setConn

/-! ### The sequencer's rows -/

theorem Keeps.seqFault (h : Keeps s t) {c reason row} : Keeps s (t.seqFault c reason row) := by
  unfold State.seqFault
  dsimp only
  exact h.setCfg.setCore.raise.andThen fun h1 => by
    split
    · exact h1.suspend
    · exact h1

theorem Keeps.goto (h : Keeps s t) {c target keep} : Keeps s (t.goto c target keep) :=
  .ite h.setCore h.setCore.seqFault

theorem Keeps.issued (h : Keeps s t) {c} : Keeps s (t.issued c) := by
  unfold State.issued
  dsimp only
  exact h.bump.andThen fun h1 => by
    split
    · exact .ite h1.trcCore h1
    · exact h1

theorem Keeps.nextRow (h : Keeps s t) {c} : Keeps s (t.nextRow c) :=
  h.goto

theorem Keeps.issue (h : Keeps s t) {c f} (hf : ∀ {u a sig}, Keeps s u → Keeps s ((f a sig).getD id u)) :
    Keeps s (t.issue c f) := by
  unfold State.issue
  extract_lets k
  refine .ite h ?_
  split
  · exact h
  · refine .ite h.seqFault ?_
    split
    · exact h
    · exact h.seqFault
    next a sig _ =>
      have hg : Keeps s ((f a sig).getD id t) := hf h
      split
      next g hs => simpa [hs] using hg
      · exact h

theorem Keeps.issueEngine (h : Keeps s t) {c e opc op reads writes sig} :
    Keeps s (t.issueEngine c e opc op reads writes sig) :=
  .ite h.issued.modCore.nextRow h

theorem Keeps.engineTrick (h : Keeps s t) {c errs p} : Keeps s (t.engineTrick c errs p) := by
  unfold State.engineTrick
  refine .ite (h.storeErrs.issue fun h1 => ?_) h
  split
  · split
    · exact h1.issueEngine
    · exact h1
  · exact h1

theorem RunsKeeping.execMm (h : Keeps s t) {core errs} : RunsKeeping s (execMm core errs t) :=
  .done h.engineTrick

theorem RunsKeeping.execVec (h : Keeps s t) {core errs} : RunsKeeping s (execVec core errs t) :=
  .done h.engineTrick

theorem RunsKeeping.execTu (h : Keeps s t) {core errs} : RunsKeeping s (execTu core errs t) :=
  .done h.engineTrick

theorem RunsKeeping.execStageIn (h : Keeps s t) {core errs} : RunsKeeping s (execStageIn core errs t) :=
  .done h.engineTrick

theorem RunsKeeping.execStageOut (h : Keeps s t) {core errs} : RunsKeeping s (execStageOut core errs t) :=
  .done h.engineTrick

theorem RunsKeeping.execGather (h : Keeps s t) {core errs} : RunsKeeping s (execGather core errs t) :=
  .done h.engineTrick

theorem RunsKeeping.execScatter (h : Keeps s t) {core errs} : RunsKeeping s (execScatter core errs t) :=
  .done h.engineTrick

theorem RunsKeeping.execCopyLocal (h : Keeps s t) {core errs} : RunsKeeping s (execCopyLocal core errs t) :=
  .done h.engineTrick

theorem RunsKeeping.execNop (h : Keeps s t) {core} : RunsKeeping s (execNop core t) := by
  unfold Machine.execNop
  refine .done (h.issue fun h1 => ?_)
  split
  · exact h1.issued.nextRow
  · exact h1

theorem RunsKeeping.execHalt (h : Keeps s t) {core} : RunsKeeping s (execHalt core t) := by
  unfold Machine.execHalt
  refine .done (h.issue fun h1 => ?_)
  split
  · simp only [Option.getD_some]
    exact h1.issued.modCore
  · exact h1

theorem RunsKeeping.execTfence (h : Keeps s t) {core} : RunsKeeping s (execTfence core t) := by
  unfold Machine.execTfence
  refine .done (h.issue fun h1 => ?_)
  split
  · exact .ite h1 h1.issued.bump.goto
  · exact h1

theorem RunsKeeping.execLoop (h : Keeps s t) {core} : RunsKeeping s (execLoop core t) := by
  unfold Machine.execLoop
  refine .done (h.issue fun h1 => ?_)
  split
  · exact .ite h1.seqFault h1.issued.modCore.nextRow
  · exact h1

theorem RunsKeeping.execEndloop (h : Keeps s t) {core} : RunsKeeping s (execEndloop core t) := by
  unfold Machine.execEndloop
  refine .done (h.issue fun h1 => ?_)
  split
  · simp only [Option.getD_some]
    split
    · exact h1.seqFault
    · exact .ite h1.seqFault (.ite h1.issued.modCore.goto h1.issued.modCore.nextRow)
  · exact h1

theorem Keeps.callTo (h : Keeps s t) {c target} : Keeps s (t.callTo c target) :=
  h.setCore.goto

theorem RunsKeeping.execCall (h : Keeps s t) {core} : RunsKeeping s (execCall core t) := by
  unfold Machine.execCall
  refine .done (h.issue fun h1 => ?_)
  split
  · exact .ite h1.seqFault h1.issued.callTo
  · exact h1

theorem RunsKeeping.execRet (h : Keeps s t) {core} : RunsKeeping s (execRet core t) := by
  unfold Machine.execRet
  refine .done (h.issue fun h1 => ?_)
  split
  · simp only [Option.getD_some]
    split
    · exact h1.seqFault
    · exact .ite h1.seqFault h1.issued.modCore.goto
  · exact h1

theorem RunsKeeping.execPsig (h : Keeps s t) {core} : RunsKeeping s (execPsig core t) := by
  unfold Machine.execPsig
  refine .done (h.issue fun h1 => ?_)
  split
  · simp only [Option.getD_some]
    split
    · exact h1.issued.pegDo.nextRow
    · exact h1
  · simp only [Option.getD_some]
    exact h1.issued.pegMsg.nextRow
  · exact h1

theorem RunsKeeping.execParm (h : Keeps s t) {core} : RunsKeeping s (execParm core t) := by
  unfold Machine.execParm
  refine .done (h.issue fun h1 => ?_)
  split
  · simp only [Option.getD_some]
    split
    · exact h1.issued.pegDo.nextRow
    · exact h1
  · exact h1

theorem RunsKeeping.execPreset (h : Keeps s t) {core} : RunsKeeping s (execPreset core t) := by
  unfold Machine.execPreset
  refine .done (h.issue fun h1 => ?_)
  split
  · simp only [Option.getD_some]
    split
    · exact h1.issued.pegDo.nextRow
    · exact h1
  · exact h1

theorem RunsKeeping.execPwait (h : Keeps s t) {core} : RunsKeeping s (execPwait core t) := by
  unfold Machine.execPwait
  refine .done (h.issue fun h1 => ?_)
  split
  · simp only [Option.getD_some]
    split
    · exact h1.modCore.pegDo
    · exact h1
  · exact h1

theorem RunsKeeping.execRwait (h : Keeps s t) {core} : RunsKeeping s (execRwait core t) := by
  unfold Machine.execRwait
  refine .done (h.issue fun h1 => ?_)
  split
  · exact .ite h1.issued.nextRow h1.modCore
  · exact h1

theorem Keeps.wakeClock (h : Keeps s t) {c} : Keeps s (t.wakeClock c) :=
  .ite h.modCore.trcMark h

theorem Keeps.deadlineEnd (h : Keeps s t) {c fb met} : Keeps s (t.deadlineEnd c fb met) :=
  (Keeps.ite h.trcCore h).andThen fun h1 =>
    .ite h1.issued.bump.nextRow (h1.bump.andThen fun h2 => .ite h2.seqFault h2.issued.callTo)

theorem Keeps.releaseWait (h : Keeps s t) {c} : Keeps s (t.releaseWait c) := by
  unfold State.releaseWait
  dsimp only
  exact h.wakeClock.andThen fun h1 => by
    split
    · exact h1.deadlineEnd
    · exact h1.issued.nextRow
    · exact h1

theorem Keeps.roundAt (h : Keeps s t) {c} : Keeps s (t.roundAt c) := by
  unfold State.roundAt
  dsimp only
  split
  · exact h
  · split
    · exact .ite h.releaseWait h
    · exact .ite h.unwait.wakeClock.deadlineEnd h
    · exact h

theorem RunsKeeping.execDeadline (h : Keeps s t) {core} : RunsKeeping s (execDeadline core t) := by
  unfold Machine.execDeadline
  refine .done (h.issue fun h1 => ?_)
  split
  · simp only [Option.getD_some]
    split
    · exact h1
    · exact .ite h1.deadlineEnd h1.modCore.pegDo
  · exact h1

theorem RunsKeeping.execTmark (h : Keeps s t) {core} : RunsKeeping s (execTmark core t) := by
  unfold Machine.execTmark
  refine .done (h.issue fun h1 => ?_)
  split
  · exact h1.issued.trcCore.nextRow
  · exact h1

theorem RunsKeeping.execRowCapture (h : Keeps s t) {core errs} : RunsKeeping s (execRowCapture core errs t) :=
  .when h fun h1 => h1.storeErrs.modCore

theorem Keeps.releaseCores (h : Keeps s t) {x} : Keeps s (t.releaseCores x) :=
  h.foldl fun h1 => h1.unwait.modCore.setFld

theorem Keeps.handEnd (h : Keeps s t) {x status} : Keeps s (t.handEnd x status) := by
  unfold State.handEnd
  dsimp only
  exact h.releaseCores.setCtx.andThen fun h1 => by
    split
    · exact h1.complete
    · exact h1

theorem Keeps.handDone (h : Keeps s t) {x} : Keeps s (t.handDone x) := by
  unfold State.handDone
  dsimp only
  split
  · exact h.handEnd.andThen fun h1 => by
      split
      · exact h1.modCtx.complete
      · exact h1
  · exact h

theorem Keeps.cancelDone (h : Keeps s t) {x} : Keeps s (t.cancelDone x) := by
  unfold State.cancelDone
  dsimp only
  split
  · exact .since (fun h1 => h1.handEnd) (by
      split
      · exact h.modCtx.complete
      · exact h)
  · exact h

theorem Keeps.settle (h : Keeps s t) {c} : Keeps s (t.settle c) := by
  unfold State.settle
  dsimp only
  exact (Keeps.ite h.setCore h).andThen fun h1 => by
    split
    · exact h1.cancelDone
    · exact h1

theorem Keeps.park (h : Keeps s t) {c} : Keeps s (t.park c) :=
  h.wakeClock.unwait.modCore

theorem RunsKeeping.execHalted (h : Keeps s t) {core} : RunsKeeping s (execHalted core t) := by
  unfold Machine.execHalted
  dsimp only
  refine .when h fun h1 => ?_
  exact h1.modCore.andThen fun h2 => by
    split
    · exact h2.modCtx.handDone
    · exact h2

theorem Keeps.record (h : Keeps s t) {c e r} : Keeps s (t.record c e r) :=
  h.setCfg.bumpBy.bumpBy.bumpBy.bumpBy.bumpBy

theorem Keeps.retire (h : Keeps s t) {c e trick} : Keeps s (t.retire c e trick) := by
  unfold State.retire
  dsimp only
  exact h.modCore.andThen fun h1 => by
    exact .since (fun h2 => (Keeps.ite h2.trcCore h2).settle) (by
      split
      · exact h1.pegDo
      · exact h1)

theorem Keeps.landCompute (h : Keeps s t) {c e trick r fault} : Keeps s (t.landCompute c e trick r fault) := by
  unfold State.landCompute
  extract_lets
  exact h.setCore.record.retire.andThen fun h1 => by
    split
    · exact (Keeps.ite h1.raiseEcc h1.raise).andThen fun h2 => by
        split
        · exact h2.suspend
        · exact h2
    · exact h1

theorem RunsKeeping.execClockStopEntry (h : Keeps s t) {core} : RunsKeeping s (execClockStopEntry core t) :=
  .when h fun h1 => h1.modCore.trcMark

theorem RunsKeeping.execClockStopExit (h : Keeps s t) {core} : RunsKeeping s (execClockStopExit core t) :=
  .when h fun h1 => h1.wakeClock

/-! ### HBM -/

theorem Keeps.setHctl (h : Keeps s t) {k ctl} : Keeps s (t.setHctl k ctl) :=
  h.frame

theorem Keeps.spoilHalf (h : Keeps s t) {half b} : Keeps s (t.spoilHalf half b) :=
  ⟨h.pending, fun w => State.memoryWf_spoilHalf _ _ _ (h.memoryWf w)⟩

theorem Keeps.hbmWrite (h : Keeps s t) {line off bs bad} : Keeps s (t.hbmWrite line off bs bad) where
  pending := by
    unfold State.hbmWrite
    dsimp only
    split <;> exact h.pending
  memoryWf w := State.memoryWf_hbmWrite _ _ _ _ _ (h.memoryWf w)

theorem Keeps.candidate (h : Keeps s t) {k row} : Keeps s (t.candidate k row) :=
  .ite h h.setHctl

theorem Keeps.hbmCe (h : Keeps s t) {line ctx} : Keeps s (t.hbmCe line ctx) :=
  h.bump.raiseEcc.setHctl.andThen fun h1 => .ite h1.candidate h1

theorem Keeps.hbmUe (h : Keeps s t) {line half ctx} : Keeps s (t.hbmUe line half ctx) :=
  h.bump.setCfg.spoilHalf.raiseEcc.candidate

theorem Keeps.hbmFinds (h : Keeps s t) {line e ctx} : Keeps s (t.hbmFinds line e ctx) := by
  unfold State.hbmFinds
  split
  · exact h
  · split
    · exact h.hbmCe
    · exact h.hbmUe
    · exact h

theorem RunsKeeping.execHbmRequest (h : Keeps s t) {line req err ctx} :
    RunsKeeping s (execHbmRequest line req err ctx t) := by
  unfold Machine.execHbmRequest
  dsimp only
  refine .when h fun h1 => ?_
  split
  · exact h1.bump.setCfg.raiseEcc.andThen fun h2 => .ite h2.setHctl h2
  · exact h1.bumpIf.andThen fun h3 => by
      split
      · exact h3.hbmFinds.setHctl
      · exact .ite h3.hbmWrite h3.hbmFinds.hbmWrite
      · exact h3.spoilHalf

theorem RunsKeeping.execHbmRefresh (h : Keeps s t) {stack} : RunsKeeping s (execHbmRefresh stack t) :=
  .done h

theorem RunsKeeping.execLaneRepair (h : Keeps s t) {stack channel lane spare} :
    RunsKeeping s (execLaneRepair stack channel lane spare t) := by
  unfold Machine.execLaneRepair
  dsimp only
  refine .when h fun h1 => ?_
  split
  · exact h1.setHctl
  · exact h1.setHctl.setCfg.raise

theorem RunsKeeping.execLaneRepairDone (h : Keeps s t) {stack} : RunsKeeping s (execLaneRepairDone stack t) := by
  unfold Machine.execLaneRepairDone
  extract_lets k
  refine .when h fun h1 => ?_
  exact h1.setFld.setFld.bump.setHctl.logDue.raise

theorem RunsKeeping.execPatrolScrub (h : Keeps s t) {stack err} : RunsKeeping s (execPatrolScrub stack err t) := by
  unfold Machine.execPatrolScrub
  dsimp only
  refine .when h fun h1 => ?_
  split
  · exact .ite h1.setHctl.hbmFinds h1
  · exact h1.bumpIf.andThen fun h2 => .ite h2.setHctl.hbmFinds h2.setHctl

theorem RunsKeeping.execSppr (h : Keeps s t) {stack} : RunsKeeping s (execSppr stack t) := by
  unfold Machine.execSppr
  dsimp only
  split
  · exact .when h fun h1 => h1.setHctl
  · exact .done h

theorem RunsKeeping.execSpprDone (h : Keeps s t) {stack spare} : RunsKeeping s (execSpprDone stack spare t) := by
  unfold Machine.execSpprDone
  dsimp only
  split
  · exact .when h fun h1 => h1.setHctl.andThen fun h2 => .ite h2.bump.logDue h2.bump
  · exact .done h

theorem RunsKeeping.execStackTemperatureRead (h : Keeps s t) {stack temp} :
    RunsKeeping s (execStackTemperatureRead stack temp t) := by
  unfold Machine.execStackTemperatureRead
  extract_lets k r
  refine .when h fun h1 => ?_
  exact h1.setHctl.andThen fun h2 => (Keeps.ite h2 h2.logDue).andThen fun h3 => (Keeps.ite h3.frame h3).andThen fun h4 =>
    .ite (h4.raise.foldl fun h5 => h5.suspend.andThen fun h6 => .ite h6.modCtx h6) h4

theorem Keeps.setTok (h : Keeps s t) {b n} : Keeps s (t.setTok b n) :=
  h.frame

theorem Keeps.charge (h : Keeps s t) {r n hbm} : Keeps s (t.charge r n hbm) :=
  .ite h.setTok (.ite h (.ite h h.frame))

theorem Keeps.setBucket (h : Keeps s t) {r n hbm w} : Keeps s (t.setBucket r n hbm w) :=
  h.setTok.setCfg

theorem RunsKeeping.execRegulatorPeriod (h : Keeps s t) : RunsKeeping s (execRegulatorPeriod t) :=
  .done ((h.foldl fun h1 => h1.bump).frame.foldl fun h2 => h2.setTok)

/-! ### The slices and the core caches -/

theorem Keeps.sPut (h : Keeps s t) {i l} : Keeps s (t.sPut i l) :=
  h.frame

theorem Keeps.sDrop (h : Keeps s t) {i} : Keeps s (t.sDrop i) :=
  h.frame

theorem Keeps.ccRemove (h : Keeps s t) {c line} : Keeps s (t.ccRemove c line) := by
  unfold State.ccRemove
  split
  · exact h.modCore
  · exact h

theorem Keeps.ccSetSt (h : Keeps s t) {c line st} : Keeps s (t.ccSetSt c line st) := by
  unfold State.ccSetSt
  split
  · exact h.modCore
  · exact h

theorem Keeps.mergeM (h : Keeps s t) {line d poison} : Keeps s (t.mergeM line d poison) := by
  unfold State.mergeM
  split
  · exact h.sPut
  · exact h

theorem Keeps.pullOne (h : Keeps s t) {line keep c} : Keeps s (t.pullOne line keep c) := by
  unfold State.pullOne
  dsimp only
  exact h.bump.ccRemove.andThen fun h1 => by
    split
    · exact .ite h1.mergeM h1
    · exact h1

theorem Keeps.pull (h : Keeps s t) {line keep but} : Keeps s (t.pull line keep but) :=
  h.foldl fun h1 => h1.pullOne

theorem Keeps.sEvict (h : Keeps s t) {i} : Keeps s (t.sEvict i) := by
  unfold State.sEvict
  dsimp only
  split
  · exact h
  · exact h.pull.andThen fun h1 => by
      split
      · exact h1.sDrop.andThen fun h2 => .ite h2.bump.charge.hbmWrite h2
      · exact h1

theorem Keeps.sliceErr (h : Keeps s t) {line e ctx} : Keeps s (t.sliceErr line e ctx).1 := by
  unfold State.sliceErr
  dsimp only
  split
  · split
    · exact h
    · exact h.bump.raiseEcc
    · exact h.bump.raiseEcc.sEvict
    · exact h.bump.raiseEcc.sEvict
    · exact h.bump.raiseEcc.sEvict
    · exact h.bump.raiseEcc.sPut.sEvict
    · exact h.bump.raiseEcc.sPut.sEvict
  · exact h

theorem Keeps.sAlloc (h : Keeps s t) {line cls data dirty poison} : Keeps s (t.sAlloc line cls data dirty poison) := by
  unfold State.sAlloc
  dsimp only
  split
  · exact h
  · exact h.sEvict.frame.sPut

theorem Keeps.sTouch (h : Keeps s t) {line hint cls} : Keeps s (t.sTouch line hint cls) := by
  unfold State.sTouch
  dsimp only
  split
  · exact .ite h h.frame.sPut
  · exact h

theorem Keeps.sFetch (h : Keeps s t) {line hint cls} : Keeps s (t.sFetch line hint cls).2 :=
  h.bump.charge.andThen fun h1 => .ite h1 h1.sAlloc.sTouch

theorem Keeps.ncRead (h : Keeps s t) {line hint cls} : Keeps s (t.ncRead line hint cls).2 := by
  unfold State.ncRead
  dsimp only
  exact h.charge.andThen fun h1 => by
    split
    · exact h1.pull.andThen fun h2 => by
        split
        · exact h2.bump.andThen fun h3 => .iteSnd h3.sEvict h3.bumpIf.sDrop
        · exact h2.sFetch
    · split
      · exact h1.bump.sTouch.andThen fun h4 => by
          split
          · split <;> exact h4.bump
          · exact h4
      · exact h1.sFetch

theorem Keeps.ncWrite (h : Keeps s t) {line hint cls off bs bad} : Keeps s (t.ncWrite line hint cls off bs bad) := by
  unfold State.ncWrite
  dsimp only
  exact h.charge.pull.andThen fun h1 => by
    split
    · exact h1.bump.sPut.andThen fun h2 => .ite h2.sDrop.charge.hbmWrite h2.sTouch
    · exact h1.bump.andThen fun h3 => by
        split
        · exact h3.charge.hbmWrite
        · split
          · exact h3.sAlloc.sTouch
          · exact h3.charge.andThen fun h4 => by
              split
              · exact h4
              · exact h4.sAlloc.sTouch.andThen fun h5 => by
                  split
                  · exact h5.sPut
                  · exact h5.hbmWrite

theorem Keeps.ccReplace (h : Keeps s t) {c i} : Keeps s (t.ccReplace c i) := by
  unfold State.ccReplace
  dsimp only
  split
  · exact h
  · exact h.modCore.andThen fun h1 => .ite h1.mergeM h1

theorem Keeps.ccInstall (h : Keeps s t) {c line st d poison} : Keeps s (t.ccInstall c line st d poison) := by
  unfold State.ccInstall
  dsimp only
  split
  · exact h.modCore
  · exact h.ccReplace.modCore

theorem Keeps.ccErr (h : Keeps s t) {c f} : Keeps s (t.ccErr c f) := by
  unfold State.ccErr
  split
  · exact h
  · extract_lets host tell ce ue
    have htell {u kind cnt} (hu : Keeps s u) : Keeps s (tell u kind cnt) := hu.bump.raiseEcc
    split
    · exact h
    · exact htell h
    · exact (htell h).modCore.ccReplace
    · exact (htell h).modCore.ccReplace
    · exact (htell h).ccReplace
    · exact (htell h).ccReplace
    · exact (htell h).ccReplace

theorem Keeps.ccErrs (h : Keeps s t) {c fs} : Keeps s (t.ccErrs c fs) :=
  h.foldl fun h1 => h1.ccErr

theorem Keeps.predStep (h : Keeps s t) {line up} : Keeps s (t.predStep line up) := by
  unfold State.predStep
  split
  · exact h.sPut
  · exact h

theorem Keeps.ncAtomic (h : Keeps s t) {line hint cls op w off cmp v near} :
    Keeps s (t.ncAtomic line hint cls op w off cmp v near).2 := by
  unfold State.ncAtomic
  extract_lets r near tgt goNear others mine s1 s2 s3 got s4 data poison a s5
  have h1 : Keeps s s3 := h.charge.pull.bump.bump
  have hgot : Keeps s got.2 := by
    unfold got
    split
    · exact h1.bump.sTouch
    · exact h1.sFetch
  have h2 : Keeps s s4 := .ite hgot.predStep (.ite hgot.predStep hgot)
  have h3 : Keeps s s5 := by
    unfold s5
    split
    · exact .ite h2.ccInstall h2.sPut
    · exact h2.charge.hbmWrite
  exact .iteSnd h2 h3

theorem Keeps.shareOthers (h : Keeps s t) {line c} : Keeps s (t.shareOthers line c) := by
  unfold State.shareOthers
  dsimp only
  refine h.foldl fun h1 => ?_
  split
  · exact (Keeps.ite h1 h1.bump.ccSetSt).andThen fun h2 => .ite h2.mergeM h2
  · exact h1

theorem Keeps.sliceFor (h : Keeps s t) {line hint cls} : Keeps s (t.sliceFor line hint cls).2 := by
  unfold State.sliceFor
  split
  · exact h.bump.sTouch
  · exact h.sFetch

theorem Keeps.ccRead (h : Keeps s t) {c line hint cls} : Keeps s (t.ccRead c line hint cls).2 := by
  unfold State.ccRead
  split
  · exact h.ncRead
  · split
    · exact h.setCore
    · extract_lets s1 st d
      have hd : Keeps s d.2 := h.charge.shareOthers.sliceFor
      exact .iteSnd hd hd.ccInstall

theorem Keeps.ccWrite (h : Keeps s t) {c line hint cls off bs bad} : Keeps s (t.ccWrite c line hint cls off bs bad) := by
  unfold State.ccWrite
  dsimp only
  split
  · exact h.ncWrite
  · split
    · exact (Keeps.ite h.charge.pull h).ccInstall
    · exact h.charge.pull.andThen fun h1 =>
        .ite ((Keeps.ite h1.sTouch (.ite h1.bump.sAlloc.sTouch h1)).andThen fun h2 => .ite h2.ccInstall h2.ncWrite)
        (h1.sliceFor.andThen fun h3 => .ite h3 (.ite h3.ncWrite h3.ccInstall))

theorem Keeps.ccFlush (h : Keeps s t) {c} : Keeps s (t.ccFlush c) :=
  (h.foldl fun h1 => h1.ccReplace).setFld

/-! ### The device cache (R291 to R311) -/

theorem Keeps.setDc (h : Keeps s t) {d} : Keeps s (t.setDc d) :=
  h.frame

theorem Keeps.dcPut (h : Keeps s t) {i l} : Keeps s (t.dcPut i l) :=
  h.setDc

theorem Keeps.backInval (h : Keeps s t) {pres line} : Keeps s (t.backInval pres line) :=
  h.foldl fun h1 => .ite h1.ccRemove h1

theorem Keeps.dcDrop (h : Keeps s t) {i} : Keeps s (t.dcDrop i) := by
  unfold State.dcDrop
  dsimp only
  split
  · exact h.setDc.backInval
  · exact h

theorem Keeps.dcEvict (h : Keeps s t) {i} : Keeps s (t.dcEvict i) := by
  unfold State.dcEvict
  dsimp only
  split
  · exact h.dcDrop.bump.setDc.cacheReq
  · exact h

theorem Keeps.dcVictim (h : Keeps s t) {line cls} : Keeps s (t.dcVictim line cls).2 := by
  unfold State.dcVictim
  dsimp only
  split
  · exact h
  · exact .iteSnd h h.setFld.dcEvict

theorem Keeps.dcFill (h : Keeps s t) {line cls pres alloc pf agent} : Keeps s (t.dcFill line cls pres alloc pf agent) :=
  (Keeps.iteSnd h.dcVictim h).setDc.cacheReq

theorem Keeps.dcPrefetch (h : Keeps s t) {last cls} : Keeps s (t.dcPrefetch last cls) :=
  .ite h.bump.dcFill h

theorem Keeps.dcHit (h : Keeps s t) {i l hint pres} : Keeps s (t.dcHit i l hint pres) :=
  h.bump.bumpIf.dcPut.andThen fun h1 => .ite h1.dcEvict h1

theorem Keeps.dcWrite (h : Keeps s t) {line off bs owner ctx cls} : Keeps s (t.dcWrite line off bs owner ctx cls) := by
  unfold State.dcWrite
  dsimp only
  exact .since (fun h1 => h1.setDc.cacheReq) (by
    split
    · exact h.bump.dcPut.backInval
    · exact h.bump)

theorem Keeps.dcZero (h : Keeps s t) {line owner ctx cls} : Keeps s (t.dcZero line owner ctx cls) :=
  h.bump.andThen fun h1 => .ite h1.dcWrite h1.bump.dcVictim.setDc.cacheReq

theorem Keeps.dcOpEnd (h : Keeps s t) {result} : Keeps s (t.dcOpEnd result) := by
  unfold State.dcOpEnd
  dsimp only
  split
  · exact h
  · exact h.setDc.setFld.andThen fun h1 => by
      split
      · exact .ite h1.complete h1.complete
      · exact h1

theorem Keeps.dcOpStep (h : Keeps s t) : Keeps s t.dcOpStep := by
  unfold State.dcOpStep
  dsimp only
  split
  · exact h
  · exact .ite h ((h.foldl fun h1 => h1.dcEvict).setDc.andThen fun h2 => .ite h2.dcOpEnd h2)

theorem Keeps.dcOpStart (h : Keeps s t) {op bySet line first count ways cmd} :
    Keeps s (t.dcOpStart op bySet line first count ways cmd) :=
  h.setCfg.setCfg.setCfg.setCfg.setCfg.andThen fun h1 => .ite h1.setDc.dcOpEnd h1.setDc.dcOpStep

theorem Keeps.dcPlace (h : Keeps s t) {i l} : Keeps s (t.dcPlace i l) :=
  h.dcEvict.dcPut

theorem Keeps.dcInstall (h : Keeps s t) : Keeps s t.dcInstall := by
  unfold State.dcInstall
  dsimp only
  refine h.setDc.foldl fun h1 => ?_
  exact .since (fun h2 => by
      split
      · exact h2.send
      · exact h2) (by
    split
    · exact h1.dcPut
    · exact h1.dcPlace
    · exact h1)

theorem Keeps.dcGet (h : Keeps s t) {fills line hint cls pres} : Keeps s (t.dcGet fills line hint cls pres).2 := by
  unfold State.dcGet
  dsimp only
  split
  · exact h.dcHit
  · exact h.bump.frame.andThen fun h1 => by
      split
      · split
        · exact h1.setDc.dcInstall
        · exact h1.setDc
      · split
        · exact h1.cacheReq
        · exact h1.dcVictim.cacheReq.andThen fun h2 => by
            split
            · exact h2.dcPut
            · exact h2

theorem Keeps.dcParity (h : Keeps s t) {line e} : Keeps s (t.dcParity line e) := by
  unfold State.dcParity
  dsimp only
  split
  · exact h
  · exact .ite h.bump.setCfg.raiseEcc.dcEvict h
  · exact .ite (h.bump.setCfg.raiseEcc.setDc.foldl fun h1 => h1.foldl fun h2 => .ite h2.ccRemove h2) h
  · exact .ite h.bump.setCfg.raiseEcc.setDc.cacheReq h
  · exact .ite h.bump.setCfg.raiseEcc.setDc.dcInstall h
  · exact .ite h.raiseEcc h

theorem RunsKeeping.execDcRead (h : Keeps s t) {agent line hint cls err} :
    RunsKeeping s (execDcRead agent line hint cls err t) := by
  unfold Machine.execDcRead
  dsimp only
  refine .when h fun h1 => ?_
  exact h1.dcParity.andThen fun h2 => by
    split
    · exact h2.dcHit.send
    · exact .ite h2.bump (.ite h2 (h2.bump.dcFill.andThen fun h3 => .ite h3.dcPrefetch h3))

theorem RunsKeeping.execDcWrite (h : Keeps s t) {line off bytes owner ctx cls err} :
    RunsKeeping s (execDcWrite line off bytes owner ctx cls err t) :=
  .when h fun h1 => h1.dcWrite.dcParity

theorem RunsKeeping.execZeroLine (h : Keeps s t) {line cls} : RunsKeeping s (execZeroLine line cls t) :=
  .when h fun h1 => h1.dcZero

theorem RunsKeeping.execFillChunk (h : Keeps s t) {line high data} : RunsKeeping s (execFillChunk line high data t) :=
  .when h fun h1 => h1.setDc.dcInstall

theorem RunsKeeping.execGlobalObservation (h : Keeps s t) {line} : RunsKeeping s (execGlobalObservation line t) := by
  unfold Machine.execGlobalObservation
  dsimp only
  split
  · exact .done h
  · refine .when h fun h1 => ?_
    exact h1.setDc.bump.andThen fun h2 => by
      exact .since (fun h3 => by
          exact .since (fun h4 => by
              split
              · exact h4.setDc.dcOpStep
              · exact h4) (by
            split
            · exact h3.chunkAck
            · exact h3)) (by
        split
        · exact .ite h2 h2.dcPlace
        · exact h2)

theorem RunsKeeping.execCleanEvictDone (h : Keeps s t) {line} : RunsKeeping s (execCleanEvictDone line t) :=
  .when h fun h1 => h1.setDc.dcInstall.dcOpStep

theorem Keeps.hostSnoop (h : Keeps s t) {line inv} : Keeps s (t.hostSnoop line inv) := by
  unfold State.hostSnoop
  dsimp only
  exact h.bump.andThen fun h1 => by
    split
    · exact .ite h1.dcDrop.bump.send h1.send
    · exact (Keeps.ite h1.setDc h1).send

theorem RunsKeeping.execHostSnpinv (h : Keeps s t) {line} : RunsKeeping s (execHostSnpinv line t) :=
  .when h fun h1 => h1.hostSnoop

theorem RunsKeeping.execHostSnpdata (h : Keeps s t) {line} : RunsKeeping s (execHostSnpdata line t) :=
  .when h fun h1 => h1.hostSnoop

theorem RunsKeeping.execHostSnpcur (h : Keeps s t) {line} : RunsKeeping s (execHostSnpcur line t) :=
  .when h fun h1 => h1.hostSnoop

theorem RunsKeeping.execDcInitSweep (h : Keeps s t) : RunsKeeping s (execDcInitSweep t) :=
  .when h fun h1 => h1.dcOpEnd.setDc

/-! ### Coherence -/

theorem Keeps.setCoh (h : Keeps s t) {c} : Keeps s (t.setCoh c) :=
  h.frame

theorem Keeps.fresh (h : Keeps s t) {c epoch f} (hf : ∀ {u}, Keeps s u → Keeps s (f u)) : Keeps s (t.fresh c epoch f) :=
  .ite (hf h) h.bump.setCfg.raise

theorem Keeps.grant (h : Keeps s t) {txn st d bad} : Keeps s (t.grant txn st d bad) :=
  h.setCoh

theorem Keeps.poisonCtx (h : Keeps s t) {ctx} : Keeps s (t.poisonCtx ctx) := by
  unfold State.poisonCtx
  split
  · exact h.suspend
  · exact h

theorem Keeps.serveTxn (h : Keeps s t) {txn} : Keeps s (t.serveTxn txn) := by
  unfold State.serveTxn
  dsimp only
  split
  · exact h.setCoh.sliceFor.setCoh.grant
  · exact h.setCoh.sliceFor.andThen fun h1 => .ite h1.ncWrite h1.setCoh.grant
  · exact h.setCoh.andThen fun h2 => (Keeps.ite h2.sTouch (.ite h2.bump.sAlloc.sTouch h2)).andThen fun h3 =>
      .ite h3.setCoh.grant h3.ncWrite
  · split
    · exact h.setCoh.grant
    · exact h.setCoh.sliceFor.andThen fun h4 => .ite h4.ncWrite h4.setCoh.grant
  · exact .since (fun h5 => h5.send.andThen fun h6 => .ite h6.poisonCtx h6) (by
      split
      · exact h.setCoh.bump.sTouch
      · exact h.setCoh.ncRead)
  · exact h.setCoh.ncWrite
  · exact h.setCoh.ncAtomic.send.andThen fun h7 => .ite h7.poisonCtx h7

theorem Keeps.openTxn (h : Keeps s t) {txn} : Keeps s (t.openTxn txn) :=
  h.setCoh.andThen fun h1 => .ite h1.serveTxn h1

theorem Keeps.request (h : Keeps s t) {txn} : Keeps s (t.request txn) :=
  .ite h.bump.setCoh h.openTxn

theorem Keeps.blockRequest (h : Keeps s t) {txn} : Keeps s (t.blockRequest txn) :=
  .ite h.request (.ite h (.ite h.request h.biasAsk.request))

theorem Keeps.wakeTxns (h : Keeps s t) {n} : Keeps s (State.wakeTxns n t) := by
  induction n generalizing t with
  | zero => exact h
  | succ n ih =>
    unfold State.wakeTxns
    split
    · exact h
    · exact ih h.setCoh.openTxn

theorem Keeps.wake (h : Keeps s t) : Keeps s t.wake :=
  h.wakeTxns

theorem Keeps.answered (h : Keeps s t) {c line got} : Keeps s (t.answered c line got) := by
  unfold State.answered
  dsimp only
  split
  · exact h
  · exact h.setCoh.andThen fun h1 => .ite h1.serveTxn.wake h1

theorem Keeps.answerSnoop (h : Keeps s t) {n} : Keeps s (t.answerSnoop n) := by
  unfold State.answerSnoop
  dsimp only
  exact h.setCoh.andThen fun h1 => by
    split
    · exact h1.answered
    · split
      · exact h1.pullOne.answered
      · exact h1.bump.ccSetSt.andThen fun h2 => (Keeps.ite h2.mergeM h2).answered
      · exact h1.bump.answered

theorem Keeps.deliverSnoop (h : Keeps s t) {c line k} : Keeps s (t.deliverSnoop c line k) := by
  unfold State.deliverSnoop
  dsimp only
  split
  · exact h
  · exact .ite h.bump.setCoh h.answerSnoop

theorem Keeps.lostCopy (h : Keeps s t) {c line} : Keeps s (t.lostCopy c line).1 := by
  unfold State.lostCopy
  dsimp only
  split
  · exact h
  · exact h.ccRemove.andThen fun h1 => by
      split
      · exact .since (fun h2 => h2.bump) (by
          split
          · exact h1.sPut
          · exact h1.spoilHalf.spoilHalf)
      · exact h1

theorem Keeps.dropPres (h : Keeps s t) {r line} : Keeps s (t.dropPres r line) := by
  unfold State.dropPres
  dsimp only
  split
  · exact h
  · refine h.foldl fun h1 => ?_
    split
    · exact h1.dcPut
    · exact h1

theorem Keeps.reclaim (h : Keeps s t) {c ctx} : Keeps s (t.reclaim c ctx) := by
  unfold State.reclaim
  extract_lets r s1 step w s2 names late s3
  have hw : Keeps s w.1 := h.setFld.foldlFst fun h1 => by
    unfold step
    split
    · exact h1.bump.lostCopy
    · exact h1.bump.ccRemove.dropPres
  exact (hw.setCoh.foldl fun h2 => h2.answered).wake

theorem RunsKeeping.execRds (h : Keeps s t) {core epoch line hint err} :
    RunsKeeping s (execRds core epoch line hint err t) := by
  unfold Machine.execRds
  dsimp only
  refine .when h fun h1 => ?_
  refine h1.fresh fun h2 => ?_
  split
  · exact .ite h2 h2.sliceErr.blockRequest
  · split
    · exact h2
    · split
      · exact .since (fun h3 => h3.setCoh) (by
          refine h2.foldl fun h4 => ?_
          split
          · exact h4.dcHit
          · exact h4)
      · exact (h2.foldl fun h5 => h5.bump.dcFill).andThen fun h6 => .ite h6.dcPrefetch h6

theorem RunsKeeping.execRdo (h : Keeps s t) {core epoch line hint off bytes err} :
    RunsKeeping s (execRdo core epoch line hint off bytes err t) :=
  .when h fun h1 => h1.fresh (fun h2 => .ite h2 h2.sliceErr.blockRequest)

theorem RunsKeeping.execOwnnd (h : Keeps s t) {core epoch line hint bytes} :
    RunsKeeping s (execOwnnd core epoch line hint bytes t) :=
  .when h fun h1 => h1.fresh (fun h2 => .ite h2 h2.blockRequest)

theorem RunsKeeping.execUpg (h : Keeps s t) {core epoch line off bytes} :
    RunsKeeping s (execUpg core epoch line off bytes t) :=
  .when h fun h1 => h1.fresh (fun h2 => .ite h2 h2.blockRequest)

theorem RunsKeeping.execDirtyn (h : Keeps s t) {core epoch line off bytes} :
    RunsKeeping s (execDirtyn core epoch line off bytes t) := by
  unfold Machine.execDirtyn
  dsimp only
  refine .when h fun h1 => ?_
  refine h1.fresh fun h2 => ?_
  split
  · exact .ite h2.ccInstall h2
  · exact h2

theorem RunsKeeping.execEvc (h : Keeps s t) {core epoch line} : RunsKeeping s (execEvc core epoch line t) :=
  .when h fun h1 => h1.fresh (fun h2 => .ite (h2.ccRemove.andThen fun h3 => .ite h3.dropPres h3) h2)

theorem RunsKeeping.execWbm (h : Keeps s t) {core epoch line} : RunsKeeping s (execWbm core epoch line t) := by
  unfold Machine.execWbm
  refine .when h fun h1 => ?_
  refine h1.fresh fun h2 => ?_
  split
  · exact .ite h2.ccRemove.mergeM h2
  · exact h2

theorem Keeps.memHole (h : Keeps s t) {a ctx dpa denied} : Keeps s (t.memHole a ctx dpa denied) :=
  h.raise.poisonCtx

theorem Keeps.offMap (h : Keeps s t) {a ctx line} : Keeps s (t.offMap a ctx line) :=
  .ite (.ite h h.memHole) h.memHole

theorem RunsKeeping.execNcrd (h : Keeps s t) {agent ctx line hint cls err} :
    RunsKeeping s (execNcrd agent ctx line hint cls err t) :=
  .when h fun h1 => .ite (h1.sliceErr.andThen fun h2 => .ite h2.send.poisonCtx h2.blockRequest) h1.offMap.send

theorem RunsKeeping.execNcwr (h : Keeps s t) {agent ctx line hint cls off bytes} :
    RunsKeeping s (execNcwr agent ctx line hint cls off bytes t) :=
  .when h fun h1 => .ite h1.blockRequest h1.offMap

theorem RunsKeeping.execNcat (h : Keeps s t) {agent ctx line hint cls op wide off cmp value near} :
    RunsKeeping s (execNcat agent ctx line hint cls op wide off cmp value near t) :=
  .when h fun h1 => .ite h1.blockRequest h1.memHole

theorem RunsKeeping.execSnpinv (h : Keeps s t) {core line} : RunsKeeping s (execSnpinv core line t) :=
  .done h.deliverSnoop

theorem RunsKeeping.execSnpshr (h : Keeps s t) {core line} : RunsKeeping s (execSnpshr core line t) :=
  .done h.deliverSnoop

theorem RunsKeeping.execSnpcur (h : Keeps s t) {core line} : RunsKeeping s (execSnpcur core line t) :=
  .done h.deliverSnoop

theorem RunsKeeping.execGrant (h : Keeps s t) {core line} : RunsKeeping s (execGrant core line t) := by
  unfold Machine.execGrant
  dsimp only
  split
  · exact .done h
  · exact h.setCoh.andThen fun h1 => .done (Keeps.ite h1.poisonCtx (.ite h1 h1.ccInstall)).setCoh

theorem RunsKeeping.execCoherenceAck (h : Keeps s t) {core epoch line} :
    RunsKeeping s (execCoherenceAck core epoch line t) :=
  .when h fun h1 => h1.fresh (fun h2 => h2.setCoh.wake)

theorem RunsKeeping.execHoldExpiry (h : Keeps s t) {core line} : RunsKeeping s (execHoldExpiry core line t) :=
  .when h fun h1 => h1.setCoh.foldl fun h2 => h2.answerSnoop

theorem RunsKeeping.execSnoopTimeout (h : Keeps s t) {core line} : RunsKeeping s (execSnoopTimeout core line t) := by
  unfold Machine.execSnoopTimeout
  dsimp only
  split
  · exact .done h
  · exact .done h.setCoh.bump.raise.lostCopy.answered.fenceTrigger

theorem RunsKeeping.execReclaimWalkEnd (h : Keeps s t) {region} : RunsKeeping s (execReclaimWalkEnd region t) := by
  unfold Machine.execReclaimWalkEnd
  dsimp only
  split
  · exact .done h
  · exact h.setCoh.andThen fun h1 => .done (.ite h1 h1.raise)

/-! ### Translation -/

theorem Keeps.setXl (h : Keeps s t) {x} : Keeps s (t.setXl x) :=
  h.frame

theorem Keeps.readPte (h : Keeps s t) {cls a} : Keeps s (t.readPte cls a).2 :=
  h.biasAsk.ncRead

theorem Keeps.walkFrom (h : Keeps s t) {g r cls x sg off acc n a} :
    Keeps s (State.walkFrom g r cls x sg off acc n a t).2 := by
  induction n generalizing t a with
  | zero => exact h
  | succ n ih =>
    unfold State.walkFrom
    extract_lets lvl b d s1
    have h1 : Keeps s s1 := h.readPte
    exact .iteSnd h1.drawn (.iteSnd h1 (.iteSnd h1 (.iteSnd h1 (.iteSnd (.iteSnd h1 (ih h1.drawn.setXl))
      (.iteSnd h1 (.iteSnd h1 (.iteSnd h1 h1.bumpIf)))))))

theorem Keeps.walk (h : Keeps s t) {g r cls x sg off acc} : Keeps s (t.walk g r cls x sg off acc).2 := by
  unfold State.walk
  dsimp only
  exact .since (fun h1 => h1.drawn.bump.bumpBy) (by
    split <;> exact h.walkFrom)

theorem Keeps.rtlbFill (h : Keeps s t) {r ent} : Keeps s (t.rtlbFill r ent) :=
  h.bumpIf.setXl

theorem Keeps.utlbFill (h : Keeps s t) {u ent} : Keeps s (t.utlbFill u ent) :=
  h.setXl

theorem Keeps.rtlbGet (h : Keeps s t) {g r cls x sg off acc} : Keeps s (t.rtlbGet g r cls x sg off acc).2 := by
  unfold State.rtlbGet
  dsimp only
  split
  · exact h.bump.setXl
  · exact h.bump.walk.andThen fun h1 => by
      split
      · exact h1.rtlbFill
      · exact h1

theorem Keeps.xlate (h : Keeps s t) {a x dva acc pos} : Keeps s (t.xlate a x dva acc pos).2 := by
  unfold State.xlate
  dsimp only
  split
  · exact h
  · split
    · exact h
    · split
      · exact h
      · split
        · exact h
        · split
          · exact h
          · exact .since (fun h1 => by
                split
                · exact h1
                · exact .iteSnd h1.utlbFill h1) (by
              split
              · exact h
              · exact h.bump.rtlbGet)

theorem Keeps.xprefetch (h : Keeps s t) {r x dva} : Keeps s (t.xprefetch r x dva) := by
  unfold State.xprefetch
  dsimp only
  exact h.bumpIf.andThen fun h1 => by
    split
    · exact h1.bump
    · split
      · exact h1
      · exact h1.walk.andThen fun h2 => by
          split
          · exact h2.rtlbFill
          · exact h2.bump

theorem Keeps.prefetchPages (h : Keeps s t) {r x n left seen ranges} :
    Keeps s (State.prefetchPages r x n left seen ranges t) := by
  induction n generalizing t left seen ranges with
  | zero => exact h
  | succ n ih =>
    cases ranges with
    | nil => exact h
    | cons r l =>
      unfold State.prefetchPages
      refine .ite h (.ite (ih h) ?_)
      split
      · exact ih h
      · exact ih h.xprefetch

theorem Keeps.prefetchRanges (h : Keeps s t) {r x ranges} : Keeps s (t.prefetchRanges r x ranges) :=
  .ite h.prefetchPages h

theorem Keeps.xfault (h : Keeps s t) {f} : Keeps s (t.xfault f) :=
  h.setXl

theorem RunsKeeping.execPageWalk (h : Keeps s t) {agent ctx dva acc pos prefetch} :
    RunsKeeping s (execPageWalk agent ctx dva acc pos prefetch t) := by
  unfold Machine.execPageWalk
  dsimp only
  refine .when h fun h1 => ?_
  split
  · exact h1.xprefetch
  · exact h1.xlate.andThen fun h2 => by
      split
      · exact h2
      · exact h2.xfault

theorem Keeps.recordFault (h : Keeps s t) {f} : Keeps s (t.recordFault f) :=
  h.setCfg.setCfg.setCfg.setCfg.setCfg.setCfg.setCfg.setBit

theorem Keeps.takeFaults (h : Keeps s t) {x fs} : Keeps s (t.takeFaults x fs) := by
  unfold State.takeFaults
  dsimp only
  exact h.bumpBy.andThen fun h1 => by
    exact .since (fun h2 => h2.setFld.andThen fun h3 => .ite h3.suspend h3) (by
      split
      · exact h1.recordFault
      · exact h1)

theorem Keeps.clearFault (h : Keeps s t) {x} : Keeps s (t.clearFault x) :=
  h.setBit.setFld.setBit

theorem RunsKeeping.execTranslationFault (h : Keeps s t) {n} : RunsKeeping s (execTranslationFault n t) := by
  unfold Machine.execTranslationFault
  extract_lets fs
  refine .when h fun h1 => ?_
  exact h1.setXl.foldl fun h2 => .ite h2 h2.takeFaults

theorem Keeps.invalidate (h : Keeps s t) {cmd x lo hi} : Keeps s (t.invalidate cmd x lo hi) :=
  h.setXl

theorem Keeps.mark (h : Keeps s t) {v} : Keeps s (t.mark v) :=
  h.setXl

theorem RunsKeeping.execInvalidationMark (h : Keeps s t) : RunsKeeping s (execInvalidationMark t) := by
  unfold Machine.execInvalidationMark
  split
  · exact .when h fun h1 => h1.mark
  · exact .done h

theorem RunsKeeping.execInvalidationDrain (h : Keeps s t) {n} : RunsKeeping s (execInvalidationDrain n t) := by
  unfold Machine.execInvalidationDrain
  dsimp only
  split
  · refine .when h fun h1 => ?_
    exact h1.setXl.bump.andThen fun h2 => by
      split
      · exact h2.complete
      · exact h2
  · exact .done h

/-! ### Stream engines -/

theorem Keeps.hostHalf (h : Keeps s t) {fills ls line hint cls pres} : Keeps s (t.hostHalf fills ls line hint cls pres).2 :=
  .iteSnd h.dcGet h

theorem Keeps.readLine (h : Keeps s t) {w fills p hint len} : Keeps s (t.readLine w fills p hint len).2 := by
  unfold State.readLine
  dsimp only
  split
  · split
    · split
      · exact h.ccRead
      · exact h.biasAsk.ncRead
    · split
      · split
        · exact .iteSnd h h
        · exact h.memHole
      · exact h.memHole
  · split
    · exact h
    · exact h.hostHalf.hostHalf.andThen fun h1 => (Keeps.ite h1.dcPrefetch h1).andThen fun h2 => by
        split
        · split
          · exact .ite h2.ccInstall h2
          · exact h2
        · exact h2

theorem Keeps.writeLine (h : Keeps s t) {w p hint bs bad} : Keeps s (t.writeLine w p hint bs bad) := by
  unfold State.writeLine
  dsimp only
  split
  · split
    · split
      · exact h.ccWrite
      · exact h.biasAsk.ncWrite
    · split
      · split
        · exact .ite h h.modCore
        · exact h.memHole
      · exact h.memHole
  · exact .since (fun h1 => h1.dcWrite.andThen fun h2 => .ite h2 h2.dcWrite) (by
      split
      · exact h.ccRemove
      · exact h)

theorem Keeps.xlateAll (h : Keeps s t) {w x acc pos l} : Keeps s (t.xlateAll w x acc pos l).2 := by
  induction l generalizing t with
  | nil => exact h
  | cons r l ih =>
    unfold State.xlateAll
    extract_lets o q
    have hq : Keeps s q.2 := ih h.xlate
    split
    · exact h.xlate
    · split <;> exact hq

theorem Keeps.readRun (h : Keeps s t) {w fills hint l} : Keeps s (t.readRun w fills hint l).2 := by
  induction l generalizing t with
  | nil => exact h
  | cons r l ih => exact ih h.readLine

theorem Keeps.writeRun (h : Keeps s t) {w hint bs bad l} : Keeps s (t.writeRun w hint bs bad l) := by
  induction l generalizing t bs bad with
  | nil => exact h
  | cons r l ih => exact ih h.writeLine

theorem Keeps.memRow (h : Keeps s t) {w x fills hint pos tile i} : Keeps s (t.memRow w x fills hint pos tile i).2 := by
  unfold State.memRow
  dsimp only
  exact h.xlateAll.andThen fun h1 => by
    split
    · exact h1
    · exact h1.xlateAll.andThen fun h2 => by
        split
        · exact h2
        · exact .iteSnd h h2.readRun.readRun

theorem Keeps.putCoreRow (h : Keeps s t) {c tile i r} : Keeps s (t.putCoreRow c tile i r) := by
  unfold State.putCoreRow
  exact h.modCore

theorem Keeps.putMemRow (h : Keeps s t) {w x hint pos tile i r} : Keeps s (t.putMemRow w x hint pos tile i r).2 := by
  unfold State.putMemRow
  dsimp only
  exact h.xlateAll.andThen fun h1 => by
    split
    · exact h1
    · exact h1.xlateAll.andThen fun h2 => by
        split
        · exact h2
        · exact .iteSnd h2.writeRun.writeRun h

theorem Keeps.squareXlate (h : Keeps s t) {w x hint pos src g n} : Keeps s (t.squareXlate w x hint pos src g n).2 := by
  induction n generalizing t with
  | zero => exact h
  | succ n ih =>
    unfold State.squareXlate
    extract_lets r o q
    have hq : Keeps s q.2 := ih h.xlateAll
    split
    · exact h.xlateAll
    · split <;> exact hq

theorem Keeps.squareRead (h : Keeps s t) {w fills hint l} : Keeps s (t.squareRead w fills hint l).2 := by
  induction l generalizing t with
  | nil => exact h
  | cons r l ih => exact ih h.readRun

theorem Keeps.squareRows (h : Keeps s t) {w x fills hint pos c mem src g} :
    Keeps s (t.squareRows w x fills hint pos c mem src g).2 := by
  unfold State.squareRows
  dsimp only
  split
  · exact h.squareXlate.andThen fun h1 => by
      split
      · exact h1
      · exact .iteSnd h1.squareRead h
  · exact h

theorem Keeps.sourceRow (h : Keeps s t) {e p i v} : Keeps s (t.sourceRow e p i v).2 := by
  unfold State.sourceRow
  dsimp only
  split
  · split
    · split
      · exact h
      · split <;> exact h.squareRows
    · split <;> exact h.squareRows
  · split
    · split <;> exact h.memRow
    · exact h

theorem Keeps.destRow (h : Keeps s t) {e p i v r} : Keeps s (t.destRow e p i v r).2 :=
  .iteSnd h.putMemRow h.putCoreRow

theorem Keeps.streamRows (h : Keeps s t) {e total n p} : Keeps s (State.streamRows e total n t p).2.2 := by
  induction n generalizing t p with
  | zero =>
    unfold State.streamRows
    split <;> exact h
  | succ n ih =>
    unfold State.streamRows
    split
    · exact h
    · dsimp only
      split
      · exact h
      · split
        · exact ih h
        · exact ih h.putCoreRow
      · split
        · exact h
        · exact h.sourceRow
        · split
          · exact h
          · exact h.sourceRow.destRow
          · exact ih h.sourceRow.destRow.record

theorem Keeps.streamRun (h : Keeps s t) {c fills n} : Keeps s (t.streamRun c fills n).2 := by
  unfold State.streamRun
  split
  · split
    · split
      · exact h
      · extract_lets o p stop t' s1
        have h1 : Keeps s s1 := h.streamRows.modCore
        dsimp only
        split
        · exact h1.xfault
        · exact h1
    · exact h
  · exact h

theorem Keeps.prefetchTile (h : Keeps s t) {c x tile} : Keeps s (t.prefetchTile c x tile) :=
  h.prefetchRanges

theorem Keeps.prefetchStream (h : Keeps s t) {c x trick after} : Keeps s (t.prefetchStream c x trick after) := by
  unfold State.prefetchStream
  dsimp only
  exact .since (fun h1 => by
      split
      · exact .ite h1 h1.prefetchTile
      · exact h1) (by
    split
    · exact h.prefetchTile
    · exact h)

theorem RunsKeeping.execEngineTrickStart (h : Keeps s t) {core engine errs} :
    RunsKeeping s (execEngineTrickStart core engine errs t) := by
  unfold Machine.execEngineTrickStart
  dsimp only
  split
  · exact .when h fun h1 => h1.storeErrs.andThen fun h2 => .ite h2 (.ite h2.prefetchStream.setCore h2.setCore.frame)
  · exact .done h

theorem Keeps.streamSpoilt (h : Keeps s t) {c fills op} : Keeps s (t.streamSpoilt c fills op) := by
  unfold State.streamSpoilt
  split
  · exact h.streamRun.modCore
  · exact h.modCore.streamRun.modCore
  · exact h

theorem RunsKeeping.execTrickComplete (h : Keeps s t) {core engine fault cc fills} :
    RunsKeeping s (execTrickComplete core engine fault cc fills t) := by
  unfold Machine.execTrickComplete
  extract_lets k
  split
  · exact .done h
  · split
    · exact .done h
    · refine .when h fun h1 => ?_
      extract_lets s1 o after
      have h2 : Keeps s s1 := h1.ccErrs
      have ho : Keeps s o.2 := h2.streamRun
      have ha : Keeps s after := .ite ho h2.streamSpoilt
      refine .ite h1.landCompute (.ite ?_ ho)
      split
      · extract_lets bad s3 s4
        have h3 : Keeps s s3 := ha.retire
        have h4 : Keeps s s4 := by
          unfold s4
          split
          · exact h3.raise
          · exact h3.raise
          · exact h3.raiseEcc
        refine .ite ?_ h3
        split
        · exact h4.suspend
        · exact h4
      · exact ho

theorem RunsKeeping.execIndexLaneFault (h : Keeps s t) {core cc fills} :
    RunsKeeping s (execIndexLaneFault core cc fills t) := by
  unfold Machine.execIndexLaneFault
  dsimp only
  split
  · exact .done h
  · refine .when h fun h1 => ?_
    exact h1.ccErrs.streamRun.andThen fun h2 => by
      split
      · exact h2.modCore.seqFault
      · exact h2

theorem RunsKeeping.execPreemptionBoundary (h : Keeps s t) {core rows cc fills} :
    RunsKeeping s (execPreemptionBoundary core rows cc fills t) :=
  .when h fun h1 => h1.park.ccErrs.streamRun.andThen fun h2 => (Keeps.ite h2 h2.modCore).settle

theorem RunsKeeping.execCoreInitDone (h : Keeps s t) {core} : RunsKeeping s (execCoreInitDone core t) :=
  .when h fun h1 => h1.modCore

/-! ### Copy engines -/

theorem Keeps.ceXlate (h : Keeps s t) {w e x acc pos a n} : Keeps s (t.ceXlate w e x acc pos a n).2 := by
  unfold State.ceXlate
  dsimp only
  exact h.xlateAll.andThen fun h1 => by
    split
    · exact h
    · exact h1
    · exact .iteSnd h1 h1

theorem Keeps.ceRead (h : Keeps s t) {s0 w e x fills hint pos a n} : Keeps s (t.ceRead s0 w e x fills hint pos a n).2 := by
  unfold State.ceRead
  dsimp only
  exact h.ceXlate.andThen fun h1 => by
    split
    · exact h
    · exact h1
    · exact h1
    · exact .iteSnd (h1.readRun.andThen fun h2 => .iteSnd h2 h2) h

theorem Keeps.ceTargets (h : Keeps s t) {w e x pos l} : Keeps s (t.ceTargets w e x pos l).2 := by
  induction l generalizing t with
  | nil => exact h
  | cons a l ih =>
    unfold State.ceTargets
    extract_lets o r
    have ho : Keeps s o.2 := h.ceXlate
    have hr : Keeps s r.2 := ih ho
    split
    · exact h
    · exact ho
    · exact ho
    · split
      · exact h
      · exact hr
      · exact hr
      · exact hr

theorem Keeps.ceWrite (h : Keeps s t) {s0 w e x hint pos runs} : Keeps s (t.ceWrite s0 w e x hint pos runs).2 := by
  unfold State.ceWrite
  dsimp only
  exact h.ceTargets.andThen fun h1 => by
    split
    · exact h
    · exact h1
    · exact h1
    · exact .iteSnd (h1.foldl fun h2 => h2.writeRun) h

theorem Keeps.rdC (h : Keeps s t) {v a n} : Keeps s (t.rdC v a n).2 :=
  h.ceRead

theorem Keeps.wrC (h : Keeps s t) {v runs} : Keeps s (t.wrC v runs).2 :=
  h.ceWrite

theorem Keeps.lineChunk (h : Keeps s t) {v a left} : Keeps s (t.lineChunk v a left).2 := by
  unfold State.lineChunk
  refine h.ceXlate.bind fun h1 => ?_
  split <;> exact h1

theorem Keeps.copyChunk (h : Keeps s t) {v} : Keeps s (t.copyChunk v).2 :=
  h.lineChunk.bind fun h1 => h1.rdC.bind fun h2 => h2.wrC.bind fun h3 => h3

theorem Keeps.zeroChunk (h : Keeps s t) {v} : Keeps s (t.zeroChunk v).2 := by
  unfold State.zeroChunk
  dsimp only
  refine h.lineChunk.bind fun h1 => ?_
  split
  · exact .iteSnd (.iteSnd h1.dcZero h1) (h1.wrC.bind fun h2 => h2)
  · exact h1.wrC.bind fun h3 => h3

theorem Keeps.inlineChunk (h : Keeps s t) {v} : Keeps s (t.inlineChunk v).2 :=
  h.wrC.bind fun h1 => h1

theorem Keeps.atomicChunk (h : Keeps s t) {v} : Keeps s (t.atomicChunk v).2 := by
  unfold State.atomicChunk
  dsimp only
  refine (Keeps.iteSnd h.rdC h).bind fun h1 => ?_
  refine h1.ceXlate.bind fun h2 => ?_
  split
  · exact .iteSnd h2.memHole
      (.iteSnd h2 ((Keeps.iteSnd h2.ceTargets h2).bind fun h3 =>
      .iteSnd h3 (h3.biasAsk.ncAtomic.andThen fun h4 => .iteSnd h4 (h4.foldl fun h5 => h5.writeRun))))
  · exact h2

theorem Keeps.convertChunk (h : Keeps s t) {v} : Keeps s (t.convertChunk v).2 := by
  unfold State.convertChunk
  dsimp only
  split
  · exact h.rdC.bind fun h1 => (Keeps.iteSnd h1.rdC h1).bind fun h2 => h2.wrC.bind fun h3 => h3
  · exact h

theorem Keeps.encChunk (h : Keeps s t) {v kind} : Keeps s (t.encChunk v kind).2 :=
  h.rdC.bind fun h1 => h1.wrC.bind fun h2 => h2

theorem Keeps.headerC (h : Keeps s t) {v kind} : Keeps s (t.headerC v kind).2 :=
  h.rdC.bind fun h1 => .iteSnd h1 h1

theorem Keeps.decodeC (h : Keeps s t) {v kind fmt b p stop n buf} :
    Keeps s (State.decodeC v kind fmt b p stop n buf t).2 := by
  induction n generalizing t buf with
  | zero => exact h
  | succ n ih =>
    unfold State.decodeC
    extract_lets left
    split
    · exact h
    · exact h
    · exact h.rdC.bind fun h1 => ih h1

theorem Keeps.decChunk (h : Keeps s t) {v kind} : Keeps s (t.decChunk v kind).2 :=
  (Keeps.iteSnd h.headerC h).bind fun h1 => h1.decodeC.bind fun h2 => h2.wrC.bind fun h3 => h3

theorem Keeps.qEncChunk (h : Keeps s t) {v} : Keeps s (t.qEncChunk v).2 := by
  unfold State.qEncChunk
  simp only []
  -- The match is on two projections; as variables `split` can put the formats of each case in their place.
  generalize v.d.sfmt = f, v.d.dfmt = g
  split
  · exact h.rdC.bind fun h1 => h1.rdC.bind fun h2 => h2.wrC.bind fun h3 => h3
  · exact h

theorem Keeps.qDecChunk (h : Keeps s t) {v} : Keeps s (t.qDecChunk v).2 := by
  unfold State.qDecChunk
  dsimp only
  split
  · exact h
  · exact (Keeps.iteSnd h.headerC h).bind fun h1 => h1.rdC.bind fun h2 => h2.wrC.bind fun h3 => h3

theorem Keeps.ceChunk (h : Keeps s t) {v} : Keeps s (t.ceChunk v).2 := by
  unfold State.ceChunk
  split
  · exact h.copyChunk
  · exact h.zeroChunk
  · exact h.inlineChunk
  · exact h.atomicChunk
  · exact h.convertChunk
  · exact h.encChunk
  · exact h.decChunk
  · exact h.encChunk
  · exact h.decChunk
  · exact h.qEncChunk
  · exact h.qDecChunk

theorem Keeps.descIssued (h : Keeps s t) {k l d} : Keeps s (t.descIssued k l d) :=
  h.setList

theorem Keeps.cePrefetch (h : Keeps s t) {k l d} : Keeps s (t.cePrefetch k l d) :=
  .ite h h.prefetchRanges

theorem Keeps.descOpen (h : Keeps s t) {k l d status} : Keeps s (t.descOpen k l d status) := by
  unfold State.descOpen
  dsimp only
  split
  · exact h.listAbort
  · split
    · exact h.setList.cePrefetch
    · exact .ite h h.setList.pegDo.cePrefetch

theorem Keeps.ceRun (h : Keeps s t) {fills k n} : Keeps s (State.ceRun fills k n t) := by
  induction n generalizing t with
  | zero => exact h
  | succ n ih =>
    unfold State.ceRun
    split
    · exact h
    · extract_lets e d l' pos first o wts
      have ho : Keeps s o.2 := h.ceChunk
      refine .ite h (.ite h (.ite h ?_))
      split
      · exact h
      · exact ho.setList.xfault
      · exact ho.listAbort
      · extract_lets p l'' s1 s2 s3
        have h1 : Keeps s s2 := (Keeps.ite ho.ceBytes ho).ceBytes.ceBytes
        have h2 : Keeps s s3 := .ite h1.descIssued h1.setList
        exact .ite h2 (ih h2)

theorem Keeps.ceDesc (h : Keeps s t) {engine list ty chunks fills} : Keeps s (t.ceDesc engine list ty chunks fills) := by
  unfold State.ceDesc
  dsimp only
  split
  · exact h
  · exact .ite h (.ite h.descOpen (.ite h.descIssued h.ceRun))

theorem RunsKeeping.execCopy (h : Keeps s t) {engine list chunks fills} :
    RunsKeeping s (execCopy engine list chunks fills t) :=
  .done h.ceDesc

theorem RunsKeeping.execZero (h : Keeps s t) {engine list chunks} : RunsKeeping s (execZero engine list chunks t) :=
  .done h.ceDesc

theorem RunsKeeping.execInline (h : Keeps s t) {engine list} : RunsKeeping s (execInline engine list t) :=
  .done h.ceDesc

theorem RunsKeeping.execAtomic (h : Keeps s t) {engine list fills} : RunsKeeping s (execAtomic engine list fills t) :=
  .done h.ceDesc

theorem RunsKeeping.execConvert (h : Keeps s t) {engine list chunks fills} :
    RunsKeeping s (execConvert engine list chunks fills t) :=
  .done h.ceDesc

theorem RunsKeeping.execSiltLEnc (h : Keeps s t) {engine list chunks fills} :
    RunsKeeping s (execSiltLEnc engine list chunks fills t) :=
  .done h.ceDesc

theorem RunsKeeping.execSiltLDec (h : Keeps s t) {engine list chunks fills} :
    RunsKeeping s (execSiltLDec engine list chunks fills t) :=
  .done h.ceDesc

theorem RunsKeeping.execSiltZEnc (h : Keeps s t) {engine list chunks fills} :
    RunsKeeping s (execSiltZEnc engine list chunks fills t) :=
  .done h.ceDesc

theorem RunsKeeping.execSiltZDec (h : Keeps s t) {engine list chunks fills} :
    RunsKeeping s (execSiltZDec engine list chunks fills t) :=
  .done h.ceDesc

theorem RunsKeeping.execSiltQEnc (h : Keeps s t) {engine list chunks fills} :
    RunsKeeping s (execSiltQEnc engine list chunks fills t) :=
  .done h.ceDesc

theorem RunsKeeping.execSiltQDec (h : Keeps s t) {engine list chunks fills} :
    RunsKeeping s (execSiltQDec engine list chunks fills t) :=
  .done h.ceDesc

theorem RunsKeeping.execEnq (h : Keeps s t) {core} : RunsKeeping s (execEnq core t) := by
  unfold Machine.execEnq
  refine .done (h.issue fun h1 => ?_)
  split
  · exact .ite h1 h1.setCore
  · exact h1

theorem RunsKeeping.execListAccept (h : Keeps s t) {core errs} : RunsKeeping s (execListAccept core errs t) := by
  unfold Machine.execListAccept
  dsimp only
  split
  · exact .done h
  · refine .when h fun h1 => ?_
    split
    · exact h1
    · exact h1.storeErrs.andThen fun h2 => .ite h2 h2.acceptList.modCore.issued.nextRow

theorem RunsKeeping.execListStart (h : Keeps s t) {engine} : RunsKeeping s (execListStart engine t) := by
  unfold Machine.execListStart
  dsimp only
  split
  · exact .when h fun h1 => h1.setList
  · exact .done h

theorem RunsKeeping.execDescriptorComplete (h : Keeps s t) {engine list desc} :
    RunsKeeping s (execDescriptorComplete engine list desc t) := by
  unfold Machine.execDescriptorComplete
  dsimp only
  split
  · exact .done h
  · split
    · exact .done h
    · refine .when h fun h1 => ?_
      exact h1.setList.andThen fun h2 => by
        exact .since (fun h3 => h3.bumpIf.listSettle) (by
          split
          · exact .ite h2 h2.pegDo
          · exact h2)

/-! ### Fabric ingress and transmission -/

theorem Keeps.setRx (h : Keeps s t) {r q} : Keeps s (t.setRx r q) :=
  h.setFab

theorem Keeps.rxFilter (h : Keeps s t) {r lode p u} (hu : t.rxFilter r lode p = some u) : Keeps s u := by
  unfold State.rxFilter at hu
  extract_lets c s1 s2 at hu
  split_ifs at hu <;> obtain rfl := Option.some.inj hu
  · exact h.bump
  · exact h.bump
  · exact h.bump.connDrop
  · exact h.bump
  · exact h.bump.setCfg.raise.connDrop

theorem Keeps.rxOrder (h : Keeps s t) {r p u} (hu : t.rxOrder r p = some u) : Keeps s u := by
  unfold State.rxOrder at hu
  extract_lets c k d s1 at hu
  split_ifs at hu <;> cases hu
  · exact h.bumpIf.queueAck.connDrop
  · exact h.bump.connDrop

theorem Keeps.rxTake (h : Keeps s t) {r p status flags} : Keeps s (t.rxTake r p status flags) :=
  h.setConn.trcFab.andThen fun h1 => (Keeps.ite h1.bump h1.bump.bumpIf).queueAck.andThen fun h2 => .ite h2 h2.connDrop

theorem Keeps.handleLook (h : Keeps s t) {r i} : Keeps s (t.handleLook r i) :=
  .ite h ((Keeps.ite h.drawn h).bump.setFab)

theorem Keeps.rxTargets (h : Keeps s t) {w x acc a n ok} : Keeps s (t.rxTargets w x acc a n ok).2 := by
  unfold State.rxTargets
  dsimp only
  exact h.xlateAll.andThen fun h1 => by
    split
    · exact h1.xfault
    · exact h1
    · exact h1

theorem Keeps.pegIn (h : Keeps s t) {r part j} : Keeps s (t.pegIn r part j) := by
  unfold State.pegIn
  split
  · exact h.pegDo
  · exact h.bump.raise

theorem Keeps.rsigOf (h : Keeps s t) {r p} : Keeps s (t.rsigOf r p) :=
  .ite h.pegIn h

theorem Keeps.rxWrite (h : Keeps s t) {r p} : Keeps s (t.rxWrite r p).2 := by
  unfold State.rxWrite
  dsimp only
  exact h.handleLook.andThen fun h1 => by
    split
    · exact h1
    · exact h1.rxTargets.andThen fun h2 => by
        split
        · exact h2
        · exact .iteSnd h1 h2.writeRun.rsigOf

theorem Keeps.rxRead (h : Keeps s t) {r p} : Keeps s (t.rxRead r p).2 := by
  unfold State.rxRead
  dsimp only
  exact h.handleLook.andThen fun h1 => by
    split
    · exact h1
    · exact h1.rxTargets.andThen fun h2 => by
        split
        · exact h2
        · exact .iteSnd h1 (h2.readRun.andThen fun h3 => .iteSnd h3 (h3.foldl fun h4 => h4.queuePkt))

theorem Keeps.rxRsp (h : Keeps s t) {r p} : Keeps s (t.rxRsp r p).2 := by
  unfold State.rxRsp
  dsimp only
  split
  · exact h
  · exact .iteSnd h (.iteSnd h (.iteSnd h h.writeRun.setFab.listSettle))

theorem Keeps.addLines (h : Keeps s t) {cls ps bs f} : Keeps s (t.addLines cls ps bs f).2 := by
  induction ps generalizing t bs f with
  | nil => exact h
  | cons p ps ih =>
    unfold State.addLines
    split
    next heq =>
      cases heq
      exact ih h.biasAsk.ncAtomic
    · exact h

theorem Keeps.rxReduce (h : Keeps s t) {r p n shape elems} : Keeps s (t.rxReduce r p n shape elems).2 := by
  unfold State.rxReduce
  dsimp only
  exact h.handleLook.andThen fun h1 => by
    split
    · exact h1
    · split
      · exact h1
      · exact h1.rxTargets.andThen fun h2 => by
          split
          · exact h2
          · exact .iteSnd h1 (.iteSnd h2 h2.addLines.rsigOf)

theorem Keeps.rxRed (h : Keeps s t) {r p} : Keeps s (t.rxRed r p).2 :=
  h.rxReduce

theorem Keeps.rxRedQ (h : Keeps s t) {r p} : Keeps s (t.rxRedQ r p).2 :=
  h.rxReduce

theorem Keeps.rxSig (h : Keeps s t) {r p} : Keeps s (t.rxSig r p).2 := by
  unfold State.rxSig
  dsimp only
  split
  · exact h.pegDo
  · exact h.pegIn

theorem Keeps.rxPacket (h : Keeps s t) {r ty apply} (happly : ∀ {u p}, Keeps s u → Keeps s (apply u p).2) :
    Keeps s (t.rxPacket r ty apply) := by
  unfold State.rxPacket
  split
  · exact h
  next lode p q _ =>
    refine .ite h ?_
    have hu : Keeps s (t.setRx r q) := h.setRx
    generalize t.setRx r q = u at hu
    simp only []
    -- The answers of the three tests become variables, each with what is known of the state it gives.
    have hf {d} : u.rxFilter r lode p = some d → Keeps s d := hu.rxFilter
    have ho {d} : u.rxOrder r p = some d → Keeps s d := hu.rxOrder
    generalize u.rxFilter r lode p = f at hf
    generalize u.rxOrder r p = o at ho
    cases f with
    | some d => exact hf rfl
    | none =>
      cases o with
      | some d => exact ho rfl
      | none =>
        refine .ite hu.rxTake ?_
        have ha : Keeps s (apply u p).2 := happly hu
        generalize apply u p = a at ha
        split
        · exact h
        · exact ha.rxTake
        · exact ha.rxTake

theorem RunsKeeping.execWrite (h : Keeps s t) {region} : RunsKeeping s (execWrite region t) :=
  .done (h.rxPacket (fun h1 => h1.rxWrite))

theorem RunsKeeping.execReadReq (h : Keeps s t) {region} : RunsKeeping s (execReadReq region t) :=
  .done (h.rxPacket (fun h1 => h1.rxRead))

theorem RunsKeeping.execReadRsp (h : Keeps s t) {region} : RunsKeeping s (execReadRsp region t) :=
  .done (h.rxPacket (fun h1 => h1.rxRsp))

theorem RunsKeeping.execReduce (h : Keeps s t) {region} : RunsKeeping s (execReduce region t) :=
  .done (h.rxPacket (fun h1 => h1.rxRed))

theorem RunsKeeping.execReduceQ (h : Keeps s t) {region} : RunsKeeping s (execReduceQ region t) :=
  .done (h.rxPacket (fun h1 => h1.rxRedQ))

theorem RunsKeeping.execPegSig (h : Keeps s t) {region} : RunsKeeping s (execPegSig region t) :=
  .done (h.rxPacket (fun h1 => h1.rxSig))

theorem Keeps.ackStatus (h : Keeps s t) {c held status flags} : Keeps s (t.ackStatus c held status flags) := by
  unfold State.ackStatus
  dsimp only
  split
  · exact h
  · exact .since (fun h1 => .ite h1 ((Keeps.ite h1.setFab h1).listFail)) (by
      split
      · exact h.setList
      · exact h)

theorem Keeps.ackTake (h : Keeps s t) {p} : Keeps s (t.ackTake p) := by
  unfold State.ackTake
  dsimp only
  exact .since (fun h1 => by
      exact .since (fun h2 => (h2.foldl fun h3 => h3.listSettle).pumpAll) (by
        split
        · exact h1.ackStatus
        · exact h1)) (by
    refine h.setConn.foldl fun h4 => ?_
    split
    · split
      · exact h4.setList
      · exact h4
    · exact h4)

theorem RunsKeeping.execAck (h : Keeps s t) {region} : RunsKeeping s (execAck region t) := by
  unfold Machine.execAck
  split
  · exact .done h
  · refine .when h fun h1 => ?_
    dsimp only
    split
    next hd => exact h1.setRx.rxFilter hd
    · exact .ite h1.setRx.ackTake h1.setRx.bump.connDrop

theorem Keeps.fabRead (h : Keeps s t) {w hint a n} : Keeps s (t.fabRead w hint a n).2 :=
  .iteSnd (h.readRun.andThen fun h1 => .iteSnd h1 h1) h

theorem Keeps.fabWrite (h : Keeps s t) {w hint runs} : Keeps s (t.fabWrite w hint runs).2 :=
  .iteSnd (h.foldl fun h1 => h1.writeRun) h

theorem Keeps.sendChunk (h : Keeps s t) {v} : Keeps s (t.sendChunk v).2 := by
  unfold State.sendChunk
  extract_lets d n
  refine .bind h.fabRead ?_
  exact fun h1 => h1

theorem Keeps.getChunk (h : Keeps s t) {v} : Keeps s (t.getChunk v).2 := by
  unfold State.getChunk
  dsimp only
  split <;> exact h

theorem Keeps.reduceChunk (h : Keeps s t) {v} : Keeps s (t.reduceChunk v).2 := by
  unfold State.reduceChunk
  dsimp only
  split
  · exact h
  · exact h.fabRead.bind fun h1 => h1

theorem Keeps.reduceQChunk (h : Keeps s t) {v} : Keeps s (t.reduceQChunk v).2 := by
  unfold State.reduceQChunk
  dsimp only
  split
  · exact h.fabRead.bind fun h1 => h1.fabRead.bind fun h2 => h2.fabWrite.bind fun h3 => h3
  · exact h

theorem Keeps.sigChunk (h : Keeps s t) {v} : Keeps s (t.sigChunk v).2 :=
  h

theorem Keeps.finishChunk (h : Keeps s t) {v} : Keeps s (t.finishChunk v).2 := by
  unfold State.finishChunk
  dsimp only
  split
  · exact h
  · exact h.fabRead.bind fun h1 => h1.fabWrite.bind fun h2 => h2

theorem Keeps.fabChunk (h : Keeps s t) {v} : Keeps s (t.fabChunk v).2 := by
  unfold State.fabChunk
  split
  · exact h.sendChunk
  · exact h.getChunk
  · exact h.reduceChunk
  · exact h.reduceQChunk
  · exact h.sigChunk
  · exact h.finishChunk

theorem Keeps.fabRun (h : Keeps s t) {k n} : Keeps s (State.fabRun k n t) := by
  induction n generalizing t with
  | zero => exact h
  | succ n ih =>
    unfold State.fabRun
    split
    · exact h
    · extract_lets d c loc cls w
      refine .ite h (.ite h (.ite h ?_))
      split
      · exact h.listAbort
      · extract_lets o
        have ho : Keeps s o.2 := h.fabChunk
        split
        · exact h
        · exact ho.xfault
        · exact ho.listAbort
        · extract_lets l' s1 s2 s3
          have h1 : Keeps s s1 := by
            unfold s1
            split
            · exact ho.setFab
            · exact ho
          have h2 : Keeps s s2 := .ite h1.descIssued h1.setList
          have h3 : Keeps s s3 := by
            unfold s3
            split
            · exact h2.queuePkt
            · exact h2
          exact .ite h3 (ih h3)

theorem Keeps.fabDesc (h : Keeps s t) {r list ty chunks} : Keeps s (t.fabDesc r list ty chunks) := by
  unfold State.fabDesc
  dsimp only
  split
  · exact h
  · exact .ite h (.ite h.descOpen (.ite h.descIssued h.fabRun))

theorem RunsKeeping.execNopDescriptor (h : Keeps s t) {engine list} : RunsKeeping s (execNopDescriptor engine list t) := by
  refine .done ?_
  split
  · exact h.ceDesc
  · exact h.fabDesc

theorem RunsKeeping.execFenceDescriptor (h : Keeps s t) {engine list} :
    RunsKeeping s (execFenceDescriptor engine list t) := by
  refine .done ?_
  split
  · exact h.ceDesc
  · exact h.fabDesc

theorem RunsKeeping.execFsend (h : Keeps s t) {region list chunks} : RunsKeeping s (execFsend region list chunks t) :=
  .done h.fabDesc

theorem RunsKeeping.execFget (h : Keeps s t) {region list chunks} : RunsKeeping s (execFget region list chunks t) :=
  .done h.fabDesc

theorem RunsKeeping.execFreduce (h : Keeps s t) {region list chunks} : RunsKeeping s (execFreduce region list chunks t) :=
  .done h.fabDesc

theorem RunsKeeping.execFreduceQ (h : Keeps s t) {region list chunks} : RunsKeeping s (execFreduceQ region list chunks t) :=
  .done h.fabDesc

theorem RunsKeeping.execFsig (h : Keeps s t) {region list chunks} : RunsKeeping s (execFsig region list chunks t) :=
  .done h.fabDesc

theorem RunsKeeping.execFfinish (h : Keeps s t) {region list chunks} : RunsKeeping s (execFfinish region list chunks t) :=
  .done h.fabDesc

/-! ### The host link -/

theorem Keeps.hostMemRead (h : Keeps s t) {line asked wait} : Keeps s (t.hostMemRead line asked wait) := by
  unfold State.hostMemRead
  dsimp only
  split
  · exact h.send
  · split
    · exact h
    · exact .ite h h.ncRead.send

theorem Keeps.hostMemWrite (h : Keeps s t) {line off bs wait} : Keeps s (t.hostMemWrite line off bs wait) := by
  unfold State.hostMemWrite
  split
  · exact h.send
  · split
    · exact h.bump.send
    · split
      · exact h
      · exact .ite h h.ncWrite.send

theorem RunsKeeping.execMemrd (h : Keeps s t) {line meta_} : RunsKeeping s (execMemrd line meta_ t) :=
  .when h fun h1 => h1.hostMemRead

theorem RunsKeeping.execMemrddata (h : Keeps s t) {line meta_} : RunsKeeping s (execMemrddata line meta_ t) :=
  .when h fun h1 => h1.hostMemRead

theorem RunsKeeping.execMemrdfwd (h : Keeps s t) {line meta_} : RunsKeeping s (execMemrdfwd line meta_ t) :=
  .when h fun h1 => h1.hostMemRead

theorem RunsKeeping.execMemwr (h : Keeps s t) {line bytes} : RunsKeeping s (execMemwr line bytes t) :=
  .when h fun h1 => h1.hostMemWrite

theorem RunsKeeping.execMemwrptl (h : Keeps s t) {line be bytes} : RunsKeeping s (execMemwrptl line be bytes t) := by
  unfold Machine.execMemwrptl
  refine .when h fun h1 => ?_
  split
  · exact h1.hostMemWrite
  · exact .ite h1.hostMemWrite h1.send

theorem RunsKeeping.execMemwrfwd (h : Keeps s t) {line bytes} : RunsKeeping s (execMemwrfwd line bytes t) :=
  .when h fun h1 => h1.hostMemWrite

theorem Keeps.hostMemInv (h : Keeps s t) {line asked} : Keeps s (t.hostMemInv line asked) := by
  unfold State.hostMemInv
  split
  · exact h.send
  · split
    · exact h.send
    · exact h

theorem RunsKeeping.execMeminv (h : Keeps s t) {line meta_} : RunsKeeping s (execMeminv line meta_ t) :=
  .when h fun h1 => h1.hostMemInv

theorem RunsKeeping.execMeminvnt (h : Keeps s t) {line meta_} : RunsKeeping s (execMeminvnt line meta_ t) :=
  .when h fun h1 => h1.hostMemInv

theorem RunsKeeping.execMemspecrd (h : Keeps s t) {line} : RunsKeeping s (execMemspecrd line t) :=
  .when h fun h1 => h1.frame

theorem RunsKeeping.execUnsupportedRequest (h : Keeps s t) : RunsKeeping s (execUnsupportedRequest t) :=
  .when h fun h1 => h1.bump

theorem Keeps.flushIrqs (h : Keeps s t) : Keeps s t.flushIrqs :=
  h.foldl fun h1 => .ite h1.frame.hostWrite h1

theorem RunsKeeping.execVectorUnmask (h : Keeps s t) {vector} : RunsKeeping s (execVectorUnmask vector t) :=
  .when h fun h1 => (Keeps.ite h1.frame h1.frame).flushIrqs

theorem Keeps.lwlLog (h : Keeps s t) {w} : Keeps s (t.lwlLog w) := by
  unfold State.lwlLog
  dsimp only
  split
  · exact h.frame
  · split
    · exact h.frame
    · exact h.setBit.bump.andThen fun h1 => by
        split
        · exact h1.setBit
        · exact h1

theorem Keeps.wtLost (h : Keeps s t) {w} : Keeps s (t.wtLost w) := by
  unfold State.wtLost
  dsimp only
  exact h.setDc.lwlLog.bump.andThen fun h1 => by
    exact .since (fun h2 => by
        split
        · exact h2.setDc
        · exact h2) (by
      split
      · exact h1.chunkLost
      · exact h1)

theorem Keeps.dropRings (h : Keeps s t) : Keeps s t.dropRings :=
  h.frame.foldl fun h1 => h1.complete

theorem Keeps.biasClear (h : Keeps s t) : Keeps s t.biasClear :=
  h.frame

theorem Keeps.abandon (h : Keeps s t) : Keeps s t.abandon := by
  unfold State.abandon
  dsimp only
  exact ((h.foldl fun h1 => h1.wtLost).raise).setDc.frame.dropRings.biasClear.andThen fun h2 => by
    exact .since (fun h3 => h3.suspendAll) (by
      split
      · exact h2.frame.complete
      · exact h2)

theorem Keeps.linkHold (h : Keeps s t) : Keeps s t.linkHold :=
  .ite h (h.frame.bump.andThen fun h1 => .ite h1.abandon h1)

theorem Keeps.release (h : Keeps s t) : Keeps s t.release :=
  (h.frame.foldl fun h1 => h1.deliver).dcOpStep

theorem Keeps.mayRelease (h : Keeps s t) : Keeps s t.mayRelease :=
  .ite h.release h

theorem Keeps.confClear (h : Keeps s t) : Keeps s t.confClear :=
  h.frame

theorem Keeps.linkEvent (h : Keeps s t) {kind} : Keeps s (t.linkEvent kind) := by
  unfold State.linkEvent
  dsimp only
  exact (Keeps.ite h h.linkHold).andThen fun h1 => by
    split
    · exact h1.frame.bump.raise
    · exact h1.frame.confClear
    · exact h1.frame.confClear

theorem RunsKeeping.execLinkEvent (h : Keeps s t) {kind} : RunsKeeping s (execLinkEvent kind t) :=
  .when h fun h1 => h1.linkEvent

theorem RunsKeeping.execLinkReturn (h : Keeps s t) {mods} : RunsKeeping s (execLinkReturn mods t) :=
  .when h fun h1 => h1.frame.andThen fun h2 => .ite h2 h2.mayRelease

theorem RunsKeeping.execHostLoss (h : Keeps s t) : RunsKeeping s (execHostLoss t) :=
  .when h fun h1 => h1.abandon

theorem RunsKeeping.execViralReceived (h : Keeps s t) : RunsKeeping s (execViralReceived t) :=
  .when h fun h1 => h1.frame.andThen fun h2 => .ite h2 h2.abandon

theorem RunsKeeping.execHoldTimeout (h : Keeps s t) : RunsKeeping s (execHoldTimeout t) :=
  .when h fun h1 => h1.abandon

theorem Keeps.setPower (h : Keeps s t) {v} : Keeps s (t.setPower v) :=
  .ite h.frame h

theorem RunsKeeping.execConfigRequest (h : Keeps s t) {dw write be} : RunsKeeping s (execConfigRequest dw write be t) := by
  unfold Machine.execConfigRequest
  dsimp only
  refine .when h fun h1 => ?_
  split
  · exact h1.send
  · exact (Keeps.ite (.ite h1.setPower h1) h1.frame).andThen fun h2 => .ite h2 (.ite h2.linkHold h2.mayRelease.flushIrqs)

theorem RunsKeeping.execD3hotWrite (h : Keeps s t) : RunsKeeping s (execD3hotWrite t) :=
  .when h fun h1 => h1.setPower

theorem RunsKeeping.execDecoderCommit (h : Keeps s t) {n base size skip ways lock} :
    RunsKeeping s (execDecoderCommit n base size skip ways lock t) :=
  .when h fun h1 => h1.frame

theorem RunsKeeping.execL1Entry (h : Keeps s t) : RunsKeeping s (execL1Entry t) :=
  .when h fun h1 => h1.frame.bump

theorem Keeps.placeBytes (h : Keeps s t) {cls l bs} : Keeps s (t.placeBytes cls l bs) := by
  induction l generalizing t bs with
  | nil => exact h
  | cons r l ih => exact ih h.ncWrite

theorem RunsKeeping.execPlacementWrite (h : Keeps s t) {req hpa bytes} :
    RunsKeeping s (execPlacementWrite req hpa bytes t) := by
  unfold Machine.execPlacementWrite
  dsimp only
  refine .when h fun h1 => ?_
  split
  · exact h1.bump
  · split
    · exact h1
    · exact h1.placeBytes.andThen fun h2 => by
        split
        · split
          · exact h2.pegDo
          · exact h2
        · exact h2

theorem Keeps.confRaise (h : Keeps s t) {i n} : Keeps s (t.confRaise i n) :=
  h.frame

theorem Keeps.linkFatal (h : Keeps s t) : Keeps s t.linkFatal :=
  ((Keeps.ite h.confRaise h).confRaise).frame

/-! ### Rings -/

theorem Keeps.dbIgnored (h : Keeps s t) : Keeps s t.dbIgnored :=
  h.frame

theorem Keeps.sqDb (h : Keeps s t) {q index stream} : Keeps s (t.sqDb q index stream) := by
  unfold State.sqDb
  dsimp only
  split
  · exact .ite h.setSq.frame h.dbIgnored
  · exact h.dbIgnored

theorem Keeps.cqDb (h : Keeps s t) {c index stream} : Keeps s (t.cqDb c index stream) := by
  unfold State.cqDb
  dsimp only
  split
  · exact .ite h.setCq.frame.flushEvents h.dbIgnored
  · exact h.dbIgnored

theorem Keeps.mboxGo (h : Keeps s t) : Keeps s t.mboxGo :=
  .ite h h.frame.startCmd

theorem RunsKeeping.execSqDb (h : Keeps s t) {q value stream} : RunsKeeping s (execSqDb q value stream t) :=
  .when h fun h1 => h1.sqDb

theorem RunsKeeping.execCqDb (h : Keeps s t) {c value stream} : RunsKeeping s (execCqDb c value stream t) :=
  .when h fun h1 => h1.cqDb

theorem RunsKeeping.execMboxGo (h : Keeps s t) : RunsKeeping s (execMboxGo t) :=
  .when h fun h1 => h1.mboxGo

theorem Keeps.unreserve (h : Keeps s t) {q} : Keeps s (t.unreserve q) := by
  unfold State.unreserve
  split
  · exact h
  · split
    · exact h
    · exact h.setCq

theorem Keeps.slotIn (h : Keeps s t) {q slot d} : Keeps s (t.slotIn q slot d) := by
  unfold State.slotIn
  dsimp only
  split
  · exact h
  · split
    · exact h.unreserve.ringIdle
    · exact h.frame.andThen fun h1 => .ite h1.setSq h1.startCmd

theorem RunsKeeping.execCommandFetch (h : Keeps s t) {slot} : RunsKeeping s (execCommandFetch slot t) := by
  unfold Machine.execCommandFetch
  split
  · exact .done h
  · split
    · exact .done h
    · refine .when h fun h1 => ?_
      extract_lets s1 s2 v s3
      have h2 : Keeps s s2 := by
        unfold s2
        split
        · exact h1.setSq.setCq
        · exact h1.setSq
      have h3 : Keeps s s3 := h2.frame
      split
      · exact h3.slotIn
      · exact h3.frame.hostWrite
      · exact h3

theorem RunsKeeping.execHostCompletion (h : Keeps s t) {tag slot} : RunsKeeping s (execHostCompletion tag slot t) := by
  unfold Machine.execHostCompletion
  dsimp only
  refine .when h fun h1 => ?_
  split
  · exact h1.frame.slotIn
  · exact h1.bump.frame

theorem RunsKeeping.execCompletionTimeout (h : Keeps s t) {req} : RunsKeeping s (execCompletionTimeout req t) := by
  unfold Machine.execCompletionTimeout
  dsimp only
  refine .when h fun h1 => ?_
  split
  · split
    · exact h1.frame.bump.raise.slotIn
    · exact h1
  · split
    · exact h1.setDc.andThen fun h2 => by
        split
        · exact h2.bump.raise.send
        · exact h2.bump.raise
    · exact h1
  · exact .ite h1.setDc.dcInstall.dcOpStep.bump.raise h1
  · split
    · exact h1.wtLost.bump.raise.dcOpStep.andThen fun h3 => by
        split
        · exact h3.suspend
        · exact h3
    · exact h1

theorem RunsKeeping.execNopCommand (h : Keeps s t) {src} : RunsKeeping s (execNopCommand src t) :=
  .done (h.withCmd (fun h1 => h1.complete))

theorem RunsKeeping.execCapQuery (h : Keeps s t) {src} : RunsKeeping s (execCapQuery src t) :=
  .done (h.withCmd (fun h1 => .ite h1.complete (.ite h1.complete h1.hostWrite.complete)))

theorem Keeps.postOrphans (h : Keeps s t) {cls c} : Keeps s (t.postOrphans cls c) :=
  h.frame.foldl fun h1 => h1.postEventRec

theorem RunsKeeping.execRingCreate (h : Keeps s t) {src} : RunsKeeping s (execRingCreate src t) := by
  refine .done ?_
  refine h.withCmd fun h1 => ?_
  split
  · exact h1.complete
  · exact .ite h1.setSq.complete (h1.setCq.andThen fun h2 => (Keeps.ite h2.postOrphans h2).complete)

theorem RunsKeeping.execRingDestroy (h : Keeps s t) {src} : RunsKeeping s (execRingDestroy src t) := by
  refine .done ?_
  refine h.withCmd fun h1 => ?_
  extract_lets
  split
  · exact h1.complete
  · split
    · split
      · exact h1.complete
      · exact .ite h1.complete h1.running.setSq.ringIdle
    · split
      · exact h1.complete
      · exact .ite h1.complete (.ite h1.complete h1.frame.complete)

theorem RunsKeeping.execLwlAck (h : Keeps s t) {src} : RunsKeeping s (execLwlAck src t) :=
  .done (h.withCmd (fun h1 => .ite h1.complete (h1.frame.andThen fun h2 => (Keeps.ite h2.setBit.setCfg.setCfg h2).complete)))

theorem RunsKeeping.execDevIdSet (h : Keeps s t) {src} : RunsKeeping s (execDevIdSet src t) :=
  .done (h.withCmd (fun h1 => .ite h1.complete (.ite h1.complete h1.setCfg.complete)))

/-! ### Contexts -/

theorem Keeps.coreOff (h : Keeps s t) {c} : Keeps s (t.coreOff c) :=
  .ite h h.ccFlush.trcMark.setCore.setFld

theorem Keeps.coreOn (h : Keeps s t) {c} : Keeps s (t.coreOn c) :=
  .ite h h.setCore.setBit.setFld.trcMark

theorem Keeps.ctxRegs (h : Keeps s t) {x} : Keeps s (t.ctxRegs x) :=
  (h.foldl fun h1 => h1.setCfg.setCfg.setCfg.setCfg).setCfg.setCfg.setBit

theorem RunsKeeping.execCtxCreate (h : Keeps s t) {src} : RunsKeeping s (execCtxCreate src t) := by
  refine .done ?_
  refine h.withCmd fun h1 => ?_
  extract_lets
  split
  · exact h1.complete
  · exact h1.ctxRegs.setCtx.setCfg.setCfg.complete

theorem Keeps.putSeg (h : Keeps s t) {x i g} : Keeps s (t.putSeg x i g) :=
  h.setCfg.setCfg.setCfg.setCfg

theorem RunsKeeping.execSegMap (h : Keeps s t) {src} : RunsKeeping s (execSegMap src t) := by
  refine .done ?_
  refine h.withCmd fun h1 => ?_
  extract_lets
  split
  · exact h1.complete
  · split
    · exact h1.complete
    · exact h1.putSeg.andThen fun h2 => .ite h2.running.invalidate h2.complete

theorem RunsKeeping.execSegUnmap (h : Keeps s t) {src} : RunsKeeping s (execSegUnmap src t) :=
  .done (h.withCmd (fun h1 => .ite h1.complete h1.putSeg.running.invalidate))

theorem RunsKeeping.execInvalidate (h : Keeps s t) {src} : RunsKeeping s (execInvalidate src t) :=
  .done (h.withCmd (fun h1 =>
    .ite h1.running.invalidate (.ite (.ite h1.complete h1.running.invalidate) (.ite h1.complete h1.running.invalidate))))

theorem Keeps.walkPages (h : Keeps s t) {regions x hi n a} : Keeps s (State.walkPages regions x hi n a t).2 := by
  induction n generalizing t a with
  | zero => exact h
  | succ n ih => exact .iteSnd h (ih (h.foldl fun h1 => h1.xprefetch))

theorem RunsKeeping.execPrefetchXlat (h : Keeps s t) {src} : RunsKeeping s (execPrefetchXlat src t) :=
  .done (h.withCmd (fun h1 => .ite h1.complete h1.walkPages.complete))

theorem RunsKeeping.execAdvise (h : Keeps s t) {src} : RunsKeeping s (execAdvise src t) :=
  .done (h.withCmd (fun h1 => .ite h1.complete (.ite h1.complete h1.setFld.complete)))

/-! ### Hands -/

theorem Keeps.readPieces (h : Keeps s t) {w fills l} : Keeps s (t.readPieces w fills l).2 := by
  induction l generalizing t with
  | nil => exact h
  | cons r l ih => exact ih h.readRun

theorem Keeps.readCmd (h : Keeps s t) {x fills a n} : Keeps s (t.readCmd x fills a n).2 := by
  unfold State.readCmd
  dsimp only
  split
  · exact h
  · exact h.xlateAll.andThen fun h1 => by
      split
      · exact h1
      · exact .iteSnd h1.readPieces h

theorem Keeps.loadCore (h : Keeps s t) {x b hand e} : Keeps s (t.loadCore x b hand e) := by
  unfold State.loadCore
  dsimp only
  split
  · exact h
  · exact h.setCore.setCfg.setFld

theorem RunsKeeping.execHandLoad (h : Keeps s t) {src fills} : RunsKeeping s (execHandLoad src fills t) := by
  refine .done ?_
  refine h.withCmd fun h1 => ?_
  extract_lets
  split
  · exact h1.complete
  · split
    · exact h1.complete
    · exact h1.readCmd.andThen fun h2 => by
        split
        · exact h1
        · exact h2.xfault
        · extract_lets
          exact h2.andThen fun h3 => by
            split
            · exact h3.complete
            · split
              · exact h3.complete
              · split
                · exact h3.complete
                · split
                  · exact h3.complete
                  · exact .ite (h3.foldl fun h4 => h4.coreOn) ((h3.foldl fun h5 => h5.loadCore).modCtx.complete)

theorem Keeps.fixBase (h : Keeps s t) {x base} : Keeps s (t.fixBase x base) := by
  unfold State.fixBase
  dsimp only
  exact .since (fun h1 => h1.foldl fun h2 => h2.modCore.setCfg.setCfg) (by
    refine h.setCtx.foldl fun h3 => ?_
    split
    · exact h3.pegCycle
    · exact h3)

theorem RunsKeeping.execLaunch (h : Keeps s t) {src} : RunsKeeping s (execLaunch src t) := by
  refine .done ?_
  refine h.withCmd fun h1 => ?_
  extract_lets
  split
  · exact h1.complete
  · split
    · exact h1.complete
    · split
      · exact h1.complete
      · split
        · exact h1.complete
        · split
          · exact .ite h1.complete h1.running.modCtx.fixBase
          · split
            · exact h1.complete
            · exact .ite h1.complete h1.running.modCtx.pegDo

theorem RunsKeeping.execPegReadyWake (h : Keeps s t) {i} : RunsKeeping s (execPegReadyWake i t) := by
  unfold Machine.execPegReadyWake
  split
  · exact .done h
  · refine .when h fun h1 => ?_
    extract_lets s1
    have h2 : Keeps s s1 := h1.frame
    split
    · exact .ite h2.releaseWait h2
    · exact h2.foldl fun h3 => .ite h3.setList h3
    · exact h2.foldl fun h3 => .ite h3.setList h3
    · exact .ite h2.fixBase h2

theorem Keeps.stopHand (h : Keeps s t) {x why} : Keeps s (t.stopHand x why) :=
  h.foldl fun h1 => .ite h1.modCore h1.stopCore

theorem Keeps.cancelPreempted (h : Keeps s t) {x c} : Keeps s (t.cancelPreempted x c) :=
  h.complete.handEnd

theorem Keeps.cancelRunning (h : Keeps s t) {x c} : Keeps s (t.cancelRunning x c) :=
  h.running.modCtx.stopHand.cancelDone

theorem RunsKeeping.execCancel (h : Keeps s t) {src} : RunsKeeping s (execCancel src t) := by
  refine .done ?_
  refine h.withCmd fun h1 => ?_
  extract_lets
  split
  · exact h1.unwait.complete.modCtx.andThen fun h2 => by
      split
      · exact h2.complete
      · exact h2
  · exact .ite h1.complete (.ite h1.running.modCtx (.ite h1.cancelRunning (.ite h1.cancelPreempted h1.complete)))

theorem RunsKeeping.execPreempt (h : Keeps s t) {src} : RunsKeeping s (execPreempt src t) :=
  .done (h.withCmd (fun h1 => .ite h1.complete h1.running.setCtx.stopHand))

theorem RunsKeeping.execPreemptSaveDone (h : Keeps s t) {ctx} : RunsKeeping s (execPreemptSaveDone ctx t) := by
  unfold Machine.execPreemptSaveDone
  dsimp only
  refine .when h fun h1 => ?_
  exact h1.releaseCores.setCtx.andThen fun h2 => by
    exact .since (fun h3 => by
        split
        · exact h3.cancelPreempted
        · exact h3) (by
      split
      · exact h2.complete
      · exact h2)

theorem Keeps.clearCauses (h : Keeps s t) {x} : Keeps s (t.clearCauses x) :=
  h.clearFault.modCtx

theorem RunsKeeping.execResume (h : Keeps s t) {src} : RunsKeeping s (execResume src t) := by
  refine .done ?_
  refine h.withCmd fun h1 => ?_
  extract_lets
  split
  · exact h1.complete
  · split
    · split
      · exact h1.complete
      · exact h1.running.clearCauses.modCtx
    · split
      · split
        · exact h1.complete
        · exact .ite h1.complete (h1.running.setCtx.foldl fun h2 => h2.coreOn.modCore)
      · exact h1.complete

theorem RunsKeeping.execResumeRestoreDone (h : Keeps s t) {ctx bad} : RunsKeeping s (execResumeRestoreDone ctx bad t) := by
  unfold Machine.execResumeRestoreDone
  dsimp only
  refine .when h fun h1 => ?_
  split
  · exact h1.releaseCores.modCtx.andThen fun h2 => by
      exact .since (fun h3 => by
          split
          · exact h3.cancelPreempted
          · exact h3) (by
        split
        · exact h2.complete
        · exact h2)
  · exact .since (fun h4 => h4.modCtx.andThen fun h5 => by
        split
        · exact h5.modCtx.andThen fun h6 => by
            exact .since (fun h7 => by
                split
                · exact h7.cancelRunning
                · exact h7) (by
              split
              · exact h6.complete
              · exact h6)
        · exact h5.clearCauses) (by
      refine h1.foldl fun h8 => ?_
      split
      · exact h8
      · exact h8.setCore.setCfg.setCfg.setCfg.setCfg.setCfg.setCfg.setFld)

theorem Keeps.goCores (h : Keeps s t) {x} : Keeps s (t.goCores x) :=
  h.foldl fun h1 => h1.modCore

theorem Keeps.goOn (h : Keeps s t) {x} : Keeps s (t.goOn x) := by
  unfold State.goOn
  dsimp only
  exact h.setCtx.goCores.andThen fun h1 => by
    exact .since (fun h2 => by
        split
        · exact h2.cancelRunning
        · exact h2.handDone.foldl fun h3 => h3.suspend) (by
      split
      · exact h1.complete
      · exact h1.event)

theorem Keeps.startHand (h : Keeps s t) {x} : Keeps s (t.startHand x) := by
  unfold State.startHand
  dsimp only
  split
  · split
    · exact .ite h.setCtx.goCores h
    · exact h
  · exact .ite h.goOn h

theorem Keeps.startHands (h : Keeps s t) : Keeps s t.startHands :=
  h.foldl fun h1 => h1.startHand

theorem Keeps.thermalOver (h : Keeps s t) {r} : Keeps s (t.thermalOver r) :=
  h.foldl fun h1 => .ite (h1.setCtx.andThen fun h2 => .ite h2.clearCauses h2) h1

theorem RunsKeeping.execQueryContext (h : Keeps s t) {src} : RunsKeeping s (execQueryContext src t) :=
  .done (h.withCmd (fun h1 => .ite h1 h1.complete))

theorem RunsKeeping.execQueryList (h : Keeps s t) {src} : RunsKeeping s (execQueryList src t) := by
  refine .done ?_
  refine h.withCmd fun h1 => ?_
  split
  · exact h1
  · split
    · exact h1.complete
    · exact .ite h1.complete h1.complete

/-! ### Commands of single units -/

theorem Keeps.dcCmd (h : Keeps s t) {src op} : Keeps s (t.dcCmd src op) :=
  h.withCmd fun h1 => .ite h1 (.ite h1.complete (.ite h1 h1.running.dcOpStart))

theorem Keeps.dcMode (h : Keeps s t) {src scope old new} : Keeps s (t.dcMode src scope old new) :=
  h.withCmd fun h1 => .ite h1 (.ite h1 (.ite h1.complete h1.setDc.complete))

theorem RunsKeeping.execDcClean (h : Keeps s t) {src} : RunsKeeping s (execDcClean src t) :=
  .done h.dcCmd

theorem RunsKeeping.execDcInvalidate (h : Keeps s t) {src} : RunsKeeping s (execDcInvalidate src t) :=
  .done h.dcCmd

theorem RunsKeeping.execDcCleanInvalidate (h : Keeps s t) {src} : RunsKeeping s (execDcCleanInvalidate src t) :=
  .done h.dcCmd

theorem RunsKeeping.execEnterMaint (h : Keeps s t) {src} : RunsKeeping s (execEnterMaint src t) :=
  .done h.dcMode

theorem RunsKeeping.execLeaveMaint (h : Keeps s t) {src} : RunsKeeping s (execLeaveMaint src t) :=
  .done h.dcMode

theorem Keeps.setBias (h : Keeps s t) {first count host} : Keeps s (t.setBias first count host) :=
  h.foldl fun h1 => h1.setBit

theorem RunsKeeping.execBiasSet (h : Keeps s t) {src} : RunsKeeping s (execBiasSet src t) := by
  unfold Machine.execBiasSet
  dsimp only
  split
  · exact .when h fun h1 => h1.frame.setBias.complete
  · exact .done (h.withCmd
      (fun h2 => .ite h2.complete
      (.ite h2.complete (.ite h2
      (.ite (((h2.foldl fun h3 => h3.pull).setBias).complete)
      (.ite h2.complete (.ite h2 (h2.running.frame.foldl fun h4 => h4.send))))))))

theorem Keeps.submit (h : Keeps s t) {c e units} : Keeps s (t.submit c e units) := by
  unfold State.submit
  split
  · exact h.complete
  · exact h.running.acceptList

theorem Keeps.submitFrom (h : Keeps s t) {c fills e} : Keeps s (t.submitFrom c fills e) := by
  unfold State.submitFrom
  extract_lets n inline a chop r
  have hr : Keeps s r.2 := h.readCmd
  refine .ite h.complete (.ite h (.ite h.submit (.ite h.complete ?_)))
  split
  · exact h
  · exact hr.xfault
  · exact .ite hr.complete hr.submit

theorem RunsKeeping.execListSubmit (h : Keeps s t) {src fills} : RunsKeeping s (execListSubmit src fills t) :=
  .done (h.withCmd (fun h1 => .ite h1.complete h1.submitFrom))

theorem RunsKeeping.execCopyInline (h : Keeps s t) {src} : RunsKeeping s (execCopyInline src t) :=
  .done (h.withCmd (fun h1 => .ite h1.complete (.ite h1.complete (.ite h1 h1.submit))))

theorem RunsKeeping.execFlistSubmit (h : Keeps s t) {src fills} : RunsKeeping s (execFlistSubmit src fills t) :=
  .done (h.withCmd (fun h1 => .ite h1.complete (.ite h1.complete h1.submitFrom)))

theorem RunsKeeping.execListCancel (h : Keeps s t) {src} : RunsKeeping s (execListCancel src t) := by
  refine .done ?_
  refine h.withCmd fun h1 => ?_
  extract_lets
  split
  · exact .ite h1.complete (.ite h1.complete (h1.running.listStop.andThen fun h2 => .ite h2.complete h2))
  · split
    · exact .ite h1.complete h1.complete.complete
    · exact h1.complete

theorem RunsKeeping.execFence (h : Keeps s t) {src} : RunsKeeping s (execFence src t) :=
  .done (h.withCmd (fun h1 => .ite h1 h1.complete))

theorem Keeps.pegCmd (h : Keeps s t) {src opcode op ok} : Keeps s (t.pegCmd src opcode op ok) := by
  unfold State.pegCmd
  refine h.withCmd fun h1 => ?_
  split
  · exact h1.complete
  · exact .ite h1.pegCycle.complete h1.complete

theorem RunsKeeping.execPegSignal (h : Keeps s t) {src} : RunsKeeping s (execPegSignal src t) :=
  .done h.pegCmd

theorem RunsKeeping.execPegArm (h : Keeps s t) {src} : RunsKeeping s (execPegArm src t) :=
  .done h.pegCmd

theorem RunsKeeping.execPegReset (h : Keeps s t) {src} : RunsKeeping s (execPegReset src t) :=
  .done h.pegCmd

theorem RunsKeeping.execPegQuery (h : Keeps s t) {src} : RunsKeeping s (execPegQuery src t) := by
  refine .done ?_
  refine h.withCmd fun h1 => ?_
  split <;> exact h1.complete

theorem RunsKeeping.execConnOpen (h : Keeps s t) {src} : RunsKeeping s (execConnOpen src t) :=
  .done (h.withCmd (fun h1 =>
    .ite h1.complete (.ite h1.complete
    (.ite h1.complete (.ite h1.complete (.ite h1.complete h1.setCfg.setCfg.setCfg.setConn.setConn.complete))))))

theorem Keeps.closeConn (h : Keeps s t) {n cmd} : Keeps s (t.closeConn n cmd) :=
  h.setConn.foldl fun h1 => .ite h1 h1.listStop

theorem Keeps.connGone (h : Keeps s t) {n} : Keeps s (t.connGone n) :=
  h.setFld.setConn.foldl fun h1 => h1.sigLost

theorem RunsKeeping.execConnClose (h : Keeps s t) {src} : RunsKeeping s (execConnClose src t) :=
  .done (h.withCmd (fun h1 =>
    .ite h1.complete (.ite h1.complete (.ite h1.complete (.ite h1.complete h1.running.closeConn)))))

theorem RunsKeeping.execHandleReg (h : Keeps s t) {src} : RunsKeeping s (execHandleReg src t) := by
  refine .done ?_
  refine h.withCmd fun h1 => ?_
  extract_lets
  split
  · exact h1.complete
  · split
    · exact h1.complete
    · split
      · exact h1.complete
      · exact h1.drawn.drawn.setFab.complete

theorem Keeps.revoke (h : Keeps s t) {i} : Keeps s (t.revoke i) :=
  h.setFab

theorem RunsKeeping.execHandleRevoke (h : Keeps s t) {src} : RunsKeeping s (execHandleRevoke src t) := by
  refine .done ?_
  refine h.withCmd fun h1 => ?_
  extract_lets
  split
  · exact .ite h1.complete (.ite h1.complete h1.revoke.complete)
  · exact h1.complete

theorem RunsKeeping.execPlaceReg (h : Keeps s t) {src} : RunsKeeping s (execPlaceReg src t) :=
  .done (h.withCmd (fun h1 =>
    .ite h1.complete (.ite h1.complete (.ite h1.complete (.ite h1.complete h1.setCfg.setCfg.setCfg.setCfg.complete)))))

theorem Keeps.unplace (h : Keeps s t) {i} : Keeps s (t.unplace i) :=
  h.foldl fun h1 => h1.setCfg

theorem RunsKeeping.execPlaceUnreg (h : Keeps s t) {src} : RunsKeeping s (execPlaceUnreg src t) :=
  .done (h.withCmd (fun h1 => .ite h1.complete (.ite h1.complete (.ite h1.complete h1.unplace.complete))))

/-! ### Partitions -/

theorem Keeps.setPart (h : Keeps s t) {p v} : Keeps s (t.setPart p v) :=
  h.frame

theorem Keeps.writeShares (h : Keeps s t) {n b} : Keeps s (t.writeShares n b) :=
  h.setCfg.foldl fun h1 => h1.setCfg.setBucket.setBucket

theorem Keeps.writePart (h : Keeps s t) {p b} : Keeps s (t.writePart p b) :=
  ((h.writeShares.foldl fun h1 => h1.setCfg.setFab).setCfg.setCfg.foldl fun h2 => h2.setCfg).setCfg.setCfg.setCfg.foldl
    fun h3 => h3.setCfg

theorem Keeps.coresOff (h : Keeps s t) {ls} : Keeps s (t.coresOff ls) :=
  h.foldl fun h1 => h1.coreOff

theorem RunsKeeping.execPartCreate (h : Keeps s t) {src} : RunsKeeping s (execPartCreate src t) := by
  refine .done ?_
  refine h.withCmd fun h1 => ?_
  extract_lets
  split
  · exact h1
  · split
    · exact h1.complete
    · split
      · exact h1.complete
      · split
        · exact h1.complete
        · split
          · exact h1.complete
          · split
            · exact h1.complete
            · exact .ite h1.complete h1.writePart.setPart.complete

theorem RunsKeeping.execPartModify (h : Keeps s t) {src} : RunsKeeping s (execPartModify src t) := by
  refine .done ?_
  refine h.withCmd fun h1 => ?_
  extract_lets
  split
  · exact h1
  · split
    · exact h1.complete
    · split
      · exact .ite h1.complete (.ite h1.complete h1.writeShares.complete)
      · split
        · exact h1.complete
        · split
          · exact h1.complete
          · split
            · exact h1.complete
            · split
              · exact h1.complete
              · split
                · exact h1.complete
                · split
                  · exact h1.complete
                  · exact h1.coresOff.writePart.setPart.complete

theorem Keeps.endCmds (h : Keeps s t) {p status} : Keeps s (t.endCmds p status) :=
  h.foldl fun h1 => h1.complete

theorem Keeps.ctxStop (h : Keeps s t) {x} : Keeps s (t.ctxStop x) :=
  .ite h ((h.endCmds.unwait.setCtx.foldl fun h1 => h1.listStop).andThen fun h2 => .ite h2.stopHand.cancelDone h2.handEnd)

theorem Keeps.ctxUnmap (h : Keeps s t) {x} : Keeps s (t.ctxUnmap x) :=
  ((h.foldl fun h1 => h1.revoke).foldl fun h2 => h2.putSeg).modCtx.invalidate

theorem Keeps.ctxPegs (h : Keeps s t) {x} : Keeps s (t.ctxPegs x) :=
  h.frame

theorem Keeps.ctxDrain (h : Keeps s t) {x} : Keeps s (t.ctxDrain x) := by
  unfold State.ctxDrain
  dsimp only
  exact h.ctxStop.andThen fun h1 => by
    split
    · exact h1
    · split
      · exact h1
      · split
        · exact h1.ctxUnmap
        · split
          · exact h1
          · exact h1.ctxPegs.ctxRegs.setCtx.andThen fun h2 => by
              split
              · exact h2.complete
              · exact h2

theorem RunsKeeping.execCtxDestroy (h : Keeps s t) {src} : RunsKeeping s (execCtxDestroy src t) :=
  .done (h.withCmd (fun h1 => h1.running.modCtx.ctxStop))

theorem Keeps.dropClass (h : Keeps s t) {p} : Keeps s (t.dropClass p) :=
  h.frame.foldl fun h1 => h1.complete

theorem Keeps.tdiError (h : Keeps s t) {p} : Keeps s (t.tdiError p) :=
  .ite h h.frame

theorem Keeps.partStop (h : Keeps s t) {p c} : Keeps s (t.partStop p c) :=
  h.tdiError.setPart.endCmds

theorem Keeps.partConns (h : Keeps s t) {p c} : Keeps s (t.partConns p c) := by
  unfold State.partConns
  refine h.foldl fun h1 => ?_
  extract_lets
  exact (Keeps.ite h1.closeConn h1).andThen fun h2 => by
    split
    · exact h2.connGone.andThen fun h3 => by
        split
        · exact h3.complete
        · exact h3
    · exact h2

theorem Keeps.partDrain (h : Keeps s t) {p c} : Keeps s (t.partDrain p c) :=
  .ite h ((h.foldl fun h1 => h1.ctxDrain).andThen fun h2 =>
    .ite h2 (h2.partConns.andThen fun h3 =>
    .ite h3 ((h3.foldl fun h4 => .ite h4.unplace h4).dropClass.frame.coresOff.writePart.setPart)))

theorem RunsKeeping.execPartDestroy (h : Keeps s t) {src} : RunsKeeping s (execPartDestroy src t) :=
  .done (h.withCmd (fun h1 => .ite h1 (.ite h1.complete (.ite h1.complete h1.running.partStop))))

theorem Keeps.attachNow (h : Keeps s t) {c detail} : Keeps s (t.attachNow c detail) :=
  h.drawn.andThen fun h1 => (Keeps.ite h1.release h1.frame).frame.setBit.setFld.andThen fun h2 =>
    (Keeps.ite h2 h2.event.irq).complete

theorem RunsKeeping.execAttach (h : Keeps s t) {src} : RunsKeeping s (execAttach src t) := by
  refine .done ?_
  refine h.withCmd fun h1 => ?_
  split
  · exact h1.complete
  · split
    · exact h1.complete
    · split
      · exact h1.complete
      · split
        · exact h1.attachNow
        · exact .ite h1.attachNow
            (.ite h1.complete (h1.running.andThen fun h2 => (Keeps.ite h2.abandon h2).foldl fun h3 => .ite h3.partStop h3))

theorem RunsKeeping.execDetach (h : Keeps s t) {src} : RunsKeeping s (execDetach src t) :=
  .done (h.withCmd (fun h1 => .ite h1.complete (.ite h1.complete h1.running.frame)))

theorem Keeps.drain (h : Keeps s t) {c} : Keeps s (t.drain c) := by
  unfold State.drain
  dsimp only
  split
  · exact .ite h.frame.complete (.ite h.frame.dropRings.complete h)
  · exact (h.foldl fun h1 => .ite h1.partDrain h1).andThen fun h2 => .ite h2.attachNow h2
  · exact h.partDrain.andThen fun h3 => .ite h3 h3.complete
  · exact h.ctxDrain
  · exact .ite h h.complete
  · exact (h.foldl fun h4 => .ite h4 h4.listStop).andThen fun h5 => .ite h5.connGone.complete h5
  · exact h

/-! ### Power and firmware -/

theorem Keeps.setHeron (h : Keeps s t) {heron} : Keeps s (t.setHeron heron) :=
  h.frame

theorem Keeps.setRail (h : Keeps s t) {n x} : Keeps s (t.setRail n x) :=
  h.setHeron

theorem Keeps.railWindow (h : Keeps s t) {n amps volts} : Keeps s (t.railWindow n amps volts) :=
  .ite h.setRail (h.setRail.andThen fun h1 => .ite h1.raise.logDue h1)

theorem RunsKeeping.execRailWindow (h : Keeps s t) {amps volts} : RunsKeeping s (execRailWindow amps volts t) :=
  .when h fun h1 => (h1.foldl fun h2 => h2.railWindow).frame.bumpBy

theorem RunsKeeping.execPwrLimit (h : Keeps s t) {rail} : RunsKeeping s (execPwrLimit rail t) :=
  .when h fun h1 => h1.setRail.raise.logDue

theorem Keeps.setOp (h : Keeps s t) {r o} : Keeps s (t.setOp r o) :=
  h.setHeron

theorem Keeps.setDesign (h : Keeps s t) {w} : Keeps s (t.setDesign w) :=
  h.setHeron.setFld.setFld

theorem Keeps.opGrant (h : Keeps s t) {r} : Keeps s (t.opGrant r) :=
  h.setOp.bumpIf

theorem Keeps.opApply (h : Keeps s t) {r} : Keeps s (t.opApply r) := by
  unfold State.opApply
  dsimp only
  split
  · exact h
  · exact .ite h.setOp.bump h

theorem Keeps.opGrants (h : Keeps s t) : Keeps s t.opGrants :=
  .ite (h.foldl fun h1 => h1.opGrant) h

theorem Keeps.opBoundary (h : Keeps s t) : Keeps s t.opBoundary := by
  unfold State.opBoundary
  dsimp only
  exact (h.foldl fun h1 => h1.opApply).andThen fun h2 => by
    exact .since (fun h3 => h3.opGrants) (by
      split
      · exact h2.setDesign
      · exact h2)

theorem Keeps.opNow (h : Keeps s t) : Keeps s t.opNow :=
  .ite h.opBoundary h

theorem RunsKeeping.execPhase (h : Keeps s t) {core} : RunsKeeping s (execPhase core t) := by
  unfold Machine.execPhase
  refine .done (h.issue fun h1 => ?_)
  split
  · simp only [Option.getD_some]
    split
    · exact h1.modCtx.issued.nextRow.opNow
    · exact h1.issued.nextRow.opNow
  · exact h1

theorem RunsKeeping.execPllLock (h : Keeps s t) {region} : RunsKeeping s (execPllLock region t) :=
  .when h fun h1 => h1.setOp.opNow

theorem RunsKeeping.execRailRampDone (h : Keeps s t) {region} : RunsKeeping s (execRailRampDone region t) :=
  .when h fun h1 => h1.setOp.opNow

theorem Keeps.sensorEvent (h : Keeps s t) {id st} : Keeps s (t.sensorEvent id st) :=
  .ite h h.setHeron.send

theorem RunsKeeping.execDiodeRead (h : Keeps s t) {temps} : RunsKeeping s (execDiodeRead temps t) :=
  .when h fun h1 => h1.setHeron.frame

theorem RunsKeeping.execThermalControl (h : Keeps s t) : RunsKeeping s (execThermalControl t) := by
  unfold Machine.execThermalControl
  dsimp only
  refine .when h fun h1 => ?_
  exact .since (fun h2 => by
      exact .since (fun h3 => h3.opNow) (by
        split
        · exact h2
        · exact h2.setHeron.andThen fun h4 => .ite h4.raise.logDue.sensorEvent h4)) (by
    refine h1.foldl fun h5 => ?_
    split
    · exact h5
    · exact .ite h5.setOp.bumpIf (.ite h5.setOp h5))

theorem RunsKeeping.execTripSample (h : Keeps s t) {hot} : RunsKeeping s (execTripSample hot t) :=
  .when h fun h1 => h1.setHeron.foldl fun h2 => h2.raise.logDue

theorem Keeps.logRegs (h : Keeps s t) : Keeps s t.logRegs :=
  h.setFld.setFld.setFld.setCfg

theorem Keeps.fwRecord (h : Keeps s t) {event slot rnd} : Keeps s (t.fwRecord event slot rnd) :=
  h.logDue

theorem Keeps.logTells (h : Keeps s t) {x} : Keeps s (t.logTells x) :=
  .ite h.send (.ite h.send h)

theorem RunsKeeping.execLogWrite (h : Keeps s t) : RunsKeeping s (execLogWrite t) := by
  unfold Machine.execLogWrite
  dsimp only
  split
  · exact .done h
  · exact .when h fun h1 => h1.frame.andThen fun h2 =>
      .ite (.ite (h2.setHeron.logRegs.raise.andThen fun h3 => .ite h3 h3.send) h2.frame.logRegs) h2.frame.logRegs.logTells

theorem RunsKeeping.execSensorUpdate (h : Keeps s t) {watts} : RunsKeeping s (execSensorUpdate watts t) :=
  .when h fun h1 => h1.setHeron.andThen fun h2 => .ite (h2.foldl fun h3 => h3.sensorEvent) h2

theorem RunsKeeping.execDesignPowerEffecter (h : Keeps s t) {watts} : RunsKeeping s (execDesignPowerEffecter watts t) :=
  .when h fun h1 => .ite h1.setHeron.logDue.send.opNow h1.send

theorem RunsKeeping.execLogRead (h : Keeps s t) {repair index} : RunsKeeping s (execLogRead repair index t) :=
  .when h fun h1 => h1.send

theorem RunsKeeping.execEntdaa (h : Keeps s t) {addr} : RunsKeeping s (execEntdaa addr t) :=
  .when h fun h1 => h1.setHeron

theorem RunsKeeping.execSetdasa (h : Keeps s t) {static addr} : RunsKeeping s (execSetdasa static addr t) :=
  .when h fun h1 => h1.setHeron

theorem Keeps.setSlot (h : Keeps s t) {i x} : Keeps s (t.setSlot i x) :=
  h.setHeron

theorem Keeps.slotState (h : Keeps s t) {i st} : Keeps s (t.slotState i st) :=
  h.setSlot

theorem RunsKeeping.execRequestUpdate (h : Keeps s t) {options} : RunsKeeping s (execRequestUpdate options t) :=
  .when h fun h1 => .ite h1.send (.ite h1.setHeron.send (.ite h1.send h1.setHeron.setSlot.send))

theorem RunsKeeping.execVerifyComplete (h : Keeps s t) {img} : RunsKeeping s (execVerifyComplete img t) := by
  unfold Machine.execVerifyComplete
  dsimp only
  split
  · exact .when h fun h1 => h1.send
  · refine .when h fun h2 => ?_
    split
    · exact .ite h2.setHeron.send (.ite h2.setHeron.send.setSlot.fwRecord h2.setHeron.send.slotState)
    · exact .ite h2.setHeron.send (.ite h2.frame.setHeron.send.slotState h2.setHeron.send.slotState)
    · exact .ite h2.setHeron.setHeron.send (.ite h2.setHeron.send.slotState h2.setHeron.send)

theorem RunsKeeping.execApplyComplete (h : Keeps s t) : RunsKeeping s (execApplyComplete t) := by
  unfold Machine.execApplyComplete
  dsimp only
  split
  · exact .when h fun h1 => h1.setHeron.andThen fun h2 => (Keeps.ite h2 h2.frame).send
  · exact .when h fun h3 => h3.send

theorem Keeps.schedule (h : Keeps s t) {slot rnd cmd} : Keeps s (t.schedule slot rnd cmd) :=
  h.slotState.setHeron.fwRecord

theorem RunsKeeping.execActivateFirmware (h : Keeps s t) : RunsKeeping s (execActivateFirmware t) :=
  .when h fun h1 => .ite h1.schedule.send h1.send

theorem RunsKeeping.execFwActivate (h : Keeps s t) {src} : RunsKeeping s (execFwActivate src t) :=
  .done (h.withCmd (fun h1 => .ite h1.complete (.ite h1.complete h1.running.schedule)))

theorem Keeps.heronRestart (h : Keeps s t) {cause} : Keeps s (t.heronRestart cause) :=
  h.setHeron.setFld.logDue

theorem Keeps.sedgeRestart (h : Keeps s t) : Keeps s t.sedgeRestart :=
  .ite h h.frame.raise

theorem Keeps.leaveApproved (h : Keeps s t) : Keeps s t.leaveApproved :=
  .ite h.frame.raise h

theorem Keeps.swapTo (h : Keeps s t) {slot oldState} : Keeps s (t.swapTo slot oldState) :=
  h.slotState.slotState.frame.setFld.heronRestart.sedgeRestart

theorem Keeps.fwBoundary (h : Keeps s t) : Keeps s t.fwBoundary := by
  unfold State.fwBoundary
  dsimp only
  split
  · exact h
  · split
    · exact h.setHeron.swapTo.fwRecord.andThen fun h1 => by
        split
        · exact h1.complete
        · exact h1
    · split
      · exact h
      · exact .ite h (.ite h.swapTo.fwRecord.setHeron (.ite h h.setHeron.fwRecord.bump))

theorem Keeps.raiseSvn (h : Keeps s t) {n} : Keeps s (t.raiseSvn n) :=
  .ite h (h.frame.foldl fun h1 => .ite h1.slotState h1)

theorem RunsKeeping.execFirmwareSelfCheck (h : Keeps s t) {pass} : RunsKeeping s (execFirmwareSelfCheck pass t) := by
  unfold Machine.execFirmwareSelfCheck
  dsimp only
  split
  · exact .done h
  · split
    · refine .when h fun h1 => ?_
      exact h1.setHeron.andThen fun h2 => (Keeps.ite h2.raiseSvn h2).andThen fun h3 => by
        split
        · exact h3.complete
        · exact h3
    · exact .done h.slotState.setHeron

theorem RunsKeeping.execHeronRestartDone (h : Keeps s t) : RunsKeeping s (execHeronRestartDone t) :=
  .when h fun h1 => h1.setHeron

theorem Keeps.miscompare (h : Keeps s t) : Keeps s t.miscompare :=
  h.heronRestart.raise

theorem RunsKeeping.execHeronLockstep (h : Keeps s t) : RunsKeeping s (execHeronLockstep t) :=
  .when h fun h1 => h1.miscompare

theorem RunsKeeping.execHeronWatchdog (h : Keeps s t) : RunsKeeping s (execHeronWatchdog t) :=
  .when h fun h1 => h1.bump.miscompare

theorem Keeps.bitternCore (h : Keeps s t) {c} : Keeps s (t.bitternCore c) :=
  h.frame.raise

theorem RunsKeeping.execBitternCore (h : Keeps s t) {core} : RunsKeeping s (execBitternCore core t) :=
  .when h fun h1 => h1.bitternCore

theorem RunsKeeping.execBitternWatchdog (h : Keeps s t) {core} : RunsKeeping s (execBitternWatchdog core t) :=
  .when h fun h1 => h1.bump.bitternCore

theorem RunsKeeping.execBitternCoreRejoin (h : Keeps s t) {core} : RunsKeeping s (execBitternCoreRejoin core t) :=
  .when h fun h1 => h1.frame

/-! ### Lodes -/

theorem Keeps.setLode (h : Keeps s t) {l k} : Keeps s (t.setLode l k) :=
  h.frame

theorem Keeps.modLode (h : Keeps s t) {l f} : Keeps s (t.modLode l f) :=
  h.setLode

theorem Keeps.lodeSay (h : Keeps s t) {l ty body} : Keeps s (t.lodeSay l ty body) :=
  h.modLode

theorem Keeps.lodeControl (h : Keeps s t) {l ms fill} : Keeps s (t.lodeControl l ms fill) := by
  unfold State.lodeControl
  exact h.send.modLode

theorem Keeps.lodeEnd (h : Keeps s t) {l} : Keeps s (t.lodeEnd l) :=
  h.modLode.fabLodeDown

theorem Keeps.lodeGo (h : Keeps s t) {l st} : Keeps s (t.lodeGo l st) :=
  h.lodeEnd.modLode

theorem Keeps.lodeProbe (h : Keeps s t) {l} : Keeps s (t.lodeProbe l) :=
  h.lodeGo.modLode

theorem Keeps.lodeDark (h : Keeps s t) {l} : Keeps s (t.lodeDark l) :=
  .ite h h.lodeGo.modLode

theorem Keeps.quarantine (h : Keeps s t) {l cause} : Keeps s (t.quarantine l cause) :=
  (Keeps.ite h.lodeControl h).setFld.bump.lodeGo.modLode.raise

theorem Keeps.overLimit (h : Keeps s t) {l n limit cause} : Keeps s (t.overLimit l n limit cause) :=
  .ite h.quarantine h

theorem Keeps.lodeBad (h : Keeps s t) {l} : Keeps s (t.lodeBad l) :=
  h.bump.modLode.overLimit

theorem Keeps.lodeNak (h : Keeps s t) {l} : Keeps s (t.lodeNak l) :=
  h.modLode

theorem Keeps.authFail (h : Keeps s t) {l} : Keeps s (t.authFail l) :=
  h.bump.modLode.andThen fun h1 => .ite h1.quarantine h1.lodeProbe

theorem Keeps.retrainCount (h : Keeps s t) {l go} (hgo : ∀ {u}, Keeps s u → Keeps s (go u)) :
    Keeps s (t.retrainCount l go) :=
  h.bump.modLode.andThen fun h1 => .ite h1.quarantine (hgo h1)

theorem Keeps.lodeRetrain (h : Keeps s t) {l} : Keeps s (t.lodeRetrain l) :=
  .ite h (h.retrainCount (fun h1 => h1.modLode))

theorem Keeps.lodeResend (h : Keeps s t) {l} : Keeps s (t.lodeResend l) :=
  h.modLode

theorem Keeps.trained (h : Keeps s t) {l} : Keeps s (t.trained l) :=
  .ite h (.ite h.setLode h.setLode.lodeResend)

theorem Keeps.txWidth (h : Keeps s t) {l w g} : Keeps s (t.txWidth l w g) :=
  h.setLode.andThen fun h1 => .ite h1 (.ite h1.bump.lodeResend h1.bumpIf)

theorem Keeps.askWidth (h : Keeps s t) {l w g} : Keeps s (t.askWidth l w g) :=
  h.setLode.lodeSay

theorem Keeps.laneLost (h : Keeps s t) {l lane} : Keeps s (t.laneLost l lane) := by
  unfold State.laneLost
  dsimp only
  split
  · exact h
  · split
    · exact h.lodeRetrain
    · split
      · split
        · exact h.lodeNak.askWidth
        · exact h.lodeRetrain
      · exact h

theorem RunsKeeping.lodeEvent (h : Keeps s t) {l sts f} (hf : ∀ {u}, Keeps s u → Keeps s (f u)) :
    RunsKeeping s (State.lodeEvent t l sts f) :=
  .when h fun h1 => hf h1

theorem RunsKeeping.execProbeBurst (h : Keeps s t) {lode} : RunsKeeping s (execProbeBurst lode t) :=
  .lodeEvent h fun h1 => h1.modLode.bump.send

theorem RunsKeeping.execLightDetect (h : Keeps s t) {lode} : RunsKeeping s (execLightDetect lode t) :=
  .lodeEvent h fun h1 => .ite h1 h1.modLode

theorem RunsKeeping.execReceiveLaneLock (h : Keeps s t) {lode lane} : RunsKeeping s (execReceiveLaneLock lode lane t) :=
  .lodeEvent h fun h1 => h1.frame.modLode

theorem RunsKeeping.execTrainInfo (h : Keeps s t) {lode} : RunsKeeping s (execTrainInfo lode t) := by
  unfold Machine.execTrainInfo
  refine .lodeEvent h fun h1 => ?_
  split
  · exact h1.modLode.trained
  · exact h1

theorem RunsKeeping.execTrainTimeout (h : Keeps s t) {lode} : RunsKeeping s (execTrainTimeout lode t) :=
  .lodeEvent h fun h1 => h1.retrainCount (fun h2 => h2.lodeProbe)

theorem RunsKeeping.execLodeDomainOn (h : Keeps s t) {lode} : RunsKeeping s (execLodeDomainOn lode t) :=
  .lodeEvent h fun h1 => .ite h1.lodeProbe h1

theorem RunsKeeping.execLodePowerDown (h : Keeps s t) {lode} : RunsKeeping s (execLodePowerDown lode t) :=
  .lodeEvent h fun h1 => .ite h1 h1.modLode

theorem Keeps.rsDecode (h : Keeps s t) {l errs} : Keeps s (t.rsDecode l errs).2 :=
  .iteSnd (h.bump.modLode.andThen fun h1 => (Keeps.ite h1.lodeNak h1).overLimit) (h.bumpBy.foldl fun h2 => h2.bump)

theorem Keeps.tagFail (h : Keeps s t) {l} : Keeps s (t.tagFail l) :=
  h.bump.modLode.overLimit

theorem Keeps.ackIn (h : Keeps s t) {l header due} : Keeps s (t.ackIn l header due) :=
  .ite h.setLode.lodeResend.bump h.setLode

theorem Keeps.msgsIn (h : Keeps s t) {l control ms} : Keeps s (t.msgsIn l control ms) :=
  h.modLode.foldl fun h1 => h1.lodeBad

theorem RunsKeeping.execDataBlock (h : Keeps s t) {lode header errs tagOk nakDue slots} :
    RunsKeeping s (execDataBlock lode header errs tagOk nakDue slots t) := by
  unfold Machine.execDataBlock
  extract_lets kind ps
  refine .when h fun h1 => ?_
  extract_lets d s1 k off key s2 s3 s4
  have hd : Keeps s d.2 := h1.rsDecode
  have h2 : Keeps s s4 := hd.setLode.ackIn.foldl fun h3 => h3.arrive
  refine .ite hd (.ite hd.lodeBad (.ite (.ite h2.bumpIf hd.tagFail.lodeNak) ?_))
  split
  · exact hd.bump
  · exact hd.lodeNak

theorem RunsKeeping.execControlBlock (h : Keeps s t) {lode header errs tagOk nakDue cctr msgs} :
    RunsKeeping s (execControlBlock lode header errs tagOk nakDue cctr msgs t) :=
  .when h fun h1 => h1.rsDecode.andThen fun h2 =>
    .ite h2 (.ite h2.lodeBad (h2.andThen fun h3 => .ite h3.bump (.ite h3.tagFail h3.setLode.ackIn.msgsIn)))

theorem RunsKeeping.execTrainingBlock (h : Keeps s t) {lode header errs msgs} :
    RunsKeeping s (execTrainingBlock lode header errs msgs t) :=
  .when h fun h1 => h1.rsDecode.andThen fun h2 => .ite h2 (.ite h2.lodeBad h2.msgsIn)

theorem Keeps.packNext (h : Keeps s t) {l room} : Keeps s (t.packNext l room).2 := by
  unfold State.packNext
  dsimp only
  split
  · exact .iteSnd h.sendAck h
  · split
    · exact .iteSnd h.sendAgain h
    · split
      · exact .iteSnd h.sendNew.setFab h
      · exact h

theorem Keeps.pack (h : Keeps s t) {l n room} : Keeps s (State.pack l n room t).2 := by
  induction n generalizing t room with
  | zero => exact h
  | succ n ih =>
    unfold State.pack
    extract_lets o
    have ho : Keeps s o.2 := h.packNext
    split
    · exact ih ho
    · exact ho

theorem Keeps.nextBlock (h : Keeps s t) {l fill} : Keeps s (t.nextBlock l fill) := by
  unfold State.nextBlock
  dsimp only
  split
  · exact h.setLode.lodeControl
  · split
    · exact h.setLode.lodeControl
    · split
      · exact h.setLode.andThen fun h1 => by
          split
          · exact h1.send
          · exact h1
      · exact .ite h.pack.modLode.send h.lodeControl

theorem Keeps.nextTraining (h : Keeps s t) {l} : Keeps s (t.nextTraining l) := by
  unfold State.nextTraining
  dsimp only
  split
  · exact h.setLode.send.trained
  · exact h.setLode.send

theorem RunsKeeping.execBlockBoundary (h : Keeps s t) {lode fill} : RunsKeeping s (execBlockBoundary lode fill t) :=
  .lodeEvent h fun h1 => (Keeps.ite h1.setLode.send h1).andThen fun h2 => .ite h2.nextBlock h2.nextTraining

theorem RunsKeeping.execDelayReq (h : Keeps s t) {lode t2 t3} : RunsKeeping s (execDelayReq lode t2 t3 t) := by
  unfold Machine.execDelayReq
  refine .lodeEvent h fun h1 => ?_
  split
  · exact h1.modLode.lodeSay
  · exact h1

theorem RunsKeeping.execWidthReq (h : Keeps s t) {lode} : RunsKeeping s (execWidthReq lode t) := by
  unfold Machine.execWidthReq
  refine .lodeEvent h fun h1 => ?_
  split
  · exact h1.modLode.txWidth
  · exact h1

theorem RunsKeeping.execKeySwitch (h : Keeps s t) {lode} : RunsKeeping s (execKeySwitch lode t) := by
  unfold Machine.execKeySwitch
  dsimp only
  refine .lodeEvent h fun h1 => ?_
  split
  · exact h1.frame.modLode
  · exact h1

theorem RunsKeeping.execQuarantineNotice (h : Keeps s t) {lode} : RunsKeeping s (execQuarantineNotice lode t) := by
  unfold Machine.execQuarantineNotice
  refine .lodeEvent h fun h1 => ?_
  split
  · exact h1.modLode
  · exact h1

theorem RunsKeeping.execNakTimeout (h : Keeps s t) {lode} : RunsKeeping s (execNakTimeout lode t) :=
  .lodeEvent h fun h1 => h1.modLode

theorem RunsKeeping.execReplayTimeout (h : Keeps s t) {lode} : RunsKeeping s (execReplayTimeout lode t) :=
  .lodeEvent h fun h1 => .ite h1 (h1.setLode.lodeResend.bump.andThen fun h2 => .ite h2.lodeRetrain h2)

theorem RunsKeeping.execMarkerSet (h : Keeps s t) {lode width group stray} :
    RunsKeeping s (execMarkerSet lode width group stray t) :=
  .lodeEvent h fun h1 => .ite h1.lodeBad (h1.setLode.andThen fun h2 => .ite h2 (.ite h2.bump.raise h2.bumpIf))

theorem RunsKeeping.execLaneLockLoss (h : Keeps s t) {lode lane} : RunsKeeping s (execLaneLockLoss lode lane t) :=
  .lodeEvent h fun h1 => h1.modLode.laneLost

theorem RunsKeeping.execLaneDegraded (h : Keeps s t) {lode lane} : RunsKeeping s (execLaneDegraded lode lane t) :=
  .lodeEvent h fun h1 => h1.modLode.laneLost

theorem RunsKeeping.execLaserMonitorLow (h : Keeps s t) {lode lane} : RunsKeeping s (execLaserMonitorLow lode lane t) := by
  unfold Machine.execLaserMonitorLow
  dsimp only
  refine .lodeEvent h fun h1 => ?_
  split
  · split
    · exact h1.txWidth
    · exact h1
  · exact h1

theorem RunsKeeping.execLaneRetry (h : Keeps s t) {lode} : RunsKeeping s (execLaneRetry lode t) :=
  .lodeEvent h fun h1 => h1.modLode

theorem RunsKeeping.execLanePass (h : Keeps s t) {lode lane} : RunsKeeping s (execLanePass lode lane t) := by
  unfold Machine.execLanePass
  dsimp only
  refine .lodeEvent h fun h1 => ?_
  split
  · exact h1.setLode.andThen fun h2 => by
      split
      · exact .ite h2.askWidth h2
      · exact h2
  · exact h1

theorem RunsKeeping.execWidthReqTimeout (h : Keeps s t) {lode} : RunsKeeping s (execWidthReqTimeout lode t) := by
  unfold Machine.execWidthReqTimeout
  dsimp only
  refine .lodeEvent h fun h1 => ?_
  split
  · exact h1
  · exact .ite h1.askWidth.modLode h1.lodeRetrain

theorem RunsKeeping.execHeaderLoss (h : Keeps s t) {lode} : RunsKeeping s (execHeaderLoss lode t) :=
  .lodeEvent h fun h1 => h1.lodeRetrain

theorem Keeps.authMsg (h : Keeps s t) {l m} : Keeps s (t.authMsg l m) := by
  unfold State.authMsg
  extract_lets k
  -- The match is on the message and the step reached together.
  generalize k.authStep = n
  cases m with
  | cert ok switch id =>
    cases n with
    | zero => exact .ite (Keeps.andThen h.setLode.send fun h1 => .ite h1.send h1) h.authFail
    | succ n => exact h.authFail
  | kemInit =>
    rcases n with _ | _ | n
    · exact h.authFail
    · exact .ite h.authFail h.setLode.send
    · exact h.authFail
  | kemResp ok =>
    rcases n with _ | _ | n
    · exact h.authFail
    · exact .ite h.setLode.send h.authFail
    · exact h.authFail
  | kemFin ok =>
    rcases n with _ | _ | _ | n
    · exact h.authFail
    · exact h.authFail
    · exact .ite h.setLode h.authFail
    · exact h.authFail

theorem RunsKeeping.execAuth (h : Keeps s t) {lode msg} : RunsKeeping s (execAuth lode msg t) := by
  unfold Machine.execAuth
  dsimp only
  refine .lodeEvent h fun h1 => ?_
  split
  · exact .ite h1 (h1.setLode.andThen fun h2 => .ite h2.authFail (.ite h2.authFail (.ite h2.modLode.authMsg h2.modLode)))
  · exact h1

theorem RunsKeeping.execKeysInstalled (h : Keeps s t) {lode} : RunsKeeping s (execKeysInstalled lode t) :=
  .lodeEvent h fun h1 => .ite h1 h1.frame.bump.setLode.fabLodeUp

theorem RunsKeeping.execAuthTimeout (h : Keeps s t) {lode} : RunsKeeping s (execAuthTimeout lode t) :=
  .lodeEvent h fun h1 => .ite h1 h1.authFail

theorem RunsKeeping.execQuarantineWindow (h : Keeps s t) {lode} : RunsKeeping s (execQuarantineWindow lode t) :=
  .done h.modLode

theorem RunsKeeping.execQuarantineHoldEnd (h : Keeps s t) {lode} : RunsKeeping s (execQuarantineHoldEnd lode t) :=
  .lodeEvent h fun h1 => .ite h1 h1.lodeProbe

theorem RunsKeeping.execQuarantineAgeOut (h : Keeps s t) {lode} : RunsKeeping s (execQuarantineAgeOut lode t) :=
  .done h.modLode

theorem Keeps.lodeApply (h : Keeps s t) {l w} : Keeps s (t.lodeApply l w) :=
  h.setCfg.andThen fun h1 => .ite h1.lodeDark (.ite h1.lodeProbe h1)

theorem Keeps.lodeCtl (h : Keeps s t) {l w} : Keeps s (t.lodeCtl l w).2 :=
  .iteSnd h.setBit h.setBit.lodeApply

theorem Keeps.lodeRelease (h : Keeps s t) {l w} : Keeps s (t.lodeRelease l w) :=
  .ite h.lodeGo.modLode h

theorem Keeps.lodeCmd (h : Keeps s t) {src action f} (hf : ∀ {c l u}, Keeps s u → Keeps s (f c l u)) :
    Keeps s (t.lodeCmd src action f) :=
  h.withCmd fun h1 => .ite h1 (.ite h1.complete (hf h1))

theorem Keeps.lodeWrite (h : Keeps s t) {c l v} : Keeps s (t.lodeWrite c l v) :=
  h.lodeCtl.complete

theorem RunsKeeping.execLodeDisable (h : Keeps s t) {src} : RunsKeeping s (execLodeDisable src t) :=
  .done (h.lodeCmd (fun h1 => h1.lodeCtl.running.modLode))

theorem RunsKeeping.execLodeEnable (h : Keeps s t) {src} : RunsKeeping s (execLodeEnable src t) :=
  .done (h.lodeCmd (fun h1 => .ite h1.complete h1.lodeWrite))

theorem RunsKeeping.execLodeRelease (h : Keeps s t) {src} : RunsKeeping s (execLodeRelease src t) :=
  .done (h.lodeCmd (fun h1 => h1.lodeRelease.complete))

theorem RunsKeeping.execLodeSet (h : Keeps s t) {src} : RunsKeeping s (execLodeSet src t) :=
  .done (h.lodeCmd (fun h1 => h1.lodeWrite))

theorem Keeps.lodeDrained (h : Keeps s t) {c} : Keeps s (t.lodeDrained c) :=
  h.modLode.complete

theorem RunsKeeping.execDrainEnd (h : Keeps s t) {src} : RunsKeeping s (execDrainEnd src t) := by
  unfold Machine.execDrainEnd
  split
  · exact .when h fun h1 => .ite h1.lodeDrained h1.drain
  · exact .done h

/-! ### The Round unit -/

theorem Keeps.snapSlot (h : Keeps s t) {slot} : Keeps s (t.snapSlot slot) :=
  (h.foldl fun h1 => h1.bumpBy.drawn).frame

theorem Keeps.snapRegion (h : Keeps s t) {r} : Keeps s (t.snapRegion r) :=
  .ite ((h.foldl fun h1 => h1.snapSlot).setBit) h

theorem Keeps.setRound (h : Keeps s t) {r} : Keeps s (t.setRound r) :=
  h.frame

theorem Keeps.unalignedEnd (h : Keeps s t) : Keeps s t.unalignedEnd :=
  .ite h.setRound h

theorem Keeps.setOffset (h : Keeps s t) {o} : Keeps s (t.setOffset o) :=
  h.setCfg

theorem Keeps.nowMaster (h : Keeps s t) : Keeps s t.nowMaster :=
  h.setRound.setCfg

theorem Keeps.noGoodMark (h : Keeps s t) : Keeps s t.noGoodMark :=
  .ite h.setRound (.ite h.setRound (.ite h.setRound.bump.raise h.setRound))

theorem Keeps.sendMarks (h : Keeps s t) : Keeps s t.sendMarks :=
  h.foldl fun h1 => .ite h1.modLode h1

theorem Keeps.newSettings (h : Keeps s t) : Keeps s t.newSettings :=
  h.setRound.andThen fun h1 => .ite h1.setRound h1.setRound

theorem Keeps.throttleFall (h : Keeps s t) {r} : Keeps s (t.throttleFall r) :=
  .ite (h.frame.andThen fun h1 => .ite h1.thermalOver h1) h

theorem Keeps.boundary (h : Keeps s t) : Keeps s t.boundary := by
  unfold State.boundary
  extract_lets
  exact ((Keeps.ite h.noGoodMark h).newSettings.setRound.foldl fun h1 => h1.snapRegion).opBoundary.fwBoundary.andThen
    fun h2 => by
    split
    · exact h2
    · exact .since (fun h3 => h3.sendMarks) (by
        refine (h2.foldl fun h4 => h4.throttleFall).startHands.foldl fun h5 => ?_
        split
        · exact h5.roundAt
        · exact h5)

theorem Keeps.boundaries (h : Keeps s t) {n} : Keeps s (State.boundaries n t) := by
  induction n generalizing t with
  | zero => exact h
  | succ n ih => exact ih h.boundary

theorem RunsKeeping.execRoundBoundary (h : Keeps s t) : RunsKeeping s (execRoundBoundary t) :=
  .when h fun h1 => h1.boundary

theorem Keeps.adopt (h : Keeps s t) {m} : Keeps s (t.adopt m) :=
  h.setFld.setCfg.setRound.andThen fun h1 => .ite h1 h1.setRound.suspendAll

theorem Keeps.setPhase (h : Keeps s t) {phase} : Keeps s (t.setPhase phase) :=
  h.setRound

theorem Keeps.firstMark (h : Keeps s t) {l m} : Keeps s (t.firstMark l m) :=
  h.setRound.andThen fun h1 => ((Keeps.ite h1 h1.boundary).setPhase).bump

theorem Keeps.steer (h : Keeps s t) {l m arrive} : Keeps s (t.steer l m arrive) :=
  h.setOffset.setPhase.andThen fun h1 =>
    .ite h1.setRound.bump.boundaries.setPhase.bump
    (.ite (h1.setRound.bump.andThen fun h2 => .ite h2.raise h2) (.ite h1.setRound h1.setRound))

theorem Keeps.watchSource (h : Keeps s t) {l m arrive} : Keeps s (t.watchSource l m arrive) :=
  .ite h.setRound h.setRound

theorem Keeps.useMark (h : Keeps s t) {l m arrive} : Keeps s (t.useMark l m arrive) :=
  .ite (h.setRound.andThen fun h1 => .ite h1.firstMark (.ite h1.steer h1)) (.ite h.watchSource h)

theorem Keeps.takeMark (h : Keeps s t) {l m arrive} : Keeps s (t.takeMark l m arrive) :=
  .ite h.bump (.ite h.bump.raise (.ite (.ite h.setRound.adopt.raise h) (.ite h (.ite h.adopt.useMark (.ite h.useMark h)))))

theorem RunsKeeping.execRoundMark (h : Keeps s t) {lode arrive bad} : RunsKeeping s (execRoundMark lode arrive bad t) := by
  unfold Machine.execRoundMark
  dsimp only
  refine .lodeEvent h fun h1 => ?_
  split
  · exact .ite h1 h1.bump
  · split
    · exact h1.modLode.andThen fun h2 => .ite h2 h2.takeMark
    · exact h1

theorem RunsKeeping.execMissingMark (h : Keeps s t) : RunsKeeping s (execMissingMark t) :=
  .when h fun h1 => h1.bump.noGoodMark

theorem RunsKeeping.execHoldoverLimit (h : Keeps s t) : RunsKeeping s (execHoldoverLimit t) :=
  .when h fun h1 => h1.setRound.raise.unalignedEnd

theorem RunsKeeping.execStandbyTakeover (h : Keeps s t) : RunsKeeping s (execStandbyTakeover t) :=
  .when h fun h1 => h1.setFld.nowMaster

theorem Keeps.setDelay (h : Keeps s t) {l d} : Keeps s (t.setDelay l d) :=
  h.setRound

theorem Keeps.showMean (h : Keeps s t) {l kept} : Keeps s (t.showMean l kept) :=
  .ite h.setCfg (h.drawn.setCfg.andThen fun h1 => .ite h1.raise h1)

theorem Keeps.measured (h : Keeps s t) {l d} : Keeps s (t.measured l d) :=
  .ite (.ite h.setDelay.showMean.unalignedEnd h.setDelay) h.setDelay.showMean

theorem RunsKeeping.execDelayExchange (h : Keeps s t) {t1} : RunsKeeping s (execDelayExchange t1 t) :=
  .when h fun h1 => h1.setRound.foldl fun h2 => .ite h2 h2.setDelay.lodeSay

theorem RunsKeeping.execDelayRsp (h : Keeps s t) {lode t4} : RunsKeeping s (execDelayRsp lode t4 t) := by
  unfold Machine.execDelayRsp
  dsimp only
  refine .lodeEvent h fun h1 => ?_
  split
  · exact h1.modLode.andThen fun h2 => by
      split
      · exact .ite h2 (h2.setDelay.andThen fun h3 => (Keeps.ite h3.setOffset h3).measured)
      · exact h2
  · exact h1

theorem RunsKeeping.execDelayRspTimeout (h : Keeps s t) {lode} : RunsKeeping s (execDelayRspTimeout lode t) :=
  .when h fun h1 => h1.setDelay

theorem RunsKeeping.execReferenceWindow (h : Keeps s t) {accepted} : RunsKeeping s (execReferenceWindow accepted t) :=
  .done h.setRound

theorem RunsKeeping.execPpsEdge (h : Keeps s t) : RunsKeeping s (execPpsEdge t) :=
  .when h fun h1 => h1.tick.setCfg.setCfg.setCfg

theorem Keeps.roundSet (h : Keeps s t) {w} : Keeps s (t.roundSet w) :=
  h.setCfg.andThen fun h1 => (Keeps.ite h1 h1.setRound).andThen fun h2 =>
    .ite h2.setRound.opNow (.ite (.ite h2.setRound.nowMaster h2.setRound) h2)

theorem Keeps.roundWrite (h : Keeps s t) {w} : Keeps s (t.roundWrite w) :=
  .ite h.setBit h.roundSet.setBit

/-! ### Faults (R553 to R578) -/

theorem Keeps.setSump (h : Keeps s t) {u} : Keeps s (t.setSump u) :=
  h.frame

theorem Keeps.pendSet (h : Keeps s t) {cls src} : Keeps s (t.pendSet cls src) :=
  .ite h.setSump h.setSump

theorem Keeps.setCollector (h : Keeps s t) {r c} : Keeps s (t.setCollector r c) :=
  h.setSump

theorem Keeps.holdMsg (h : Keeps s t) {r m} : Keeps s (t.holdMsg r m) := by
  unfold State.holdMsg
  dsimp only
  split
  · exact .ite h.setCollector.bump h.setCollector
  · exact h.setCollector

theorem Keeps.collect (h : Keeps s t) {m} : Keeps s (t.collect m) :=
  .ite h.bump (.ite h.setCollector (.ite h.bump.pendSet h.holdMsg))

theorem RunsKeeping.execRegionCollectorMessage (h : Keeps s t) {n} : RunsKeeping s (execRegionCollectorMessage n t) := by
  unfold Machine.execRegionCollectorMessage
  dsimp only
  split
  · exact .ite (.done h) (.done h.setSump.collect)
  · exact .done h

theorem Keeps.lodesDark (h : Keeps s t) : Keeps s t.lodesDark :=
  h.foldl fun h1 => .ite h1.lodeDark h1

theorem Keeps.hbmSafe (h : Keeps s t) : Keeps s t.hbmSafe :=
  h.foldl fun h1 => .ite h1.setHctl h1

theorem Keeps.fatalReport (h : Keeps s t) : Keeps s t.fatalReport :=
  .ite h h.frame.lodesDark.hbmSafe.linkFatal

theorem Keeps.putMsg (h : Keeps s t) {reg m} : Keeps s (t.putMsg reg m) :=
  h.foldl fun h1 => h1.setCfg

theorem Keeps.faultRecord (h : Keeps s t) {m} : Keeps s (t.faultRecord m) :=
  .ite h ((Keeps.ite h.setSump h).logDue)

theorem Keeps.fqServe (h : Keeps s t) {n} : Keeps s (State.fqServe n t) := by
  induction n generalizing t with
  | zero => exact h
  | succ n ih =>
    unfold State.fqServe
    split
    · extract_lets _ s1
      have h1 : Keeps s s1 := h.setSump
      exact .ite h (.ite h (ih (.ite h1.event h1)))
    · exact h

theorem Keeps.sumpTake (h : Keeps s t) {m} : Keeps s (t.sumpTake m) :=
  h.putMsg.andThen fun h1 =>
    .ite ((Keeps.ite h1.putMsg.setSump h1).faultRecord)
    (h1.bumpIf.bumpIf.bumpIf.andThen fun h2 => (Keeps.ite h2 h2.pendSet).andThen fun h3 =>
    .ite ((Keeps.ite h3.fatalReport.putMsg.setSump h3.fatalReport).faultRecord)
    (h3.faultRecord.andThen fun h4 => .ite h4.setSump.fqServe h4.bump))

theorem Keeps.mergeFlight (h : Keeps s t) {n m} : Keeps s (t.mergeFlight n m) :=
  h.setSump

theorem Keeps.collectorOut (h : Keeps s t) {r c rest} : Keeps s (t.collectorOut r c rest) :=
  h.setCollector.bump

theorem RunsKeeping.execFaultMessage (h : Keeps s t) {region n} : RunsKeeping s (execFaultMessage region n t) := by
  unfold Machine.execFaultMessage
  dsimp only
  split
  · split
    · exact .ite (.done h.collectorOut.sumpTake) (.done h)
    · exact .done h
  · split
    · exact .ite (.done h) (.ite (.done h.setSump.sumpTake) (.done h.mergeFlight))
    · exact .done h

theorem RunsKeeping.execFatalLine (h : Keeps s t) : RunsKeeping s (execFatalLine t) := by
  unfold Machine.execFatalLine
  dsimp only
  split
  · exact .done h.setSump.fatalReport
  · exact .done h

theorem RunsKeeping.execCeHoldExpiry (h : Keeps s t) {src} : RunsKeeping s (execCeHoldExpiry src t) :=
  .when h fun h1 => h1.setSump

theorem Keeps.sumpAck (h : Keeps s t) {w} : Keeps s (t.sumpAck w) :=
  .ite h.setSump h

theorem RunsKeeping.execSumpAck (h : Keeps s t) {src} : RunsKeeping s (execSumpAck src t) := by
  unfold Machine.execSumpAck
  dsimp only
  refine .when h fun h1 => ?_
  split
  · exact .ite h1.setSump.event.sumpAck.fqServe h1
  · exact h1

theorem RunsKeeping.execSumpAckTimeout (h : Keeps s t) {src} : RunsKeeping s (execSumpAckTimeout src t) :=
  .when h fun h1 => h1.raise

theorem Keeps.drillSet (h : Keeps s t) {on} : Keeps s (t.drillSet on) :=
  h.setSump.setBit.logDue.andThen fun h1 => .ite h1.frame.leaveApproved h1

theorem RunsKeeping.execDrillEnable (h : Keeps s t) : RunsKeeping s (execDrillEnable t) := by
  unfold Machine.execDrillEnable
  dsimp only
  split
  · exact .done h
  · exact .when h fun h1 => h1.setSump.drillSet

theorem RunsKeeping.execCoreIsolation (h : Keeps s t) {core} : RunsKeeping s (execCoreIsolation core t) :=
  .when h fun h1 => h1.setSump.isolate

theorem Keeps.bindCore (h : Keeps s t) {l c} : Keeps s (t.bindCore l c) :=
  h.modCore.coreOn

theorem Keeps.loseCore (h : Keeps s t) {c} : Keeps s (t.loseCore c) := by
  unfold State.loseCore
  dsimp only
  exact h.unwait.coreOff.modCore.andThen fun h1 => by
    split
    · exact h1.modCtx.suspend
    · exact h1

theorem Keeps.capChanged (h : Keeps s t) {r} : Keeps s (t.capChanged r) :=
  h.foldl fun h1 => h1.event

theorem Keeps.rebind (h : Keeps s t) {r l} : Keeps s (t.rebind r l) := by
  unfold State.rebind
  split
  · exact h.bindCore
  · split
    · exact h.loseCore.bindCore.capChanged
    · exact h.capChanged

theorem RunsKeeping.execCoreFence (h : Keeps s t) {core} : RunsKeeping s (execCoreFence core t) := by
  unfold Machine.execCoreFence
  dsimp only
  refine .when h fun h1 => ?_
  exact h1.setSump.reclaim.setBit.setBit.bump.loseCore.andThen fun h2 => by
    split
    · exact h2.rebind
    · exact h2

/-! ### Security (R611 to R632) -/

theorem Keeps.setSedge (h : Keeps s t) {k} : Keeps s (t.setSedge k) :=
  h.frame

theorem Keeps.setSession (h : Keeps s t) {k} : Keeps s (t.setSession k) :=
  h.setSedge

theorem Keeps.dropSession (h : Keeps s t) {doe id} : Keeps s (t.dropSession doe id) :=
  h.setSedge

theorem Keeps.answer (h : Keeps s t) {doe r} : Keeps s (t.answer doe r) :=
  h.send

theorem RunsKeeping.roleReq (h : Keeps s t) {doe id f} (hf : ∀ {u}, Keeps s u → Keeps s (f u)) :
    RunsKeeping s (roleReq doe id f t) :=
  .when h fun h1 => .ite (hf h1) h1.answer

theorem RunsKeeping.execGetVersion (h : Keeps s t) {doe} : RunsKeeping s (execGetVersion doe t) :=
  .when h fun h1 => h1.answer

theorem RunsKeeping.execGetCapabilities (h : Keeps s t) {doe} : RunsKeeping s (execGetCapabilities doe t) :=
  .when h fun h1 => h1.answer

theorem RunsKeeping.execNegotiateAlgorithms (h : Keeps s t) {doe p384 sha384} :
    RunsKeeping s (execNegotiateAlgorithms doe p384 sha384 t) :=
  .when h fun h1 => h1.answer

theorem RunsKeeping.execGetDigests (h : Keeps s t) {doe} : RunsKeeping s (execGetDigests doe t) :=
  .when h fun h1 => h1.answer

theorem RunsKeeping.execGetCertificate (h : Keeps s t) {doe slot} : RunsKeeping s (execGetCertificate doe slot t) :=
  .when h fun h1 => h1.answer

theorem RunsKeeping.execChallenge (h : Keeps s t) {doe slot} : RunsKeeping s (execChallenge doe slot t) :=
  .when h fun h1 => h1.answer

theorem RunsKeeping.execGetMeasurements (h : Keeps s t) {doe sign} : RunsKeeping s (execGetMeasurements doe sign t) :=
  .when h fun h1 => h1.answer

theorem RunsKeeping.execKemInit (h : Keeps s t) {doe} : RunsKeeping s (execKemInit doe t) := by
  unfold Machine.execKemInit
  dsimp only
  refine .when h fun h1 => ?_
  split
  · exact h1.answer
  · split
    · exact h1.answer
    · exact h1.setSedge.answer

theorem RunsKeeping.execKemFin (h : Keeps s t) {doe id chain signature} :
    RunsKeeping s (execKemFin doe id chain signature t) := by
  unfold Machine.execKemFin
  refine .when h fun h1 => ?_
  split
  · exact .ite h1.answer (.ite h1.setSession.answer h1.dropSession.bump.raise.answer)
  · exact h1.answer

theorem RunsKeeping.execPskExchange (h : Keeps s t) {doe id} : RunsKeeping s (execPskExchange doe id t) := by
  unfold Machine.execPskExchange
  refine .when h fun h1 => ?_
  split
  · exact .ite h1.setSession.answer h1.answer
  · exact h1.answer

theorem RunsKeeping.execPskFinish (h : Keeps s t) {doe id} : RunsKeeping s (execPskFinish doe id t) := by
  unfold Machine.execPskFinish
  refine .when h fun h1 => ?_
  split
  · exact .ite h1.setSession.bump.answer h1.answer
  · exact h1.answer

theorem RunsKeeping.execEndSession (h : Keeps s t) {doe id} : RunsKeeping s (execEndSession doe id t) :=
  .when h fun h1 => .ite h1.dropSession.answer h1.answer

theorem Keeps.streamsStop (h : Keeps s t) : Keeps s t.streamsStop :=
  (h.foldl fun h1 => .ite h1.tdiError h1).setSedge

theorem Keeps.sedgeError (h : Keeps s t) {kind err} : Keeps s (t.sedgeError kind err) :=
  (h.setSedge.streamsStop.foldl fun h1 => .ite h1.lodeDark h1).raise.raise

theorem Keeps.toApproved (h : Keeps s t) : Keeps s t.toApproved :=
  h.setSedge.bump

theorem Keeps.testsPass (h : Keeps s t) : Keeps s t.testsPass :=
  h.setSedge.andThen fun h1 => (Keeps.ite h1.setSedge h1.toApproved).raise

theorem RunsKeeping.execSelftestDone (h : Keeps s t) {pass err} : RunsKeeping s (execSelftestDone pass err t) :=
  .when h fun h1 => .ite h1.testsPass h1.sedgeError

theorem RunsKeeping.execSelfTestOnDemand (h : Keeps s t) {doe id pass err} :
    RunsKeeping s (execSelfTestOnDemand doe id pass err t) :=
  .roleReq h fun h1 => .ite h1.answer h1.sedgeError

theorem RunsKeeping.execHealthTestFailure (h : Keeps s t) {err} : RunsKeeping s (execHealthTestFailure err t) :=
  .when h fun h1 => h1.bump.sedgeError

theorem RunsKeeping.execDrbgReseed (h : Keeps s t) : RunsKeeping s (execDrbgReseed t) :=
  .when h fun h1 => h1.bump

theorem RunsKeeping.execSetCertificate (h : Keeps s t) {doe id slot ident switch own} :
    RunsKeeping s (execSetCertificate doe id slot ident switch own t) :=
  .roleReq h fun h1 => .ite h1.answer h1.setSedge.answer

theorem RunsKeeping.execGetCsr (h : Keeps s t) {doe id slot consistent err} :
    RunsKeeping s (execGetCsr doe id slot consistent err t) :=
  .roleReq h fun h1 => .ite h1.answer (.ite h1.sedgeError h1.setSedge.answer)

theorem RunsKeeping.execSetOwner (h : Keeps s t) : RunsKeeping s (execSetOwner t) :=
  .when h fun h1 => .ite h1.answer h1.setSedge.answer

theorem Keeps.zeroise (h : Keeps s t) : Keeps s t.zeroise :=
  (h.setSedge.foldl fun h1 => .ite h1.lodeDark.lodeProbe h1).bump

theorem RunsKeeping.execZeroiseSession (h : Keeps s t) {doe id} : RunsKeeping s (execZeroiseSession doe id t) :=
  .roleReq h fun h1 => h1.zeroise.answer

theorem RunsKeeping.execDecommission (h : Keeps s t) {doe id} : RunsKeeping s (execDecommission doe id t) :=
  .roleReq h fun h1 => h1.zeroise.setSedge.raise.answer

theorem RunsKeeping.execDebugArm (h : Keeps s t) {doe id} : RunsKeeping s (execDebugArm doe id t) :=
  .roleReq h fun h1 => h1.setSedge.answer

theorem RunsKeeping.execDebugArmExpiry (h : Keeps s t) : RunsKeeping s (execDebugArmExpiry t) :=
  .done h.setSedge

theorem RunsKeeping.execFaultDrillEntry (h : Keeps s t) {doe id} : RunsKeeping s (execFaultDrillEntry doe id t) :=
  .roleReq h fun h1 => .ite h1.answer h1.setSump.answer

theorem RunsKeeping.execFaultDrillExit (h : Keeps s t) {doe id} : RunsKeeping s (execFaultDrillExit doe id t) :=
  .roleReq h fun h1 => .ite h1.answer h1.setSump.answer

theorem RunsKeeping.execKeyRenewal (h : Keeps s t) {lode} : RunsKeeping s (execKeyRenewal lode t) :=
  .lodeEvent h fun h1 => .ite h1 h1.setSedge.bump.setLode.lodeSay

theorem Keeps.setStream (h : Keeps s t) {i k} : Keeps s (t.setStream i k) :=
  h.setSedge

theorem Keeps.streamLost (h : Keeps s t) {i} : Keeps s (t.streamLost i) :=
  h.foldl fun h1 => .ite h1.tdiError h1

theorem RunsKeeping.execIdeQuery (h : Keeps s t) {id} : RunsKeeping s (execIdeQuery id t) :=
  .roleReq h fun h1 => h1.answer

theorem RunsKeeping.execKeyProg (h : Keeps s t) {id stream} : RunsKeeping s (execKeyProg id stream t) :=
  .roleReq h fun h1 => h1.setStream.answer

theorem RunsKeeping.execKSetGo (h : Keeps s t) {id stream} : RunsKeeping s (execKSetGo id stream t) :=
  .roleReq h fun h1 => .ite h1.setStream.answer h1.answer

theorem RunsKeeping.execKSetStop (h : Keeps s t) {id stream} : RunsKeeping s (execKSetStop id stream t) :=
  .roleReq h fun h1 => h1.setStream.streamLost.answer

theorem RunsKeeping.execKeyRefresh (h : Keeps s t) {id stream} : RunsKeeping s (execKeyRefresh id stream t) :=
  .roleReq h fun h1 => h1.answer

theorem RunsKeeping.execIdeIntegrityFailure (h : Keeps s t) {stream} : RunsKeeping s (execIdeIntegrityFailure stream t) :=
  .when h fun h1 => h1.setStream.streamLost.raise

theorem Keeps.setTdi (h : Keeps s t) {p tdi} : Keeps s (t.setTdi p tdi) :=
  h.setSedge

theorem RunsKeeping.execLockInterface (h : Keeps s t) {id part stream} :
    RunsKeeping s (execLockInterface id part stream t) :=
  .roleReq h fun h1 => .ite h1.setTdi.answer h1.answer

theorem RunsKeeping.execGetDeviceInterfaceReport (h : Keeps s t) {id part} :
    RunsKeeping s (execGetDeviceInterfaceReport id part t) :=
  .roleReq h fun h1 => h1.answer

theorem RunsKeeping.execStartInterface (h : Keeps s t) {id part} : RunsKeeping s (execStartInterface id part t) :=
  .roleReq h fun h1 => .ite h1.setTdi.answer h1.answer

theorem RunsKeeping.execStopInterface (h : Keeps s t) {id part} : RunsKeeping s (execStopInterface id part t) :=
  .roleReq h fun h1 => (h1.setTdi.foldl fun h2 => h2.ctxDrain).andThen fun h3 => .ite h3 h3.frame.setTdi.answer

/-! ### Resets and start-up -/

theorem Keeps.loadOptions (h : Keeps s t) : Keeps s t.loadOptions :=
  (h.setHeron.setDesign.setBit.setFld.foldl fun h1 => h1.setFld).andThen fun h2 => (Keeps.ite h2 h2.logDue).foldl fun h3 =>
    h3.logDue

theorem Keeps.sedgeBlock (h : Keeps s t) : Keeps s t.sedgeBlock := by
  unfold State.sedgeBlock
  extract_lets s1 k s2 _ s3
  have h1 : Keeps s s2 := h.streamsStop.setSedge
  have h2 : Keeps s s3 := h1.setSedge
  exact .ite (.ite h2.toApproved.raise h2) h1

theorem Keeps.blockReset (h : Keeps s t) : Keeps s t.blockReset := by
  unfold State.blockReset
  extract_lets t'
  have ht : Keeps s t' := ⟨h.pending, fun _ => rfl⟩
  exact ht.setBit.sedgeBlock

theorem Keeps.coldReset (h : Keeps s t) : Keeps s t.coldReset := ⟨h.pending, fun _ => rfl⟩

theorem Keeps.blockSource (h : Keeps s t) {code} : Keeps s (t.blockSource code) :=
  h.frame.bump.andThen fun h1 => .ite h1.logDue (.ite h1 h1.blockReset.frame)

theorem Keeps.coldSource (h : Keeps s t) {code} : Keeps s (t.coldSource code) :=
  .ite ((Keeps.ite h h.blockReset.bump).frame) h.coldReset.frame

theorem RunsKeeping.execPowerOn (h : Keeps s t) : RunsKeeping s (execPowerOn t) :=
  .done h.coldSource

theorem RunsKeeping.execBrownOut (h : Keeps s t) : RunsKeeping s (execBrownOut t) :=
  .done h.coldSource

theorem RunsKeeping.execPinReset (h : Keeps s t) : RunsKeeping s (execPinReset t) :=
  .done h.blockSource

theorem RunsKeeping.execNvPulseEnd (h : Keeps s t) : RunsKeeping s (execNvPulseEnd t) :=
  .when h fun h1 => .ite h1.coldReset.frame h1.frame

theorem RunsKeeping.execClockFailure (h : Keeps s t) {clock} : RunsKeeping s (execClockFailure clock t) := by
  unfold Machine.execClockFailure
  extract_lets s1 _ s2
  have h1 : Keeps s s2 := h.bump.frame
  refine .done ?_
  split
  · exact h1.coldSource
  · exact .ite h1 (.ite h1.lodeRetrain h1.modLode)
  · exact .ite h1 h1.linkEvent
  · exact h1.blockSource

theorem RunsKeeping.execLockUp (h : Keeps s t) : RunsKeeping s (execLockUp t) :=
  .done h.blockSource

theorem Keeps.startCold (h : Keeps s t) {testen} : Keeps s (t.startCold testen) :=
  h.setSump.loadOptions.frame.setFld.logRegs

theorem Keeps.startHbm (h : Keeps s t) {lanes lost k} : Keeps s (t.startHbm lanes lost k) := by
  unfold State.startHbm
  dsimp only
  exact (h.foldl fun h1 => h1.setCfg).andThen fun h2 => by
    split
    · exact h2.setHctl
    · exact h2.setHctl.setCfg.raise

theorem Keeps.failCheck (h : Keeps s t) {c} : Keeps s (t.failCheck c) :=
  h.modCore.setBit.setBit.setBit.bump

theorem Keeps.startCores (h : Keeps s t) {r} : Keeps s (t.startCores r) :=
  h.foldl fun h1 => h1.modCore

theorem Keeps.startBlock (h : Keeps s t) {failed mods lanes lost} : Keeps s (t.startBlock failed mods lanes lost) :=
  (h.logDue.frame.foldl fun h1 => h1.startHbm).andThen fun h2 =>
    .ite h2 (((((h2.foldl fun h3 => h3.failCheck).foldl fun h4 => h4.startCores).writeShares).foldl fun h5 =>
    h5.setLode.setFld).frame)

theorem RunsKeeping.execStartUp (h : Keeps s t) {testen failed mods lanes lost} :
    RunsKeeping s (execStartUp testen failed mods lanes lost t) :=
  .when h fun h1 => (Keeps.ite h1.frame h1).andThen fun h2 => (Keeps.ite h2.startCold h2).startBlock

/-! ### The register file's fields -/

theorem Keeps.logSelect (h : Keeps s t) {w} : Keeps s (t.logSelect w) :=
  h.setCfg.foldl fun h1 => h1.setCfg

theorem Keeps.lwlPut (h : Keeps s t) {n w v} : Keeps s (t.lwlPut n w v) := by
  unfold State.lwlPut
  dsimp only
  split <;> exact h.frame

theorem Keeps.regSet (h : Keeps s t) {hit a w} : Keeps s (t.regSet hit a w) := by
  unfold State.regSet
  dsimp only
  split
  · exact .ite h.roundSet h.setCfg
  · exact .ite h.lodeApply h.setCfg
  · exact .ite h.setSump.setCfg h.setCfg
  · exact .ite h.logSelect h.setCfg
  · exact .ite h.lwlPut h.setCfg
  · exact .ite h.setBucket h.setCfg
  · exact h.setCfg.andThen fun h1 => .ite h1.frame h1
  · exact h.setCfg

theorem Keeps.parityNote (h : Keeps s t) {a} : Keeps s (t.parityNote a) :=
  h.setCfg.bump

theorem Keeps.parityReport (h : Keeps s t) {hit a} : Keeps s (t.parityReport hit a) :=
  h.parityNote.raise

theorem Keeps.parityForced (h : Keeps s t) {hit a} : Keeps s (t.parityForced hit a) :=
  h.parityNote.andThen fun h1 => .ite h1 h1.frame

theorem Keeps.parityFlip (h : Keeps s t) {hit a bits} : Keeps s (t.parityFlip hit a bits) :=
  h.regSet.andThen fun h1 => .ite h1.frame h1

theorem Keeps.parityCheck (h : Keeps s t) {a upset} : Keeps s (t.parityCheck a upset) := by
  unfold State.parityCheck
  dsimp only
  split
  · exact h
  · exact (Keeps.ite h h.parityFlip).andThen fun h1 => .ite h1.parityReport h1

theorem Keeps.parityRestore (h : Keeps s t) {a shadow} : Keeps s (t.parityRestore a shadow) := by
  unfold State.parityRestore
  dsimp only
  split
  · exact h
  · exact h.frame.regSet

theorem RunsKeeping.execParitySweep (h : Keeps s t) {upsets} : RunsKeeping s (execParitySweep upsets t) :=
  .done ((h.foldl fun h1 => h1.parityCheck).foldl fun h2 => h2.parityCheck)

theorem RunsKeeping.execParityRestore (h : Keeps s t) {addr} : RunsKeeping s (execParityRestore addr t) := by
  unfold Machine.execParityRestore
  split
  · exact .done h
  · exact .when h fun h1 => h1.parityRestore

/-! ### Forced faults -/

theorem Keeps.poisonCore (h : Keeps s t) {c} : Keeps s (t.poisonCore c) := by
  unfold State.poisonCore
  split
  · exact h.suspend
  · exact h

theorem Keeps.forceEngine (h : Keeps s t) {c e} : Keeps s (t.forceEngine c e) := by
  unfold State.forceEngine
  dsimp only
  exact .since (fun h1 => h1.poisonCore) (by
    split
    · split
      · exact h.setCore
      · exact h
    · exact h)

theorem Keeps.forceCache (h : Keeps s t) {c atype addr double} : Keeps s (t.forceCache c atype addr double) := by
  unfold State.forceCache
  dsimp only
  split
  · exact h
  · split
    · split
      · split
        · exact .ite h.ccErr h.bump.ccReplace
        · exact h
      · exact h.ccErr
    · exact h

theorem Keeps.forceSlice (h : Keeps s t) {line double} : Keeps s (t.forceSlice line double) := by
  unfold State.forceSlice
  split
  · exact .ite h.bump.sPut.sEvict h.bump
  · exact h

theorem Keeps.forceHbm (h : Keeps s t) {k kind atype addr} : Keeps s (t.forceHbm k kind atype addr) := by
  unfold State.forceHbm
  dsimp only
  split
  · exact .ite h.hbmCe h
  · exact .ite h.hbmUe h
  · exact .ite h.bump.setCfg h
  · exact h.setHctl
  · exact h.foldl fun h1 => h1.suspend.andThen fun h2 => .ite h2.modCtx h2
  · exact h

theorem Keeps.forceRegion (h : Keeps s t) {r unit kind atype addr} : Keeps s (t.forceRegion r unit kind atype addr) := by
  unfold State.forceRegion
  dsimp only
  split
  · exact .ite h.forceSlice h
  · exact .ite h.forceSlice h
  · exact .ite h.pegError h
  · exact .ite h.pegError h
  · exact h.bump
  · exact h.bump.fenceTrigger
  · exact h.bump
  · exact h.fenceTrigger
  · exact .ite h.drawn.quarantine h
  · exact h.bump
  · exact h.bump
  · exact .ite h.connBreak h
  · exact h.forceHbm

theorem Keeps.forceSedge (h : Keeps s t) {kind} : Keeps s (t.forceSedge kind) := by
  unfold State.forceSedge
  dsimp only
  exact h.drawn.andThen fun h1 => by
    split
    · exact h1.sedgeError
    · exact h1.sedgeError
    · split
      · exact h1.setSedge
      · exact h1.drawn.sedgeError.setSedge
      · exact h1.drawn.sedgeError.setSedge
    · exact h.bump
    · exact .ite h1.setStream.streamLost h1
    · exact h

theorem Keeps.forceDevice (h : Keeps s t) {unit kind atype addr} : Keeps s (t.forceDevice unit kind atype addr) := by
  unfold State.forceDevice
  dsimp only
  split
  · exact .ite h.dcParity h
  · exact h.bump
  · exact .ite h.abandon h
  · exact .ite h.linkEvent h
  · exact .ite h.setRound.bump h
  · exact .ite h.setRound.unalignedEnd h
  · exact h.bump
  · exact .ite h.setRound h
  · exact h.setHeron.logRegs.send
  · exact .ite h.bitternCore h
  · exact .ite h.miscompare h
  · exact h.forceSedge

theorem Keeps.forceCore (h : Keeps s t) {c kind atype addr} : Keeps s (t.forceCore c kind atype addr) := by
  unfold State.forceCore
  split
  · exact .ite h.storeErr h
  · exact .ite h.storeErr h
  · exact h.forceCache
  · exact h.forceCache
  · exact h.fenceTrigger
  · exact h.drawn.seqFault
  · exact h.poisonCore

theorem Keeps.forceEffect (h : Keeps s t) {src kind atype addr} : Keeps s (t.forceEffect src kind atype addr) := by
  unfold State.forceEffect
  dsimp only
  split
  · split
    · exact .ite h.parityForced h
    · exact h
  · split
    · exact h.forceEngine
    · exact h.forceCore
    · exact h.forceRegion
    · exact h.forceDevice

theorem Keeps.forceFault (h : Keeps s t) {src kind atype addr} : Keeps s (t.forceFault src kind atype addr) :=
  h.forceEffect.setSump.report

theorem Keeps.forceGo (h : Keeps s t) : Keeps s t.forceGo :=
  .ite h.bump (.ite h.setSump.bump.forceFault h.setSump)

/-! ### Accesses to registers -/

theorem Keeps.accErr (h : Keeps s t) {kind a} : Keeps s (t.accErr kind a) :=
  h.setCfg

theorem Keeps.setLatch (h : Keeps s t) {k l} : Keeps s (t.setLatch k l) :=
  h.frame

theorem Keeps.guardFail (h : Keeps s t) {k a} : Keeps s (t.guardFail k a) :=
  h.setLatch.bump.accErr

theorem Keeps.guardLoad (h : Keeps s t) {p a w} : Keeps s (t.guardLoad p a w) := by
  unfold State.guardLoad
  dsimp only
  exact .since (fun h1 => h1.setLatch) (by
    split
    · exact .ite h.guardFail h
    · exact h)

theorem Keeps.guardPass (h : Keeps s t) {hit a v} : Keeps s (t.guardPass hit a v) := by
  unfold State.guardPass
  dsimp only
  split
  · exact h.roundWrite
  · exact .ite h.lodeCtl h.lodeRelease
  · exact .ite h.blockSource h
  · exact .ite h.setCfg (.ite h.drillSet (.ite h.setCfg h.bump))
  · exact h

theorem Keeps.guardJudge (h : Keeps s t) {p hit a w} : Keeps s (t.guardJudge p hit a w) := by
  unfold State.guardJudge
  dsimp only
  split
  · exact .ite h.setLatch.guardPass h.guardFail
  · exact h.guardFail

theorem Keeps.fieldWrite (h : Keeps s t) {p hit a m w} : Keeps s (t.fieldWrite p hit a m w) := by
  unfold State.fieldWrite
  dsimp only
  exact h.regSet.andThen fun h1 => by
    split
    · exact .ite h h1
    · exact .ite h h1
    · exact .ite h.setCfg (.ite (.ite h (.ite h1 h1.dcOpStart)) h1)
    · exact .ite (.ite h1.frame h) h1
    · exact h1

theorem Keeps.plainWrite (h : Keeps s t) {p hit a w} : Keeps s (t.plainWrite p hit a w) :=
  .ite h.sumpAck (.ite (.ite h.forceGo h) (.ite h.bump (.ite h.snapSlot (.ite h.setCfg (.ite h h.frame.fieldWrite)))))

theorem Keeps.hostDenied (h : Keeps s t) {a} : Keeps s (t.hostDenied a) :=
  h.bump.accErr

theorem Keeps.offAccess (h : Keeps s t) {a} : Keeps s (t.offAccess a) :=
  h.bump.accErr

theorem Keeps.regWrite (h : Keeps s t) {p a w} : Keeps s (t.regWrite p a w) := by
  unfold State.regWrite
  split
  · exact h.offAccess
  · split
    · exact .ite h.hostDenied (.ite h.guardLoad h.plainWrite)
    · split
      · exact .ite h.hostDenied h.guardJudge
      · exact h

theorem Keeps.readWord (h : Keeps s t) {p a upset} : Keeps s (t.readWord p a upset).2 := by
  unfold State.readWord
  dsimp only
  split
  · exact h.offAccess
  · exact h.parityCheck.andThen fun h1 => by
      split
      · exact h1
      · split
        · split
          · exact h1
          · exact .ite h1.drawn h1
        · exact h1.frame

theorem Keeps.bar0Write (h : Keeps s t) {o w stream} : Keeps s (t.bar0Write o w stream) :=
  .ite (.ite h.sqDb h) (.ite (.ite h.cqDb h) (.ite (.ite h h.frame) (.ite (.ite h.mboxGo h) h)))

theorem Keeps.bar4Read (h : Keeps s t) {o} : Keeps s (t.bar4Read o).2 :=
  .iteSnd h.drawn (.iteSnd h (.iteSnd h h))

theorem Keeps.bar4Write (h : Keeps s t) {o w} : Keeps s (t.bar4Write o w) :=
  .ite h.frame.flushIrqs h

theorem Keeps.badAccess (h : Keeps s t) {p a write} : Keeps s (t.badAccess p a write) :=
  .ite h ((Keeps.ite h.bump.accErr h).andThen fun h1 => .ite h1.confRaise h1)

theorem Keeps.barWrite (h : Keeps s t) {p a w stream} : Keeps s (t.barWrite p a w stream) :=
  .ite h.regWrite (.ite h (.ite h.bar4Write h.bar0Write))

theorem Keeps.barRead (h : Keeps s t) {p a upset} : Keeps s (t.barRead p a upset) :=
  (Keeps.iteSnd h.readWord (.iteSnd h (.iteSnd h.bar4Read h))).send

theorem RunsKeeping.execRegisterWrite (h : Keeps s t) {path addr data stream} :
    RunsKeeping s (execRegisterWrite path addr data stream t) := by
  unfold Machine.execRegisterWrite
  extract_lets a
  refine .when h fun h1 => ?_
  exact .ite (h1.foldl fun h2 => h2.barWrite) h1.badAccess

theorem RunsKeeping.execCaptureRead (h : Keeps s t) {path addr bytes upset} :
    RunsKeeping s (execCaptureRead path addr bytes upset t) := by
  unfold Machine.execCaptureRead
  extract_lets a
  refine .when h fun h1 => ?_
  exact .ite (h1.foldl fun h2 => h2.barRead) h1.badAccess

theorem RunsKeeping.execGuardLatchWrite (h : Keeps s t) {path addr value} :
    RunsKeeping s (execGuardLatchWrite path addr value t) :=
  .when h fun h1 => h1.regWrite

theorem RunsKeeping.execGuardWindowExpiry (h : Keeps s t) {path slot} :
    RunsKeeping s (execGuardWindowExpiry path slot t) := by
  unfold Machine.execGuardWindowExpiry
  dsimp only
  split
  · exact .done h.guardFail
  · exact .done h

theorem RunsKeeping.execRoundCtl (h : Keeps s t) {path comp} : RunsKeeping s (execRoundCtl path comp t) :=
  .when h fun h1 => h1.regWrite

theorem RunsKeeping.execSoftwareReset (h : Keeps s t) {path} : RunsKeeping s (execSoftwareReset path t) :=
  .when h fun h1 => h1.regWrite.regWrite

theorem RunsKeeping.execSnap (h : Keeps s t) {path slot} : RunsKeeping s (execSnap path slot t) :=
  .when h fun h1 => h1.regWrite

theorem RunsKeeping.execArithFlagsWrite (h : Keeps s t) {path core engine value} :
    RunsKeeping s (execArithFlagsWrite path core engine value t) :=
  .when h fun h1 => h1.regWrite

theorem RunsKeeping.execTrcRdWrite (h : Keeps s t) {path region value} :
    RunsKeeping s (execTrcRdWrite path region value t) :=
  .when h fun h1 => h1.regWrite

theorem RunsKeeping.execForceGo (h : Keeps s t) {path} : RunsKeeping s (execForceGo path t) :=
  .when h fun h1 => h1.regWrite

/-! ### The debug port -/

theorem Keeps.tapIr (h : Keeps s t) {ir} : Keeps s (t.tapIr ir) :=
  h.frame

theorem Keeps.tapBypass (h : Keeps s t) : Keeps s t.tapBypass :=
  h.frame

theorem Keeps.tapOpen (h : Keeps s t) {ir f} (hf : ∀ {u}, Keeps s u → Keeps s (f u)) : Keeps s (t.tapOpen ir f) :=
  .ite (hf h.tapIr) h.setSedge.tapBypass

theorem Keeps.dbgAccess (h : Keeps s t) {dpa write data} : Keeps s (t.dbgAccess dpa write data).2 := by
  unfold State.dbgAccess
  extract_lets a line d
  have hd : Keeps s d.2 := h.ncRead
  have hm : Keeps s (t.memHole .bittern none dpa false) := h.memHole
  exact .iteSnd (.iteSnd h.readWord (.iteSnd h h.regWrite))
    (.iteSnd (.iteSnd h.ncWrite (.iteSnd hd.drawn hd)) (.iteSnd h hm))

theorem RunsKeeping.execExtest (h : Keeps s t) {data} : RunsKeeping s (execExtest data t) :=
  .done (h.tapOpen (fun h1 => h1.frame))

theorem RunsKeeping.execIdcode (h : Keeps s t) : RunsKeeping s (execIdcode t) :=
  .done h.tapIr.send

theorem RunsKeeping.execSamplePreload (h : Keeps s t) {data} : RunsKeeping s (execSamplePreload data t) :=
  .done h.tapIr.frame

theorem RunsKeeping.execDbgStatus (h : Keeps s t) : RunsKeeping s (execDbgStatus t) :=
  .done h.tapIr.send

theorem RunsKeeping.execDbgUnlock (h : Keeps s t) {bit} : RunsKeeping s (execDbgUnlock bit t) :=
  .done (.ite (h.tapIr.andThen fun h1 => .ite h1.setSedge.leaveApproved h1) h.tapBypass)

theorem RunsKeeping.execDbgReq (h : Keeps s t) {bit} : RunsKeeping s (execDbgReq bit t) :=
  .done (h.tapOpen (fun h1 => .ite h1.blockSource h1))

theorem RunsKeeping.execDbgMem (h : Keeps s t) {dpa write data} : RunsKeeping s (execDbgMem dpa write data t) :=
  .when h fun h1 => h1.tapOpen (fun h2 => h2.dbgAccess.send)

theorem RunsKeeping.execBypass (h : Keeps s t) : RunsKeeping s (execBypass t) :=
  .done h.tapBypass

theorem RunsKeeping.execTapReset (h : Keeps s t) : RunsKeeping s (execTapReset t) :=
  .done h.tapIr

/-! ### Every command -/

/-- Whatever the command, `exec` runs it into a next state that keeps these of `s`: one case for each arm of the dispatch. -/
theorem RunsKeeping.exec (h : Keeps s t) (c : Instr) : RunsKeeping s (exec c t) := by
  cases c with
  | roundMark => exact .execRoundMark h
  | roundBoundary => exact .execRoundBoundary h
  | missingMark => exact .execMissingMark h
  | holdoverLimit => exact .execHoldoverLimit h
  | standbyTakeover => exact .execStandbyTakeover h
  | delayExchange => exact .execDelayExchange h
  | delayReq => exact .execDelayReq h
  | delayRsp => exact .execDelayRsp h
  | delayRspTimeout => exact .execDelayRspTimeout h
  | referenceWindow => exact .execReferenceWindow h
  | ppsEdge => exact .execPpsEdge h
  | roundCtl => exact .execRoundCtl h
  | arithFlagsWrite => exact .execArithFlagsWrite h
  | nop => exact .execNop h
  | halt => exact .execHalt h
  | tfence => exact .execTfence h
  | loop => exact .execLoop h
  | endloop => exact .execEndloop h
  | call => exact .execCall h
  | ret => exact .execRet h
  | mm => exact .execMm h
  | vec => exact .execVec h
  | tu => exact .execTu h
  | stageIn => exact .execStageIn h
  | stageOut => exact .execStageOut h
  | gather => exact .execGather h
  | scatter => exact .execScatter h
  | copyLocal => exact .execCopyLocal h
  | indexLaneFault => exact .execIndexLaneFault h
  | enq => exact .execEnq h
  | pwait => exact .execPwait h
  | psig => exact .execPsig h
  | parm => exact .execParm h
  | preset => exact .execPreset h
  | rwait => exact .execRwait h
  | deadline => exact .execDeadline h
  | phase => exact .execPhase h
  | tmark => exact .execTmark h
  | engineTrickStart => exact .execEngineTrickStart h
  | trickComplete => exact .execTrickComplete h
  | rowCapture => exact .execRowCapture h
  | halted => exact .execHalted h
  | preemptionBoundary => exact .execPreemptionBoundary h
  | clockStopEntry => exact .execClockStopEntry h
  | clockStopExit => exact .execClockStopExit h
  | coreInitDone => exact .execCoreInitDone h
  | correctingWriteBack => exact .execCorrectingWriteBack h
  | rowRemap => exact .execRowRemap h
  | coreStoreScrub => exact .execCoreStoreScrub h
  | pegOperations => exact .execPegOperations h
  | pegReadyWake => exact .execPegReadyWake h
  | hbmRequest => exact .execHbmRequest h
  | hbmRefresh stack => exact .execHbmRefresh (stack := stack) h
  | laneRepair => exact .execLaneRepair h
  | laneRepairDone => exact .execLaneRepairDone h
  | patrolScrub => exact .execPatrolScrub h
  | sppr => exact .execSppr h
  | spprDone => exact .execSpprDone h
  | stackTemperatureRead => exact .execStackTemperatureRead h
  | regulatorPeriod => exact .execRegulatorPeriod h
  | pageWalk => exact .execPageWalk h
  | translationFault => exact .execTranslationFault h
  | invalidationMark => exact .execInvalidationMark h
  | invalidationDrain => exact .execInvalidationDrain h
  | dcRead => exact .execDcRead h
  | dcWrite => exact .execDcWrite h
  | zeroLine => exact .execZeroLine h
  | fillChunk => exact .execFillChunk h
  | globalObservation => exact .execGlobalObservation h
  | cleanEvictDone => exact .execCleanEvictDone h
  | hostSnpinv => exact .execHostSnpinv h
  | hostSnpdata => exact .execHostSnpdata h
  | hostSnpcur => exact .execHostSnpcur h
  | dcInitSweep => exact .execDcInitSweep h
  | rds => exact .execRds h
  | rdo => exact .execRdo h
  | ownnd => exact .execOwnnd h
  | upg => exact .execUpg h
  | dirtyn => exact .execDirtyn h
  | evc => exact .execEvc h
  | wbm => exact .execWbm h
  | ncrd => exact .execNcrd h
  | ncwr => exact .execNcwr h
  | ncat => exact .execNcat h
  | snpinv => exact .execSnpinv h
  | snpshr => exact .execSnpshr h
  | snpcur => exact .execSnpcur h
  | grant => exact .execGrant h
  | coherenceAck => exact .execCoherenceAck h
  | holdExpiry => exact .execHoldExpiry h
  | snoopTimeout => exact .execSnoopTimeout h
  | reclaimWalkEnd => exact .execReclaimWalkEnd h
  | listAccept => exact .execListAccept h
  | listStart => exact .execListStart h
  | nopDescriptor => exact .execNopDescriptor h
  | fenceDescriptor => exact .execFenceDescriptor h
  | copy => exact .execCopy h
  | zero => exact .execZero h
  | inline => exact .execInline h
  | atomic => exact .execAtomic h
  | convert => exact .execConvert h
  | siltLEnc => exact .execSiltLEnc h
  | siltLDec => exact .execSiltLDec h
  | siltZEnc => exact .execSiltZEnc h
  | siltZDec => exact .execSiltZDec h
  | siltQEnc => exact .execSiltQEnc h
  | siltQDec => exact .execSiltQDec h
  | descriptorComplete => exact .execDescriptorComplete h
  | probeBurst => exact .execProbeBurst h
  | lightDetect => exact .execLightDetect h
  | trainTimeout => exact .execTrainTimeout h
  | trainInfo => exact .execTrainInfo h
  | auth => exact .execAuth h
  | keysInstalled => exact .execKeysInstalled h
  | authTimeout => exact .execAuthTimeout h
  | dataBlock => exact .execDataBlock h
  | controlBlock => exact .execControlBlock h
  | trainingBlock => exact .execTrainingBlock h
  | blockBoundary => exact .execBlockBoundary h
  | widthReq => exact .execWidthReq h
  | keySwitch => exact .execKeySwitch h
  | quarantineNotice => exact .execQuarantineNotice h
  | markerSet => exact .execMarkerSet h
  | nakTimeout => exact .execNakTimeout h
  | replayTimeout => exact .execReplayTimeout h
  | laneLockLoss => exact .execLaneLockLoss h
  | laneDegraded => exact .execLaneDegraded h
  | laserMonitorLow => exact .execLaserMonitorLow h
  | laneRetry => exact .execLaneRetry h
  | widthReqTimeout => exact .execWidthReqTimeout h
  | headerLoss => exact .execHeaderLoss h
  | quarantineWindow => exact .execQuarantineWindow h
  | quarantineHoldEnd => exact .execQuarantineHoldEnd h
  | lodePowerDown => exact .execLodePowerDown h
  | write => exact .execWrite h
  | readReq => exact .execReadReq h
  | readRsp => exact .execReadRsp h
  | reduce => exact .execReduce h
  | reduceQ => exact .execReduceQ h
  | pegSig => exact .execPegSig h
  | ack => exact .execAck h
  | e2eTimeout => exact .execE2eTimeout h
  | noLodeTimeout => exact .execNoLodeTimeout h
  | txratePeriod => exact .execTxratePeriod h
  | fsend => exact .execFsend h
  | fget => exact .execFget h
  | freduce => exact .execFreduce h
  | freduceQ => exact .execFreduceQ h
  | fsig => exact .execFsig h
  | ffinish => exact .execFfinish h
  | placementWrite => exact .execPlacementWrite h
  | memrd => exact .execMemrd h
  | memrddata => exact .execMemrddata h
  | memrdfwd => exact .execMemrdfwd h
  | memwr => exact .execMemwr h
  | memwrptl => exact .execMemwrptl h
  | memwrfwd => exact .execMemwrfwd h
  | meminv => exact .execMeminv h
  | meminvnt => exact .execMeminvnt h
  | memspecrd line => exact .execMemspecrd (line := line) h
  | unsupportedRequest => exact .execUnsupportedRequest h
  | configRequest => exact .execConfigRequest h
  | decoderCommit => exact .execDecoderCommit h
  | d3hotWrite => exact .execD3hotWrite h
  | hostCompletion => exact .execHostCompletion h
  | completionTimeout => exact .execCompletionTimeout h
  | l1Entry => exact .execL1Entry h
  | vectorUnmask => exact .execVectorUnmask h
  | linkEvent => exact .execLinkEvent h
  | hostLoss => exact .execHostLoss h
  | viralReceived => exact .execViralReceived h
  | linkReturn => exact .execLinkReturn h
  | holdTimeout => exact .execHoldTimeout h
  | sqDb => exact .execSqDb h
  | cqDb => exact .execCqDb h
  | mboxGo => exact .execMboxGo h
  | commandFetch => exact .execCommandFetch h
  | nopCommand => exact .execNopCommand h
  | capQuery => exact .execCapQuery h
  | attach => exact .execAttach h
  | detach => exact .execDetach h
  | ringCreate => exact .execRingCreate h
  | ringDestroy => exact .execRingDestroy h
  | lwlAck => exact .execLwlAck h
  | devIdSet => exact .execDevIdSet h
  | dcClean => exact .execDcClean h
  | dcInvalidate => exact .execDcInvalidate h
  | dcCleanInvalidate => exact .execDcCleanInvalidate h
  | enterMaint => exact .execEnterMaint h
  | leaveMaint => exact .execLeaveMaint h
  | biasSet => exact .execBiasSet h
  | lodeDisable => exact .execLodeDisable h
  | lodeEnable => exact .execLodeEnable h
  | lodeRelease => exact .execLodeRelease h
  | lodeSet => exact .execLodeSet h
  | fwActivate => exact .execFwActivate h
  | partCreate => exact .execPartCreate h
  | partModify => exact .execPartModify h
  | partDestroy => exact .execPartDestroy h
  | ctxCreate => exact .execCtxCreate h
  | ctxDestroy => exact .execCtxDestroy h
  | segMap => exact .execSegMap h
  | segUnmap => exact .execSegUnmap h
  | invalidate => exact .execInvalidate h
  | prefetchXlat => exact .execPrefetchXlat h
  | advise => exact .execAdvise h
  | handLoad => exact .execHandLoad h
  | launch => exact .execLaunch h
  | cancel => exact .execCancel h
  | preempt => exact .execPreempt h
  | preemptSaveDone => exact .execPreemptSaveDone h
  | resume => exact .execResume h
  | resumeRestoreDone => exact .execResumeRestoreDone h
  | queryContext => exact .execQueryContext h
  | queryList => exact .execQueryList h
  | listSubmit => exact .execListSubmit h
  | copyInline => exact .execCopyInline h
  | listCancel => exact .execListCancel h
  | fence => exact .execFence h
  | flistSubmit => exact .execFlistSubmit h
  | pegSignal => exact .execPegSignal h
  | pegArm => exact .execPegArm h
  | pegReset => exact .execPegReset h
  | pegQuery => exact .execPegQuery h
  | connOpen => exact .execConnOpen h
  | connClose => exact .execConnClose h
  | handleReg => exact .execHandleReg h
  | handleRevoke => exact .execHandleRevoke h
  | placeReg => exact .execPlaceReg h
  | placeUnreg => exact .execPlaceUnreg h
  | drainEnd => exact .execDrainEnd h
  | railWindow => exact .execRailWindow h
  | pwrLimit => exact .execPwrLimit h
  | diodeRead => exact .execDiodeRead h
  | thermalControl => exact .execThermalControl h
  | tripSample => exact .execTripSample h
  | pllLock => exact .execPllLock h
  | railRampDone => exact .execRailRampDone h
  | logWrite => exact .execLogWrite h
  | sensorUpdate => exact .execSensorUpdate h
  | designPowerEffecter => exact .execDesignPowerEffecter h
  | logRead => exact .execLogRead h
  | entdaa => exact .execEntdaa h
  | setdasa => exact .execSetdasa h
  | requestUpdate => exact .execRequestUpdate h
  | verifyComplete => exact .execVerifyComplete h
  | applyComplete => exact .execApplyComplete h
  | activateFirmware => exact .execActivateFirmware h
  | firmwareSelfCheck => exact .execFirmwareSelfCheck h
  | heronRestartDone => exact .execHeronRestartDone h
  | heronLockstep => exact .execHeronLockstep h
  | bitternCore => exact .execBitternCore h
  | bitternWatchdog => exact .execBitternWatchdog h
  | heronWatchdog => exact .execHeronWatchdog h
  | regionCollectorMessage => exact .execRegionCollectorMessage h
  | faultMessage => exact .execFaultMessage h
  | fatalLine => exact .execFatalLine h
  | ceHoldExpiry => exact .execCeHoldExpiry h
  | sumpAck => exact .execSumpAck h
  | sumpAckTimeout => exact .execSumpAckTimeout h
  | forceGo => exact .execForceGo h
  | drillEnable => exact .execDrillEnable h
  | coreIsolation => exact .execCoreIsolation h
  | coreFence => exact .execCoreFence h
  | powerOn => exact .execPowerOn h
  | brownOut => exact .execBrownOut h
  | pinReset => exact .execPinReset h
  | softwareReset => exact .execSoftwareReset h
  | clockFailure => exact .execClockFailure h
  | lockUp => exact .execLockUp h
  | nvPulseEnd => exact .execNvPulseEnd h
  | startUp => exact .execStartUp h
  | guardLatchWrite => exact .execGuardLatchWrite h
  | guardWindowExpiry => exact .execGuardWindowExpiry h
  | registerWrite => exact .execRegisterWrite h
  | snap => exact .execSnap h
  | captureRead => exact .execCaptureRead h
  | paritySweep => exact .execParitySweep h
  | parityRestore => exact .execParityRestore h
  | getVersion => exact .execGetVersion h
  | getCapabilities => exact .execGetCapabilities h
  | negotiateAlgorithms => exact .execNegotiateAlgorithms h
  | getDigests => exact .execGetDigests h
  | getCertificate => exact .execGetCertificate h
  | challenge => exact .execChallenge h
  | getMeasurements => exact .execGetMeasurements h
  | kemInit => exact .execKemInit h
  | kemFin => exact .execKemFin h
  | pskExchange => exact .execPskExchange h
  | pskFinish => exact .execPskFinish h
  | endSession => exact .execEndSession h
  | setCertificate => exact .execSetCertificate h
  | getCsr => exact .execGetCsr h
  | setOwner => exact .execSetOwner h
  | zeroiseSession => exact .execZeroiseSession h
  | decommission => exact .execDecommission h
  | debugArm => exact .execDebugArm h
  | debugArmExpiry => exact .execDebugArmExpiry h
  | faultDrillEntry => exact .execFaultDrillEntry h
  | faultDrillExit => exact .execFaultDrillExit h
  | selfTestOnDemand => exact .execSelfTestOnDemand h
  | selftestDone => exact .execSelftestDone h
  | healthTestFailure => exact .execHealthTestFailure h
  | drbgReseed => exact .execDrbgReseed h
  | keyRenewal => exact .execKeyRenewal h
  | ideQuery => exact .execIdeQuery h
  | keyProg => exact .execKeyProg h
  | kSetGo => exact .execKSetGo h
  | kSetStop => exact .execKSetStop h
  | keyRefresh => exact .execKeyRefresh h
  | ideIntegrityFailure => exact .execIdeIntegrityFailure h
  | lockInterface => exact .execLockInterface h
  | getDeviceInterfaceReport => exact .execGetDeviceInterfaceReport h
  | startInterface => exact .execStartInterface h
  | stopInterface => exact .execStopInterface h
  | trcRdWrite => exact .execTrcRdWrite h
  | extest => exact .execExtest h
  | idcode => exact .execIdcode h
  | samplePreload => exact .execSamplePreload h
  | dbgStatus => exact .execDbgStatus h
  | dbgUnlock => exact .execDbgUnlock h
  | dbgReq => exact .execDbgReq h
  | dbgMem => exact .execDbgMem h
  | bypass => exact .execBypass h
  | tapReset => exact .execTapReset h
  | receiveLaneLock => exact .execReceiveLaneLock h
  | lanePass => exact .execLanePass h
  | lodeDomainOn => exact .execLodeDomainOn h
  | connDropWindow => exact .execConnDropWindow h
  | quarantineAgeOut => exact .execQuarantineAgeOut h
  | bitternCoreRejoin => exact .execBitternCoreRejoin h

/-- Settles O57: every arm of the dispatch is `done` or `when` of named updates, and each of these keeps the queue (`Keeps`). That a
command whose event cannot happen completes and changes nothing, and that a step takes its command off the queue before
`exec` sees it, are the model's own choices (log entries 2 and 1). -/
theorem everyCommandCompletes : Obligations.EveryCommandCompletes := by
  intro c s
  obtain ⟨t, ht, hk⟩ := RunsKeeping.exec (Keeps.refl s) c
  exact ⟨t, ht, hk.pending⟩

end Sys2Proof.Machine

namespace Sys2Proof.Machine

/-! ### Marks that arrive at the Round unit (R41 to R43, R47, R50) -/

/-- A lode event takes effect outside the fatal state, in a lode state that it may act in. -/
theorem State.lodeEvent_of {s : State} {l : Nat} {sts : List LodeState} {f : State → State}
    (hf : s.sump.fatal = false) (hl : (s.lode l).state ∈ sts) : s.lodeEvent l sts f = .next (f s) :=
  when_of _ _ _ (by simp [hf, hl])

/-- A mark lost in an uncorrectable block is one bad mark. -/
theorem exec_roundMark_bad {s : State} {l : Fin 16} {a : BitVec 17} (hf : s.sump.fatal = false)
    (hl : (s.lode l).state = .active) (hr : s.round.state ≠ .off) :
    exec (.roundMark l a true) s = .next (s.bump Reg.ROUND_BAD_CNT) := by
  change execRoundMark l a true s = _
  rw [execRoundMark, State.lodeEvent_of hf (by simp [hl])]
  simp [hr]

/-- A mark at the front of the control block leaves it and is taken. -/
theorem exec_roundMark_front {s : State} {l : Fin 16} {a : BitVec 17} {b : Nat} {rest : List (Nat × Nat)}
    (hf : s.sump.fatal = false) (hl : (s.lode l).state = .active) (hr : s.round.state ≠ .off)
    (hb : (s.lode l).inbox = (1, b) :: rest) :
    exec (.roundMark l a false) s
      = .next ((s.setLode l { s.lode l with inbox := rest }).takeMark l (markFields b) a.toNat) := by
  change execRoundMark l a false s = _
  rw [execRoundMark, State.lodeEvent_of hf (by simp [hl])]
  simp [hb, hr, State.modLode]

theorem Mark.wellFormed_eq_false_iff {m : Mark} :
    m.wellFormed = false ↔ m.src = 3 ∨ m.period = 7 ∨ m.zero ≠ 0 ∨ 15 < m.depth := by
  simp only [Mark.wellFormed, Bool.and_eq_false_iff, decide_eq_false_iff_not]
  omega

namespace State

theorem takeMark_malformed {s : State} {l : Nat} {m : Mark} {arrive : Nat} (h : m.wellFormed = false) :
    s.takeMark l m arrive = s.bump Reg.ROUND_BAD_CNT := by
  simp [takeMark, h]

/-- A follower whose counter runs uses a mark of its own domain. -/
theorem takeMark_own_domain {s : State} {l : Nat} {m : Mark} {arrive : Nat} (hw : m.wellFormed = true)
    (he : m.epoch = s.fld Reg.ROUND_EPOCH 15 0) (hm : m.master = s.fld Reg.ROUND_MASTER 17 0)
    (hs : s.round.state ≠ .master) (hr : s.round.run = true) : s.takeMark l m arrive = s.useMark l m arrive := by
  simp [takeMark, hw, he, hm, hs, hr]

/-- A mark within 16 ns is a good one (R50): the depth it gave stays, and no counter moves. -/
theorem steer_within {s : State} {l : Nat} {m : Mark} {arrive : Nat}
    (hlo : -256 ≤ (s.localTime arrive : Int) - s.partnerTime l m)
    (hhi : (s.localTime arrive : Int) - s.partnerTime l m ≤ 256) :
    (s.steer l m arrive).round.gotGood = true ∧ (s.steer l m arrive).round.depth = s.round.depth
      ∧ ∀ a, (s.steer l m arrive).ctr a = s.ctr a := by
  unfold steer
  extract_lets now due off u late r lock r'
  rw [if_neg (show ¬ off < -256 by omega), if_neg (show ¬ 256 < off by omega)]
  split
  · exact ⟨rfl, rfl, fun _ => rfl⟩
  · exact ⟨rfl, rfl, fun _ => rfl⟩

/-- A mark on the lode in use gives the depth; within 16 ns over a good mean delay it is a good mark, and
moves no counter. -/
theorem useMark_within {s : State} {l : Nat} {m : Mark} {arrive : Nat} (hl : l = s.round.act) (hr : s.round.run = true)
    (hd : s.delayGood l = true) (hlo : -256 ≤ (s.localTime arrive : Int) - s.partnerTime l m)
    (hhi : (s.localTime arrive : Int) - s.partnerTime l m ≤ 256) :
    (s.useMark l m arrive).round.gotGood = true ∧ (s.useMark l m arrive).round.depth = m.depth + 1
      ∧ ∀ a, (s.useMark l m arrive).ctr a = s.ctr a := by
  unfold useMark
  extract_lets r u
  have hr' : ¬ (!u.round.run) = true := by simp [u, r, hr]
  rw [if_pos hl, if_neg hr', if_pos (show u.delayGood l = true from hd)]
  exact u.steer_within hlo hhi

/-- The same of a mark that `takeMark` has yet to test. -/
theorem takeMark_within {s : State} {l : Nat} {m : Mark} {arrive : Nat} (hw : m.wellFormed = true)
    (he : m.epoch = s.fld Reg.ROUND_EPOCH 15 0) (hm : m.master = s.fld Reg.ROUND_MASTER 17 0)
    (hs : s.round.state ≠ .master) (hl : l = s.round.act) (hr : s.round.run = true) (hd : s.delayGood l = true)
    (hlo : -256 ≤ (s.localTime arrive : Int) - s.partnerTime l m)
    (hhi : (s.localTime arrive : Int) - s.partnerTime l m ≤ 256) :
    (s.takeMark l m arrive).round.gotGood = true ∧ (s.takeMark l m arrive).round.depth = m.depth + 1
      ∧ ∀ a, (s.takeMark l m arrive).ctr a = s.ctr a := by
  rw [takeMark_own_domain hw he hm hs hr]
  exact useMark_within hl hr hd hlo hhi

end State

/-- Settles O2: a malformed mark ends at the first test of `takeMark`; one of depth 15 passes it and
steers as a good mark. -/
theorem malformedMarkOnlyCounts : Obligations.MalformedMarkOnlyCounts := by
  refine ⟨fun s l a hf hl hr => ⟨exec_roundMark_bad hf hl hr, by simp [Claims.plus]⟩, ?_, ?_⟩
  · intro s l a b rest hf hl hr hb hbad
    rw [exec_roundMark_front hf hl hr hb, State.takeMark_malformed (Mark.wellFormed_eq_false_iff.mpr hbad)]
  · intro s l a b rest hf hl hs hrun hb hw hdepth hepoch hmaster hact hgood hhi hlo
    obtain ⟨hgot, hdep, hctr⟩ := State.takeMark_within (s := s.setLode l { s.lode l with inbox := rest })
      (arrive := a.toNat) hw hepoch hmaster (by simp [hs]) hact hrun hgood hlo hhi
    exact ⟨_, exec_roundMark_front hf hl (by simp [hs]) hb, hdep.trans (congrArg (· + 1) hdepth), hgot, hctr _⟩

end Sys2Proof.Machine

namespace Sys2Proof.Machine

/-!
What a boundary does after its own update of the Round unit: it applies operating points and firmware, starts hands, releases
waits and sends marks, and none of these touches the Round unit but by the phase of a stamped event (log entry 6).
`SameRound s t` says so of two states, with one lemma for each named update below `State.boundary`, in the order of the
model's files.
-/

/-- The Round unit of `t` is that of `s` but for its phase, which stamped events move on. -/
def SameRound (s t : State) : Prop := ∃ p, t.round = { s.round with phase := p }

variable {s t : State}

namespace SameRound

theorem refl (s : State) : SameRound s s := ⟨s.round.phase, rfl⟩

theorem cnt (h : SameRound s t) : t.round.cnt = s.round.cnt := by
  obtain ⟨p, hp⟩ := h
  rw [hp]

/-- The one rule for a record update: every field but the Round unit may change. -/
theorem frame {pending free out sump reg pegs waits pegOps wakes cores ctx vci hl parts trc hbm hbmBad hctl slice useNo
    tokens short thr coh xl dc lists nextList lbytes lodes fab due heron rst sedge tap pins}
    (h : SameRound s t) :
    SameRound s { round := t.round, pending, free, out, sump, reg, pegs, waits, pegOps, wakes, cores, ctx, vci, hl, parts,
                  trc, hbm, hbmBad, hctl, slice, useNo, tokens, short, thr, coh, xl, dc, lists, nextList, lbytes, lodes,
                  fab, due, heron, rst, sedge, tap, pins } :=
  h

/-- Names what holds of an intermediate state that the rest of the update uses more than once. -/
theorem andThen {p : Prop} (h : SameRound s t) (k : SameRound s t → p) : p := k h

/-- `andThen` with the rest of the update first, where the intermediate state is itself a `match`. -/
theorem since {p : Prop} (k : SameRound s t → p) (h : SameRound s t) : p := k h

theorem ite {c : Prop} {_ : Decidable c} {a b : State} (ha : SameRound s a) (hb : SameRound s b) :
    SameRound s (if c then a else b) := by
  split
  · exact ha
  · exact hb

theorem foldl {α : Type} {f : State → α → State} {l : List α} (h : SameRound s t)
    (hf : ∀ {u a}, SameRound s u → SameRound s (f u a)) : SameRound s (l.foldl f t) := by
  induction l generalizing t with
  | nil => exact h
  | cons a l ih => exact ih (hf h)

/-! ### Named operations of the state -/

theorem setCfg (h : SameRound s t) {a w} : SameRound s (t.setCfg a w) := h.frame

theorem setFld (h : SameRound s t) {a hi lo v} : SameRound s (t.setFld a hi lo v) := h.setCfg

theorem setBit (h : SameRound s t) {a i b} : SameRound s (t.setBit a i b) := h.setFld

theorem bumpBy (h : SameRound s t) {a n} : SameRound s (t.bumpBy a n) := h.frame

theorem bump (h : SameRound s t) {a} : SameRound s (t.bump a) := h.bumpBy

theorem bumpIf (h : SameRound s t) {c a} : SameRound s (t.bumpIf c a) := .ite h.bump h

theorem drawn (h : SameRound s t) : SameRound s t.drawn := h.frame

theorem send (h : SameRound s t) {o} : SameRound s (t.send o) := h.frame

/-- The one update below a boundary that touches the Round unit: a stamped event moves the phase on. -/
theorem tick (h : SameRound s t) : SameRound s t.tick := by
  obtain ⟨p, hp⟩ := h
  unfold State.tick
  split
  · exact ⟨_, by rw [hp]⟩
  · exact ⟨p, hp⟩

theorem logDue (h : SameRound s t) {kind sev data} : SameRound s (t.logDue kind sev data) := h.tick.frame

theorem raise (h : SameRound s t) {src kind ctx atype addr syn} : SameRound s (t.raise src kind ctx atype addr syn) :=
  .ite h (.ite h.frame h.frame)

theorem trcPut (h : SameRound s t) {r w} : SameRound s (t.trcPut r w) := (SameRound.ite h.setFld h).bump.frame

theorem trcStore (h : SameRound s t) {r ty core eng data} : SameRound s (t.trcStore r ty core eng data) :=
  h.tick.andThen fun h1 => .ite h1.bump.frame ((SameRound.ite h1 h1.trcPut.frame).trcPut)

theorem trcCore (h : SameRound s t) {core ty eng data} : SameRound s (t.trcCore core ty eng data) := .ite h.trcStore h

theorem trcMark (h : SameRound s t) {core sleep p} : SameRound s (t.trcMark core sleep p) := .ite h.trcStore.bump h

theorem setCore (h : SameRound s t) {c k} : SameRound s (t.setCore c k) := h.frame

theorem modCore (h : SameRound s t) {c f} : SameRound s (t.modCore c f) := h.setCore

theorem setCtx (h : SameRound s t) {c x} : SameRound s (t.setCtx c x) := h.frame

theorem modCtx (h : SameRound s t) {c f} : SameRound s (t.modCtx c f) := h.setCtx

theorem unwait (h : SameRound s t) {w} : SameRound s (t.unwait w) := h.frame

theorem setList (h : SameRound s t) {k l} : SameRound s (t.setList k l) := h.frame

theorem stopLists (h : SameRound s t) {x} : SameRound s (t.stopLists x) := by
  unfold State.stopLists
  refine h.foldl fun h1 => ?_
  split
  · exact h1.setList
  · exact h1.unwait.setList
  · exact h1

/-! ### Records of Bittern's commands (R472 to R499) -/

theorem sendMsi (h : SameRound s t) {v} : SameRound s (t.sendMsi v) := h.send.bump

theorem deliver (h : SameRound s t) {w} : SameRound s (t.deliver w) := by
  unfold State.deliver
  split
  · exact h.send
  · exact h.sendMsi
  · exact h.send
  · exact h.send

theorem hostWrite (h : SameRound s t) {w} : SameRound s (t.hostWrite w) := by
  unfold State.hostWrite
  split
  · exact h.deliver
  · exact h.frame
  · exact h

theorem irq (h : SameRound s t) {v} : SameRound s (t.irq v) := .ite (.ite h h.frame) h.hostWrite

theorem setSq (h : SameRound s t) {q r} : SameRound s (t.setSq q r) := h.frame

theorem setCq (h : SameRound s t) {c r} : SameRound s (t.setCq c r) := h.frame

theorem postRec (h : SameRound s t) {c r} : SameRound s (t.postRec c r) := by
  unfold State.postRec
  split
  · exact h
  · exact h.hostWrite.setCq.andThen fun h1 => .ite h1 h1.irq

theorem postEventRec (h : SameRound s t) {c r} : SameRound s (t.postEventRec c r) := by
  unfold State.postEventRec
  split
  · exact h
  · exact .ite h.setCq.postRec (.ite h.setCq h.setCq)

theorem event (h : SameRound s t) {cls kind detail r0 r1} : SameRound s (t.event cls kind detail r0 r1) := by
  unfold State.event
  split
  · exact h
  · exact h.postEventRec

theorem writeRec (h : SameRound s t) {c r} : SameRound s (t.writeRec c r) := by
  unfold State.writeRec
  split
  · exact h.frame.drawn
  · split
    · split
      · exact h.postEventRec
      · exact h.frame
    · split
      · exact h
      · exact h.setCq.postRec

theorem dropCmd (h : SameRound s t) {c} : SameRound s (t.dropCmd c) := h.frame

theorem finish (h : SameRound s t) {c status detail flags r0 r1} : SameRound s (t.finish c status detail flags r0 r1) :=
  h.writeRec

theorem startCmd (h : SameRound s t) {c} : SameRound s (t.startCmd c) := by
  unfold State.startCmd
  split
  · exact h.finish
  · exact h.frame

theorem ringIdle (h : SameRound s t) {q} : SameRound s (t.ringIdle q) := by
  unfold State.ringIdle
  split
  · exact h
  · split
    · exact h
    · split
      · exact h.setSq.startCmd
      · split
        · exact h
        · exact .since (fun h1 => h1.frame.dropCmd.finish) (by
            split
            · exact .ite h.setCq h
            · exact h)
      · exact h

theorem complete (h : SameRound s t) {c status detail flags r0 r1} : SameRound s (t.complete c status detail flags r0 r1) :=
  h.dropCmd.finish.ringIdle

theorem running (h : SameRound s t) {c} : SameRound s (t.running c) := h.frame

theorem stopCore (h : SameRound s t) {why c} : SameRound s (t.stopCore why c) := h.modCore

theorem suspend (h : SameRound s t) {x c r0 r1} : SameRound s (t.suspend x c r0 r1) :=
  .ite (((h.setCtx.foldl fun h1 => h1.stopCore).stopLists).event)
    (.ite (h.setCtx.stopLists.andThen fun h1 => .ite h1.event h1) (.ite h.stopLists.event h))

/-! ### The sequencer's rows -/

theorem seqFault (h : SameRound s t) {c reason row} : SameRound s (t.seqFault c reason row) := by
  unfold State.seqFault
  extract_lets k u v w
  have hw : SameRound s w := h.setCfg.setCore.raise
  split
  · exact hw.suspend
  · exact hw

theorem goto (h : SameRound s t) {c target keep} : SameRound s (t.goto c target keep) :=
  .ite h.setCore h.setCore.seqFault

theorem issued (h : SameRound s t) {c} : SameRound s (t.issued c) := by
  unfold State.issued
  extract_lets k u
  have hu : SameRound s u := h.bump
  split
  · exact .ite hu.trcCore hu
  · exact hu

theorem nextRow (h : SameRound s t) {c} : SameRound s (t.nextRow c) := h.goto

theorem callTo (h : SameRound s t) {c target} : SameRound s (t.callTo c target) := h.setCore.goto

theorem wakeClock (h : SameRound s t) {c} : SameRound s (t.wakeClock c) := .ite h.modCore.trcMark h

theorem deadlineEnd (h : SameRound s t) {c fb met} : SameRound s (t.deadlineEnd c fb met) :=
  (SameRound.ite h.trcCore h).andThen fun h1 =>
    .ite h1.issued.bump.nextRow (h1.bump.andThen fun h2 => .ite h2.seqFault h2.issued.callTo)

theorem releaseWait (h : SameRound s t) {c} : SameRound s (t.releaseWait c) := by
  unfold State.releaseWait
  extract_lets u
  have hu : SameRound s u := h.wakeClock
  split
  · exact hu.deadlineEnd
  · exact hu.issued.nextRow
  · exact hu

theorem roundAt (h : SameRound s t) {c} : SameRound s (t.roundAt c) := by
  unfold State.roundAt
  extract_lets k
  split
  · exact h
  · split
    · exact .ite h.releaseWait h
    · exact .ite h.unwait.wakeClock.deadlineEnd h
    · exact h

/-! ### Hands -/

theorem releaseCores (h : SameRound s t) {x} : SameRound s (t.releaseCores x) :=
  h.foldl fun h1 => h1.unwait.modCore.setFld

theorem handEnd (h : SameRound s t) {x status} : SameRound s (t.handEnd x status) := by
  unfold State.handEnd
  extract_lets k flags u v
  have hv : SameRound s v := h.releaseCores.setCtx
  split
  · exact hv.complete
  · exact hv

theorem handDone (h : SameRound s t) {x} : SameRound s (t.handDone x) := by
  unfold State.handDone
  extract_lets k cs u
  have hu : SameRound s u := h.handEnd
  split
  · split
    · exact hu.modCtx.complete
    · exact hu
  · exact h

theorem cancelDone (h : SameRound s t) {x} : SameRound s (t.cancelDone x) := by
  unfold State.cancelDone
  extract_lets k cs due u
  have hu : SameRound s u := by
    unfold u
    split
    · exact h.modCtx.complete
    · exact h
  exact .ite hu.handEnd h

theorem stopHand (h : SameRound s t) {x why} : SameRound s (t.stopHand x why) :=
  h.foldl fun h1 => .ite h1.modCore h1.stopCore

theorem cancelRunning (h : SameRound s t) {x c} : SameRound s (t.cancelRunning x c) :=
  h.running.modCtx.stopHand.cancelDone

theorem goCores (h : SameRound s t) {x} : SameRound s (t.goCores x) := h.foldl fun h1 => h1.modCore

theorem goOn (h : SameRound s t) {x} : SameRound s (t.goOn x) := by
  unfold State.goOn
  extract_lets k u v
  have hu : SameRound s u := h.setCtx.goCores
  have hv : SameRound s v := by
    unfold v
    split
    · exact hu.complete
    · exact hu.event
  split
  · exact hv.cancelRunning
  · exact hv.handDone.foldl fun h1 => h1.suspend

theorem startHand (h : SameRound s t) {x} : SameRound s (t.startHand x) := by
  unfold State.startHand
  extract_lets k
  split
  · split
    · exact .ite h.setCtx.goCores h
    · exact h
  · exact .ite h.goOn h

theorem startHands (h : SameRound s t) : SameRound s t.startHands := h.foldl fun h1 => h1.startHand

/-! ### Temperatures, operating points and firmware -/

theorem clearFault (h : SameRound s t) {x} : SameRound s (t.clearFault x) := h.setBit.setFld.setBit

theorem clearCauses (h : SameRound s t) {x} : SameRound s (t.clearCauses x) := h.clearFault.modCtx

theorem thermalOver (h : SameRound s t) {r} : SameRound s (t.thermalOver r) :=
  h.foldl fun h1 => .ite (h1.setCtx.andThen fun h2 => .ite h2.clearCauses h2) h1

theorem throttleFall (h : SameRound s t) {r} : SameRound s (t.throttleFall r) := by
  unfold State.throttleFall
  extract_lets old now u
  have hu : SameRound s u := h.frame
  exact .ite (.ite hu.thermalOver hu) h

theorem setHeron (h : SameRound s t) {x} : SameRound s (t.setHeron x) := h.frame

theorem setOp (h : SameRound s t) {r o} : SameRound s (t.setOp r o) := h.setHeron

theorem opApply (h : SameRound s t) {r} : SameRound s (t.opApply r) := by
  unfold State.opApply
  extract_lets o
  split
  · exact h
  · exact .ite h.setOp.bump h

theorem setDesign (h : SameRound s t) {w} : SameRound s (t.setDesign w) := h.setHeron.setFld.setFld

theorem opGrant (h : SameRound s t) {r} : SameRound s (t.opGrant r) := h.setOp.bumpIf

theorem opGrants (h : SameRound s t) : SameRound s t.opGrants := .ite (h.foldl fun h1 => h1.opGrant) h

theorem opBoundary (h : SameRound s t) : SameRound s t.opBoundary := by
  unfold State.opBoundary
  extract_lets u v
  have hu : SameRound s u := h.foldl fun h1 => h1.opApply
  have hv : SameRound s v := by
    unfold v
    split
    · exact hu.setDesign
    · exact hu
  exact hv.opGrants

theorem slotState (h : SameRound s t) {i st} : SameRound s (t.slotState i st) := h.setHeron

theorem heronRestart (h : SameRound s t) {cause} : SameRound s (t.heronRestart cause) := h.setHeron.setFld.logDue

theorem sedgeRestart (h : SameRound s t) : SameRound s t.sedgeRestart := .ite h h.frame.raise

theorem swapTo (h : SameRound s t) {slot oldState} : SameRound s (t.swapTo slot oldState) :=
  h.slotState.slotState.frame.setFld.heronRestart.sedgeRestart

theorem fwRecord (h : SameRound s t) {event slot rnd} : SameRound s (t.fwRecord event slot rnd) := h.logDue

theorem fwBoundary (h : SameRound s t) : SameRound s t.fwBoundary := by
  unfold State.fwBoundary
  dsimp only
  split
  · exact h
  · split
    · exact h.setHeron.swapTo.fwRecord.andThen fun h1 => by
        split
        · exact h1.complete
        · exact h1
    · split
      · exact h
      · exact .ite h (.ite h.swapTo.fwRecord.setHeron (.ite h h.setHeron.fwRecord.bump))

/-! ### Copies of counters, and marks -/

theorem snapSlot (h : SameRound s t) {slot} : SameRound s (t.snapSlot slot) := (h.foldl fun h1 => h1.bumpBy.drawn).frame

theorem snapRegion (h : SameRound s t) {r} : SameRound s (t.snapRegion r) := .ite ((h.foldl fun h1 => h1.snapSlot).setBit) h

theorem modLode (h : SameRound s t) {l f} : SameRound s (t.modLode l f) := h.frame

theorem sendMarks (h : SameRound s t) : SameRound s t.sendMarks := h.foldl fun h1 => .ite h1.modLode h1

end SameRound

/-! ### Boundaries and lost marks (R56, R50) -/

namespace State

@[simp] theorem ctr_setRound (s : State) (r : RoundSt) (a : Nat) : (s.setRound r).ctr a = s.ctr a := rfl

@[simp] theorem ctr_raise (s : State) (src kind a : Nat) : (s.raise src kind).ctr a = s.ctr a := by
  simp [ctr]

/-- All that a Round without a good mark can do: it changes the Round unit but for its counter, and where it leaves for
HOLDOVER it is counted and reported. -/
theorem noGoodMark_eq (s : State) : ∃ r : RoundSt,
    (s.noGoodMark = s.setRound r ∨ s.noGoodMark = ((s.setRound r).bump Reg.ROUND_HOLD_CNT).raise (srcDevice 9) 0x500)
      ∧ r.cnt = s.round.cnt := by
  unfold noGoodMark
  dsimp only
  split
  · exact ⟨_, .inl rfl, rfl⟩
  · split
    · exact ⟨_, .inl rfl, rfl⟩
    · split
      · exact ⟨_, .inr rfl, rfl⟩
      · exact ⟨_, .inl rfl, rfl⟩

@[simp] theorem noGoodMark_cnt (s : State) : s.noGoodMark.round.cnt = s.round.cnt := by
  obtain ⟨r, h | h, hr⟩ := s.noGoodMark_eq
  · simp [h, hr]
  · simp [h, hr]

theorem noGoodMark_ctr (s : State) {a : Nat} (ha : a ≠ Reg.ROUND_HOLD_CNT) : s.noGoodMark.ctr a = s.ctr a := by
  obtain ⟨r, h | h, _⟩ := s.noGoodMark_eq
  · simp [h]
  · simp [h, ha]

@[simp] theorem newSettings_cnt (s : State) : s.newSettings.round.cnt = s.round.cnt := by
  unfold newSettings
  dsimp only
  split
  · rfl
  · rfl

/-- R56: of the parts of a boundary, its own update of the Round unit alone moves the counter. -/
theorem boundary_cnt (s : State) : s.boundary.round.cnt = s.round.cnt + 1 := by
  unfold boundary
  extract_lets follower s1 s2 r out s3 s4 s5 s6 s7 s8
  have h1 : s1.round.cnt = s.round.cnt := by
    unfold s1
    split
    · simp
    · rfl
  have h3 : s3.round.cnt = s.round.cnt + 1 := by simp [s3, r, s2, h1]
  have h5 : SameRound s3 s5 := ((SameRound.refl s3).foldl fun h => h.snapRegion).opBoundary.fwBoundary
  have h8 : SameRound s3 s8 := (h5.foldl fun h => h.throttleFall).startHands.foldl fun h => by
    split
    · exact h.roundAt
    · exact h
  exact (SameRound.ite h5 h8.sendMarks).cnt.trans h3

/-- Fewer than 4 Rounds in a row without a good mark are counted, and nothing else. -/
theorem noGoodMark_of_lt {s : State} (h : s.round.noGood < 3) :
    s.noGoodMark = s.setRound { s.round with noGood := s.round.noGood + 1, missed := true } :=
  if_pos (Nat.succ_lt_succ h)

/-- The fourth, in LOCKED and with no backup lode in force, leaves for HOLDOVER with its count and its report. -/
theorem noGoodMark_holdover {s : State} (h : s.round.noGood = 3) (hs : s.round.state = .locked) (hb : s.rctl 4 4 = 0) :
    s.noGoodMark = ((s.setRound
      { s.round with noGood := 4, missed := true, state := .holdover, held := 0, away := 0, lock := 0 }).bump
        Reg.ROUND_HOLD_CNT).raise (srcDevice 9) 0x500 := by
  simp [noGoodMark, h, hs, hb]

/-- UNALIGNED stays while one of the two lodes holds a mean delay (R48). -/
theorem unalignedEnd_of_held {s : State} (h : s.delayHeld s.srcLode = true ∨ s.delayHeld s.bkpLode = true) :
    s.unalignedEnd = s := by
  refine if_neg fun ⟨_, hsrc, hbkp⟩ => ?_
  rcases h with h | h
  · simp [h] at hsrc
  · simp [h] at hbkp

/-! ### Fields of registers -/

/-- A field from bit 0 reads back what was written into it, in its own width. -/
theorem fld_setFld_low (s : State) (a hi v : Nat) (h : hi < 32) : (s.setFld a hi 0 v).fld a hi 0 = v % 2 ^ (hi + 1) := by
  have hdvd : 2 ^ (hi + 1) ∣ 4294967296 := Nat.pow_dvd_pow (n := 32) 2 h
  have hrest : (s.cfg a).toNat - (s.cfg a).toNat % 2 ^ (hi + 1) = 2 ^ (hi + 1) * ((s.cfg a).toNat / 2 ^ (hi + 1)) := by
    have := Nat.div_add_mod (s.cfg a).toNat (2 ^ (hi + 1))
    omega
  simp [fld, bitsOf, putBits, hrest, Nat.mod_mod_of_dvd _ hdvd]

/-- So it does after a write of the whole register. -/
theorem fld_setCfg_low (s : State) (a hi v : Nat) (h : hi < 32) :
    (s.setCfg a (BitVec.ofNat 32 v)).fld a hi 0 = v % 2 ^ (hi + 1) := by
  have hdvd : 2 ^ (hi + 1) ∣ 4294967296 := Nat.pow_dvd_pow (n := 32) 2 h
  simp [fld, bitsOf, Nat.mod_mod_of_dvd _ hdvd]

/-- A field of a register stays while another register is written. -/
theorem fld_setCfg_other (s : State) {a b : Nat} (w : Word) (hi lo : Nat) (h : b ≠ a) :
    (s.setCfg a w).fld b hi lo = s.fld b hi lo := by
  simp [fld, h]

/-- What a new master shows: its own identifier, beside the epoch that was set before. -/
theorem nowMaster_fld_master (s : State) : s.nowMaster.fld Reg.ROUND_MASTER 17 0 = s.devId % 2 ^ 18 :=
  fld_setCfg_low _ _ _ _ (by decide)

theorem nowMaster_fld_epoch (s : State) : s.nowMaster.fld Reg.ROUND_EPOCH 15 0 = s.fld Reg.ROUND_EPOCH 15 0 :=
  fld_setCfg_other _ _ _ _ (by decide)

/-- The identifier stands in another register than the epoch. -/
theorem devId_setFld_epoch (s : State) (hi lo v : Nat) : (s.setFld Reg.ROUND_EPOCH hi lo v).devId = s.devId :=
  fld_setCfg_other _ _ _ _ (by decide)

/-- A report changes neither the register file nor the Round unit, so not what the unit knows of its lodes. -/
theorem delayHeld_raise (s : State) (src kind l : Nat) : (s.raise src kind).delayHeld l = s.delayHeld l := by
  simp [delayHeld, bit, cfg]

theorem rctl_raise (s : State) (src kind hi lo : Nat) : (s.raise src kind).rctl hi lo = s.rctl hi lo := by
  simp [rctl]

end State

/-! ### What the commands do (R35, R48 to R51, R56) -/

theorem exec_roundBoundary {s : State} (h : s.counting = true) : exec .roundBoundary s = .next s.boundary := when_of _ _ _ h

theorem exec_missingMark {s : State} (hf : s.sump.fatal = false) (hc : s.counting = true) (hs : s.round.state ≠ .master)
    (hg : s.round.gotGood = false) (hm : s.round.missed = false) :
    exec .missingMark s = .next (s.bump Reg.ROUND_MISS_CNT).noGoodMark := by
  change execMissingMark s = _
  refine when_of _ _ _ ?_
  simp [hf, hc, hs, hg, hm]

theorem exec_holdoverLimit {s : State} (hs : s.round.state = .holdover) (h0 : s.fld Reg.ROUND_HOLD 23 0 ≠ 0)
    (hl : s.fld Reg.ROUND_HOLD 23 0 ≤ s.round.held) :
    exec .holdoverLimit s
      = .next ((s.setRound { s.round with state := .unaligned }).raise (srcDevice 9) 0x501).unalignedEnd := by
  change execHoldoverLimit s = _
  unfold execHoldoverLimit
  refine when_of _ _ _ ?_
  simp [hs, h0, hl]

theorem exec_standbyTakeover {s : State} (hs : s.round.state = .holdover ∨ s.round.state = .unaligned)
    (hm : s.rctl 3 2 = 2) (h0 : s.fld Reg.ROUND_STANDBY 15 0 ≠ 0)
    (hw : (s.fld Reg.ROUND_STANDBY 17 16 + 1) * s.fld Reg.ROUND_STANDBY 15 0 ≤ s.round.away) :
    exec .standbyTakeover s = .next (s.setFld Reg.ROUND_EPOCH 15 0 (s.fld Reg.ROUND_EPOCH 15 0 + 1)).nowMaster := by
  change execStandbyTakeover s = _
  unfold execStandbyTakeover
  refine when_of _ _ _ ?_
  simp [hs, hm, h0, hw]

/-! ### The clauses of O4 -/

/-- A report of a device unit sets out as it is raised, for no device source is muted. -/
theorem reported_raise (s : State) (u kind : Nat) : Claims.Reported s (s.raise (srcDevice u) kind) (srcDevice u) kind :=
  ⟨_, s.raise_flight _ _ _ _ _ _ (s.mutedSrc_device u), rfl, rfl⟩

theorem roundBoundaryAdvancesTheCounter : Claims.roundBoundaryAdvancesTheCounter :=
  fun s hc => ⟨_, exec_roundBoundary hc, s.boundary_cnt⟩

theorem missingMarksLeadToHoldover : Claims.missingMarksLeadToHoldover := by
  constructor
  · intro s hf hc hs hg hm
    let u := s.bump Reg.ROUND_MISS_CNT
    refine ⟨_, exec_missingMark hf hc hs hg hm, ?_, u.noGoodMark_cnt, fun hlt => ?_, fun h3 hlk hbk => ?_⟩
    · rw [State.noGoodMark_ctr _ (by decide)]
      simp [Claims.plus]
    · rw [State.noGoodMark_of_lt (s := u) hlt]
      exact ⟨rfl, rfl⟩
    · rw [State.noGoodMark_holdover (s := u) h3 hlk hbk]
      exact ⟨by simp, by simp [u, Claims.plus], reported_raise _ _ _⟩
  · intro s hs h0 hl hd
    refine ⟨_, exec_holdoverLimit hs h0 hl, ?_⟩
    rw [State.unalignedEnd_of_held]
    · exact ⟨by simp, by simp, reported_raise _ _ _⟩
    · simp only [State.srcLode, State.bkpLode, State.rctl_raise, State.delayHeld_raise]
      exact hd

theorem standbyTakeoverMakesAMaster : Claims.standbyTakeoverMakesAMaster := by
  intro s hs hm h0 hw
  refine ⟨_, exec_standbyTakeover hs hm h0 hw, rfl, rfl, rfl, ?_, ?_⟩
  · exact (State.nowMaster_fld_epoch _).trans (State.fld_setFld_low _ _ 15 _ (by decide))
  · rw [State.nowMaster_fld_master, State.devId_setFld_epoch]

/-- Settles O4: the boundary by what each of its parts leaves of the Round unit (`SameRound`), lost marks by the branch of
`noGoodMark` that each takes, and the takeover by the two registers that it writes. -/
theorem roundBoundariesAndLostMarks : Obligations.RoundBoundariesAndLostMarks :=
  ⟨roundBoundaryAdvancesTheCounter, missingMarksLeadToHoldover, standbyTakeoverMakesAMaster⟩

end Sys2Proof.Machine

namespace Sys2Proof.Machine

/-!
Number formats (R61 to R87) and fixed-point sums (R108 to R110): values that need no rounding.
-/

/-! ### Two's complement -/

theorem unsigned_signed (w v : Nat) : unsigned w (signed w v) = v % 2 ^ w := by
  unfold unsigned signed
  split
  · rw [← Int.natCast_emod, Int.toNat_natCast, Nat.mod_mod]
  · rw [Int.sub_emod_right, ← Int.natCast_emod, Int.toNat_natCast, Nat.mod_mod]

theorem signed_bounds (w v : Nat) : -2 ^ w ≤ signed (w + 1) v ∧ signed (w + 1) v < 2 ^ w := by
  have hv : v % 2 ^ (w + 1) < 2 ^ (w + 1) := Nat.mod_lt _ (by positivity)
  have hn : 2 ^ (w + 1) = 2 * 2 ^ w := Nat.pow_succ'
  have hc : ((2 ^ w : Nat) : Int) = 2 ^ w := Nat.cast_pow 2 w
  unfold signed
  simp only [Nat.add_sub_cancel]
  split <;> omega

theorem signed_unsigned (w : Nat) {i : Int} (hlo : -2 ^ w ≤ i) (hhi : i < 2 ^ w) :
    signed (w + 1) (unsigned (w + 1) i) = i := by
  have hn : 2 ^ (w + 1) = 2 * 2 ^ w := Nat.pow_succ'
  have hc : ((2 ^ w : Nat) : Int) = 2 ^ w := Nat.cast_pow 2 w
  have hu : (unsigned (w + 1) i : Int) = if 0 ≤ i then i else i + (2 ^ (w + 1) : Nat) := by
    unfold unsigned
    rw [Int.toNat_of_nonneg (Int.emod_nonneg _ (by positivity))]
    split
    · exact Int.emod_eq_of_lt ‹_› (by omega)
    · rw [← Int.add_emod_right, Int.emod_eq_of_lt (by omega) (by omega)]
  have hlt : unsigned (w + 1) i < 2 ^ (w + 1) := by split at hu <;> omega
  unfold signed
  rw [Nat.mod_eq_of_lt hlt, hu]
  simp only [Nat.add_sub_cancel]
  split_ifs at hu ⊢ <;> omega

/-! ### The grid of a floating-point format (R61, R62) -/

namespace Elem

/-- The exponent of a format's subnormal grid. -/
def low (f : Elem) : Int := 1 - (f.bias : Int) - f.frac

/-- The magnitude code of `m * 2^e`, for the `e` of its grid. -/
def gridCode (f : Elem) (m : Nat) (e : Int) : Nat := (e - f.low).toNat * 2 ^ f.frac + m

/-- `m * 2^e` is a finite value of the format, and `e` is the exponent of its grid there: the subnormal grid, or the one on
which the leading bit of `m` is the hidden bit. -/
structure OnGrid (f : Elem) (m : Nat) (e : Int) : Prop where
  small : m < 2 ^ (f.frac + 1)
  low_le : f.low ≤ e
  normal : 2 ^ f.frac ≤ m ∨ e = f.low
  fits : f.gridCode m e ≤ f.maxCode

/-- The multiple of its grid that a magnitude code stands for: the fraction, with the hidden bit when the exponent field is
not 0. -/
def mant (f : Elem) (mag : Nat) : Nat := mag - (mag / 2 ^ f.frac - 1) * 2 ^ f.frac

/-- The exponent of the grid of a magnitude code: exponent fields 0 and 1 share the subnormal grid. -/
def expo (f : Elem) (mag : Nat) : Int := f.low + (mag / 2 ^ f.frac - 1 : Nat)

theorem gridCode_mant_expo (f : Elem) (mag : Nat) : f.gridCode (f.mant mag) (f.expo mag) = mag := by
  have hle : (mag / 2 ^ f.frac - 1) * 2 ^ f.frac ≤ mag :=
    (Nat.mul_le_mul_right _ (Nat.sub_le _ 1)).trans (Nat.div_mul_le_self _ _)
  simp only [gridCode, mant, expo, add_sub_cancel_left, Int.toNat_natCast]
  omega

theorem onGrid_mant_expo {f : Elem} {mag : Nat} (h : mag ≤ f.maxCode) : f.OnGrid (f.mant mag) (f.expo mag) := by
  have hd := Nat.div_add_mod mag (2 ^ f.frac)
  have ht := Nat.mod_lt mag (Nat.two_pow_pos f.frac)
  have hp : 2 ^ (f.frac + 1) = 2 * 2 ^ f.frac := Nat.pow_succ'
  suffices key : f.mant mag < 2 * 2 ^ f.frac ∧ (2 ^ f.frac ≤ f.mant mag ∨ mag / 2 ^ f.frac - 1 = 0) by
    refine ⟨hp ▸ key.1, by simp [expo], ?_, (gridCode_mant_expo f mag).trans_le h⟩
    exact key.2.imp_right fun h0 => by simp [expo, h0]
  unfold mant
  cases hE : mag / 2 ^ f.frac with
  | zero =>
    rw [hE, Nat.mul_zero] at hd
    omega
  | succ n =>
    rw [hE, Nat.mul_succ, Nat.mul_comm] at hd
    simp only [Nat.add_sub_cancel]
    omega

theorem OnGrid.div_gridCode {f : Elem} {m : Nat} {e : Int} (h : f.OnGrid m e) :
    f.gridCode m e / 2 ^ f.frac - 1 = (e - f.low).toNat := by
  obtain ⟨hs, hl, hn, -⟩ := h
  have hp : 2 ^ (f.frac + 1) = 2 * 2 ^ f.frac := Nat.pow_succ'
  have hP := Nat.two_pow_pos f.frac
  rw [gridCode, Nat.add_comm, Nat.add_mul_div_right _ _ hP]
  rcases hn with hn | rfl
  · have : m / 2 ^ f.frac = 1 := (Nat.div_eq_iff hP).2 (by omega)
    omega
  · have : m / 2 ^ f.frac < 2 := Nat.div_lt_of_lt_mul (by omega)
    simp only [sub_self, Int.toNat_zero]
    omega

theorem OnGrid.mant_gridCode {f : Elem} {m : Nat} {e : Int} (h : f.OnGrid m e) : f.mant (f.gridCode m e) = m := by
  rw [mant, h.div_gridCode, gridCode, Nat.add_sub_cancel_left]

theorem OnGrid.expo_gridCode {f : Elem} {m : Nat} {e : Int} (h : f.OnGrid m e) : f.expo (f.gridCode m e) = e := by
  rw [expo, h.div_gridCode, Int.toNat_of_nonneg (Int.sub_nonneg.2 h.low_le), add_sub_cancel]

/-! ### Codes of a floating-point format -/

theorem maxCode_lt {f : Elem} (hf : f ≠ .i8) : f.maxCode < 2 ^ (f.bits - 1) := by
  cases f with
  | i8 => contradiction
  | _ => decide

/-- A finite code by its sign bit and its magnitude (R61). -/
theorem decode_float {f : Elem} (hf : f ≠ .i8) {c : Nat} (hm : c % 2 ^ (f.bits - 1) ≤ f.maxCode) :
    f.decode c = .fin (bitOf c (f.bits - 1)) (f.mant (c % 2 ^ (f.bits - 1))) (f.expo (c % 2 ^ (f.bits - 1))) := by
  unfold Elem.decode
  split
  · contradiction
  · have hd := Nat.div_add_mod (c % 2 ^ (f.bits - 1)) (2 ^ f.frac)
    simp only [if_neg (Nat.not_lt.mpr hm), mant, expo, low]
    cases hE : c % 2 ^ (f.bits - 1) / 2 ^ f.frac with
    | zero =>
      rw [hE, Nat.mul_zero, Nat.zero_add] at hd
      simp [hd]
    | succ n =>
      rw [hE, Nat.mul_succ, Nat.mul_comm] at hd
      simp only [Nat.add_sub_cancel, Nat.succ_ne_zero, if_false, Val.fin.injEq, true_and]
      constructor <;> omega

theorem mag_le_of_decode_fin {f : Elem} (hf : f ≠ .i8) {c : Nat} {neg : Bool} {m : Nat} {e : Int}
    (h : f.decode c = .fin neg m e) : c % 2 ^ (f.bits - 1) ≤ f.maxCode := by
  by_contra hm
  unfold Elem.decode at h
  split at h
  · contradiction
  · simp only [if_pos (Nat.lt_of_not_le hm)] at h
    split at h <;> cases h

theorem mag_add_signBit {f : Elem} {c : Nat} (hc : c < 2 ^ f.bits) :
    c % 2 ^ (f.bits - 1) + signBit f (bitOf c (f.bits - 1)) = c := by
  have hb : 2 ^ f.bits = 2 ^ (f.bits - 1) * 2 := by cases f <;> rfl
  have hd := Nat.mod_add_div c (2 ^ (f.bits - 1))
  have hq : c / 2 ^ (f.bits - 1) < 2 := Nat.div_lt_of_lt_mul (hb ▸ hc)
  unfold signBit bitOf
  interval_cases c / 2 ^ (f.bits - 1) <;> simpa using hd

theorem bitOf_add_signBit {f : Elem} {mag : Nat} (hm : mag < 2 ^ (f.bits - 1)) (neg : Bool) :
    bitOf (mag + signBit f neg) (f.bits - 1) = neg := by
  cases neg <;> simp [bitOf, signBit, Nat.add_div_right, Nat.div_eq_of_lt hm]

theorem add_signBit_mod {f : Elem} {mag : Nat} (hm : mag < 2 ^ (f.bits - 1)) (neg : Bool) :
    (mag + signBit f neg) % 2 ^ (f.bits - 1) = mag := by
  cases neg <;> simp [signBit, Nat.mod_eq_of_lt hm]

/-- A code that decodes to a finite value is the code of that value, which lies on the format's grid. -/
theorem onGrid_of_decode {f : Elem} (hf : f ≠ .i8) {c : Nat} (hc : c < 2 ^ f.bits) {neg : Bool} {m : Nat} {e : Int}
    (h : f.decode c = .fin neg m e) : f.OnGrid m e ∧ f.gridCode m e + signBit f neg = c := by
  have hm := mag_le_of_decode_fin hf h
  rw [decode_float hf hm] at h
  cases h
  exact ⟨onGrid_mant_expo hm, by rw [gridCode_mant_expo, mag_add_signBit hc]⟩

theorem OnGrid.decode_gridCode {f : Elem} (hf : f ≠ .i8) {m : Nat} {e : Int} (h : f.OnGrid m e) (neg : Bool) :
    f.decode (f.gridCode m e + signBit f neg) = .fin neg m e := by
  have hlt := h.fits.trans_lt (maxCode_lt hf)
  have hmod := add_signBit_mod hlt neg
  rw [decode_float hf (hmod.trans_le h.fits), hmod, bitOf_add_signBit hlt, h.mant_gridCode, h.expo_gridCode]

end Elem

/-! ### Writing a value that needs no rounding (R79, R86) -/

@[simp] theorem fIf_false (f : Flags) : fIf false f = 0 := rfl

theorem roundRatio_one (stoch : Bool) (r q : Nat) : roundRatio stoch r q 1 = (q, true) := by
  cases stoch <;> simp [roundRatio, Nat.mod_one]

theorem log2Ratio_one {m : Nat} (hm : m ≠ 0) : log2Ratio m 1 = m.log2 := by
  have h1 : Nat.log2 1 = 0 := rfl
  simp [log2Ratio, dyLe, atGrid, h1, Nat.log2_self_le hm]

/-- The exponent that R79 rounds at is that of the value's own grid, whatever power of two its mantissa holds. -/
theorem Elem.OnGrid.log2_exponent {f : Elem} {m k : Nat} {e : Int} (h : f.OnGrid (m * 2 ^ k) (e - k)) (hm : m ≠ 0) :
    max (m.log2 + e) (1 - (f.bias : Int)) - f.frac = e - k := by
  obtain ⟨hs, hl, hn, -⟩ := h
  have hlo : 2 ^ (m.log2 + k) ≤ m * 2 ^ k := by rw [pow_add]; exact Nat.mul_le_mul_right _ (Nat.log2_self_le hm)
  have hhi : m * 2 ^ k < 2 ^ (m.log2 + k + 1) := by
    rw [add_right_comm, pow_add _ _ k]
    exact Nat.mul_lt_mul_of_pos_right Nat.lt_log2_self (Nat.two_pow_pos k)
  have hle : m.log2 + k < f.frac + 1 := (Nat.pow_lt_pow_iff_right Nat.one_lt_two).1 (hlo.trans_lt hs)
  rw [Elem.low] at hl hn
  rcases hn with hn | hn
  · have hge : f.frac < m.log2 + k + 1 := (Nat.pow_lt_pow_iff_right Nat.one_lt_two).1 (hn.trans_lt hhi)
    omega
  · omega

theorem finTo_zero (f : Elem) (c : Ctl) (r : Nat) (neg : Bool) (e : Int) (d : Nat) :
    finTo f c r neg 0 e d = ⟨if f = .i8 then 0 else signBit f neg, 0, false⟩ := by
  unfold finTo
  exact if_pos rfl

theorem Elem.OnGrid.gridCode_zero {f : Elem} {e : Int} (h : f.OnGrid 0 e) : f.gridCode 0 e = 0 := by
  have he : e = f.low := h.normal.resolve_left (Nat.not_le.2 (Nat.two_pow_pos _))
  simp [Elem.gridCode, he]

/-- A value of the format is written exactly, under any control and from any mantissa and exponent that give it. -/
theorem finTo_of_onGrid {f : Elem} (hf : f ≠ .i8) (c : Ctl) (r : Nat) (neg : Bool) {m k : Nat} {e : Int}
    (h : f.OnGrid (m * 2 ^ k) (e - k)) :
    finTo f c r neg m e 1 = ⟨f.gridCode (m * 2 ^ k) (e - k) + signBit f neg, 0, false⟩ := by
  by_cases hm : m = 0
  · subst hm
    rw [Nat.zero_mul] at h ⊢
    rw [finTo_zero, if_neg hf, h.gridCode_zero, Nat.zero_add]
  · have hcode : (e - k + f.frac - (1 - (f.bias : Int))).toNat = (e - k - f.low).toNat := by
      rw [Elem.low]; congr 1; omega
    unfold finTo
    rw [if_neg hm]
    split
    · contradiction
    · simp only [log2Ratio_one hm, h.log2_exponent hm, sub_sub_cancel, sub_sub_cancel_left, hcode, Int.toNat_natCast,
        Int.toNat_neg_natCast, pow_zero, mul_one, roundRatio_one, Bool.not_true, Bool.false_and, fIf_false]
      exact if_neg (Nat.not_lt.2 h.fits)

/-- INT8 writes every integer of its range as its two's complement (R65, R79). -/
theorem finTo_i8 (c : Ctl) (r : Nat) {i : Int} (hlo : -128 ≤ i) (hhi : i ≤ 127) :
    finTo .i8 c r (decide (i < 0)) i.natAbs 0 1 = ⟨unsigned 8 i, 0, false⟩ := by
  by_cases hi : i = 0
  · subst hi; rfl
  · have hsgn : sgn (decide (i < 0)) i.natAbs = i := by
      simp only [sgn, decide_eq_true_eq]
      split <;> omega
    have hfit : ¬ (if decide (i < 0) = true then 128 else 127) < i.natAbs := by
      simp only [decide_eq_true_eq]
      split <;> omega
    unfold finTo
    rw [if_neg (Int.natAbs_ne_zero.2 hi)]
    simp only [Int.toNat_zero, Int.neg_zero, pow_zero, mul_one, roundRatio_one, hsgn, Bool.not_true, Bool.false_and, fIf_false]
    exact if_neg hfit

/-- R61 to R66, R77, R79: an INT8 code is the two's complement of its value, and a finite code of a float format stands for one
point of its grid, which is written as that code. -/
theorem decodeThenEncodeIsIdentity : Claims.decodeThenEncodeIsIdentity := by
  intro f k r c neg m e hc h
  rw [h, encodeVal, add_zero]
  by_cases hf : f = .i8
  · subst hf
    obtain ⟨hlo, hhi⟩ : -128 ≤ signed 8 c ∧ signed 8 c < 128 := signed_bounds 7 c
    cases h
    rw [finTo_i8 k r hlo (Int.le_of_lt_add_one hhi), unsigned_signed]
    exact congrArg (EOut.mk · 0 false) (Nat.mod_eq_of_lt hc)
  · obtain ⟨hg, rfl⟩ := Elem.onGrid_of_decode hf hc h
    have hg0 : f.OnGrid (m * 2 ^ 0) (e - (0 : Nat)) := by simpa using hg
    simpa using finTo_of_onGrid hf k r neg hg0

/-! ### Widening into binary32 (R83) -/

/-- How many factors of two a mantissa takes from its exponent before it fills its hidden bit or reaches the lowest grid. -/
def Elem.room (f : Elem) (m : Nat) (e : Int) : Nat :=
  Nat.findGreatest (fun k => m * 2 ^ k < 2 ^ (f.frac + 1)) (e - f.low).toNat

/-- A value of few enough bits, on a grid no finer than the format's lowest, has a normal form there. -/
theorem Elem.exists_normal_form (f : Elem) {m : Nat} {e : Int} (hm : m < 2 ^ (f.frac + 1)) (hlo : f.low ≤ e) :
    ∃ k : Nat, m * 2 ^ k < 2 ^ (f.frac + 1) ∧ f.low ≤ e - k ∧ (2 ^ f.frac ≤ m * 2 ^ k ∨ e - k = f.low) := by
  have hk : f.room m e ≤ (e - f.low).toNat := Nat.findGreatest_le _
  have hfit : m * 2 ^ f.room m e < 2 ^ (f.frac + 1) :=
    Nat.findGreatest_spec (P := fun k => m * 2 ^ k < 2 ^ (f.frac + 1)) (Nat.zero_le _) (by simpa using hm)
  refine ⟨f.room m e, hfit, by omega, ?_⟩
  by_cases hlt : f.room m e < (e - f.low).toNat
  · have hbig : ¬ m * 2 ^ (f.room m e + 1) < 2 ^ (f.frac + 1) :=
      Nat.findGreatest_is_greatest (P := fun k => m * 2 ^ k < 2 ^ (f.frac + 1)) (Nat.lt_succ_self _) hlt
    rw [pow_succ, pow_succ, ← mul_assoc] at hbig
    exact .inl (Nat.le_of_mul_le_mul_right (Nat.not_lt.1 hbig) Nat.two_pos)
  · exact .inr (by omega)

/-- Binary32 holds every value of at most 24 bits in its range of exponents, subnormal ones included. -/
theorem exists_onGrid_b32 {p m : Nat} {e : Int} (hp : p ≤ 23) (hm : m < 2 ^ (p + 1)) (hlo : -149 ≤ e) (hhi : e + p ≤ 127) :
    ∃ k : Nat, Elem.b32.OnGrid (m * 2 ^ k) (e - k) := by
  have h24 : m < 2 ^ 24 := hm.trans_le (Nat.pow_le_pow_right Nat.two_pos (Nat.succ_le_succ hp))
  obtain ⟨k, hs, hl, hn⟩ := Elem.b32.exists_normal_form h24 hlo
  refine ⟨k, hs, hl, hn, ?_⟩
  have hk : m * 2 ^ k < 2 ^ (p + 1 + k) := by
    rw [pow_add]
    exact Nat.mul_lt_mul_of_pos_right hm (Nat.two_pow_pos k)
  have hlow : Elem.b32.low = -149 := rfl
  rw [hlow] at hl hn
  have htop : e - k ≤ 104 := by
    rcases hn with hn | hn
    · have : 23 < p + 1 + k := (Nat.pow_lt_pow_iff_right Nat.one_lt_two).1 (hn.trans_lt hk)
      omega
    · omega
  simp only [Elem.gridCode, Elem.frac, Elem.maxCode, hlow] at hs ⊢
  omega

/-- Each format's finite values have at most 24 bits and lie in the range of binary32. -/
theorem Elem.decode_within_b32 {f : Elem} {c : Nat} (hc : c < 2 ^ f.bits) {neg : Bool} {m : Nat} {e : Int}
    (h : f.decode c = .fin neg m e) : ∃ p : Nat, p ≤ 23 ∧ m < 2 ^ (p + 1) ∧ -149 ≤ e ∧ e + p ≤ 127 := by
  by_cases hf : f = .i8
  · subst hf
    obtain ⟨hlo, hhi⟩ : -128 ≤ signed 8 c ∧ signed 8 c < 128 := signed_bounds 7 c
    cases h
    exact ⟨7, by decide, Nat.lt_succ_of_le (by omega), by decide, by decide⟩
  · obtain ⟨⟨hs, hl, hn, hfit⟩, -⟩ := onGrid_of_decode hf hc h
    refine ⟨f.frac, ?_, hs, ?_, ?_⟩
    all_goals
      simp only [gridCode, low] at hl hn hfit
      cases f with
      | i8 => contradiction
      | _ =>
        simp only [frac, bias, maxCode] at *
        omega

/-- A finite value that any format holds converts into binary32 with no condition, to a code of the same value. -/
theorem toB32_fin {f : Elem} {c : Nat} (hc : c < 2 ^ f.bits) {neg : Bool} {m : Nat} {e : Int} (h : f.decode c = .fin neg m e) :
    (toB32 (.fin neg m e)).2 = 0
      ∧ ∃ k : Nat, Elem.b32.decode (toB32 (.fin neg m e)).1 = .fin neg (m * 2 ^ k) (e - k) := by
  obtain ⟨p, hp, hm, hlo, hhi⟩ := Elem.decode_within_b32 hc h
  obtain ⟨k, hg⟩ := exists_onGrid_b32 hp hm hlo hhi
  have hto : toB32 (.fin neg m e) = (Elem.b32.gridCode (m * 2 ^ k) (e - k) + signBit .b32 neg, 0) := by
    rw [toB32, encodeVal, add_zero, finTo_of_onGrid (by decide) _ _ _ hg]
  rw [hto]
  exact ⟨rfl, k, hg.decode_gridCode (by decide) neg⟩

theorem atGrid_finer (m : Nat) (e : Int) (k : Nat) : atGrid m e (min e (e - k)) = atGrid (m * 2 ^ k) (e - k) (min e (e - k)) := by
  rw [min_eq_right (by omega)]
  simp [atGrid]

theorem decode_toB32_inf (neg : Bool) : (toB32 (.inf neg)).2 = 0 ∧ Elem.b32.decode (toB32 (.inf neg)).1 = .inf neg := by
  cases neg <;> decide

theorem decode_toB32_nan : (toB32 .nan).2 = 0 ∧ Elem.b32.decode (toB32 .nan).1 = .nan := by decide

/-- R83, R87: an infinity and a NaN keep their kind, and a finite value lies on the grid of binary32. -/
theorem wideningIsExact : Claims.wideningIsExact := by
  intro f _ c hc
  cases hv : f.decode c with
  | nan => simp [decode_toB32_nan]
  | inf neg => simp [decode_toB32_inf]
  | fin neg m e =>
    obtain ⟨hflags, k, hdec⟩ := toB32_fin hc hv
    rw [hdec]
    exact ⟨hflags, rfl, atGrid_finer m e k⟩

/-! ### Fixed-point sums (R108 to R110) -/

/-- The largest magnitude at which an element enters with headroom `H` (R109). -/
def fixLimit (H : Nat) : Int := 2 ^ (63 - H) - 1

theorem fixLimit_nonneg (H : Nat) : 0 ≤ fixLimit H := sub_nonneg.2 (one_le_pow₀ (by decide))

theorem fixLimit_lt (H : Nat) : fixLimit H < 2 ^ 63 :=
  (Int.sub_lt_self _ one_pos).trans_le (pow_le_pow_right₀ (by decide) (Nat.sub_le 63 H))

theorem signed_fixNan {a : Nat} (h : a % 2 ^ 64 = fixNan) : signed 64 a = -2 ^ 63 := by
  rw [signed, h]
  decide

/-- Two elements whose sum stays within ±(2^63 − 1) add exactly. -/
theorem fixAdd_exact {a b : Nat} (ha : |signed 64 a| < 2 ^ 63) (hb : |signed 64 b| < 2 ^ 63)
    (hs : |signed 64 a + signed 64 b| < 2 ^ 63) :
    (fixAdd a b).2 = 0 ∧ signed 64 (fixAdd a b).1 = signed 64 a + signed 64 b := by
  have hna : a % 2 ^ 64 ≠ fixNan := fun h => by rw [signed_fixNan h] at ha; exact absurd ha (by decide)
  have hnb : b % 2 ^ 64 ≠ fixNan := fun h => by rw [signed_fixNan h] at hb; exact absurd hb (by decide)
  obtain ⟨hlo, hhi⟩ := abs_lt.1 hs
  have hadd : fixAdd a b = (unsigned 64 (signed 64 a + signed 64 b), 0) := by
    simp only [fixAdd, hna, hnb, decide_false, Bool.or_self, Bool.false_eq_true, if_false]
    rw [if_neg (by omega), if_neg (by omega)]
  rw [hadd]
  exact ⟨rfl, signed_unsigned 63 hlo.le hhi⟩

/-- A magnitude within the limit keeps its value as a 64-bit element. -/
theorem abs_signed_unsigned_sgn_le {H : Nat} (n : Bool) {q : Nat} (hq : q ≤ fixLimit H) :
    |signed 64 (unsigned 64 (sgn n q))| ≤ fixLimit H := by
  have habs : |sgn n q| ≤ fixLimit H := by cases n <;> simpa [sgn] using hq
  obtain ⟨hlo, hhi⟩ := abs_lt.1 (habs.trans_lt (fixLimit_lt H))
  rwa [signed_unsigned 63 hlo.le hhi]

theorem abs_signed_fixEnter_le (E : Int) (H : Nat) {v : Val} (hv : v ≠ .nan) :
    |signed 64 (fixEnter E H v).1| ≤ fixLimit H := by
  have hlim : ((2 ^ (63 - H) - 1 : Nat) : Int) = fixLimit H := by simp [fixLimit]
  cases v with
  | nan => contradiction
  | inf n => exact abs_signed_unsigned_sgn_le n hlim.le
  | fin n m e => exact abs_signed_unsigned_sgn_le n (hlim ▸ Int.ofNat_le.2 (Nat.min_le_right _ _))

/-- The running sum of contributors, from an element. -/
def fixSum (E : Int) (H : Nat) (vs : List Val) (a : Nat) : Nat := vs.foldl (fun a v => (fixAdd a (fixEnter E H v).1).1) a

theorem fixSum_cons (E : Int) (H : Nat) (v : Val) (vs : List Val) (a : Nat) :
    fixSum E H (v :: vs) a = fixSum E H vs (fixAdd a (fixEnter E H v).1).1 := rfl

/-- While the magnitudes that may still come keep within ±(2^63 − 1), a running sum is exact, and no larger than they make
it. -/
theorem fixSum_exact (E : Int) (H : Nat) {vs : List Val} (hv : ∀ v ∈ vs, v ≠ .nan) {a : Nat}
    (ha : |signed 64 a| + vs.length * fixLimit H < 2 ^ 63) :
    signed 64 (fixSum E H vs a) = signed 64 a + (vs.map fun v => signed 64 (fixEnter E H v).1).sum
      ∧ |signed 64 (fixSum E H vs a)| ≤ |signed 64 a| + vs.length * fixLimit H := by
  induction vs generalizing a with
  | nil => simp [fixSum]
  | cons v vs ih =>
    have hx := abs_signed_fixEnter_le E H (hv v List.mem_cons_self)
    have hx0 := abs_nonneg (signed 64 (fixEnter E H v).1)
    have hab := abs_add_le (signed 64 a) (signed 64 (fixEnter E H v).1)
    have h0 : 0 ≤ vs.length * fixLimit H := mul_nonneg (Nat.cast_nonneg _) (fixLimit_nonneg H)
    have ha0 := abs_nonneg (signed 64 a)
    rw [List.length_cons, Nat.cast_succ, add_one_mul] at ha ⊢
    obtain ⟨-, hsum⟩ := fixAdd_exact (a := a) (b := (fixEnter E H v).1) (by omega) (by omega) (by omega)
    obtain ⟨heq, hle⟩ := ih (a := (fixAdd a (fixEnter E H v).1).1) (fun u hu => hv u (List.mem_cons_of_mem v hu))
      (by rw [hsum]; omega)
    rw [hsum] at heq hle
    rw [fixSum_cons, List.map_cons, List.sum_cons, ← add_assoc]
    exact ⟨heq, hle.trans (by omega)⟩

/-- The headroom keeps 2^H entries of the largest magnitude within ±(2^63 − 1) (R109). -/
theorem mul_fixLimit_lt {H n : Nat} (hH : H ≤ 18) (hn : n ≤ 2 ^ H) : n * fixLimit H < 2 ^ 63 := by
  have hn' : (n : Int) ≤ 2 ^ H := by exact_mod_cast hn
  calc n * fixLimit H ≤ 2 ^ H * fixLimit H := mul_le_mul_of_nonneg_right hn' (fixLimit_nonneg H)
    _ = 2 ^ (H + (63 - H)) - 2 ^ H := by rw [fixLimit, mul_sub_one, ← pow_add]
    _ < 2 ^ 63 := by
      rw [Nat.add_sub_of_le (hH.trans (by decide))]
      exact sub_lt_self _ (by positivity)

/-- The contribution after the first `n`, when there is one, takes its share of the headroom. -/
theorem abs_signed_entry_le (E : Int) (H : Nat) {vs : List Val} (hv : ∀ v ∈ vs, v ≠ .nan) {n : Nat} (hn : n ≤ vs.length) :
    n * fixLimit H + |signed 64 (vs[n]?.elim 0 fun v => (fixEnter E H v).1)| ≤ vs.length * fixLimit H := by
  cases h : vs[n]? with
  | none => simpa [signed] using mul_le_mul_of_nonneg_right (Nat.cast_le.2 hn) (fixLimit_nonneg H)
  | some v =>
    have hlt : n < vs.length := (List.getElem?_eq_some_iff.1 h).1
    calc n * fixLimit H + |signed 64 (fixEnter E H v).1|
      _ ≤ n * fixLimit H + fixLimit H := by gcongr; exact abs_signed_fixEnter_le E H (hv v (List.mem_of_getElem? h))
      _ = (n + 1 : Nat) * fixLimit H := by rw [Nat.cast_succ, add_one_mul]
      _ ≤ vs.length * fixLimit H := mul_le_mul_of_nonneg_right (Nat.cast_le.2 hlt) (fixLimit_nonneg H)

/-- R108 to R110: after `n` contributors the sum is at most `n` times the limit of R109, so the next one still fits. -/
theorem fixedPointSumIsExact : Claims.fixedPointSumIsExact := by
  intro E H vs hH hlen hv
  have hroom := mul_fixLimit_lt hH hlen
  have hz : signed 64 0 = 0 := rfl
  constructor
  · intro n hn
    have hx := abs_signed_entry_le E H hv hn
    have hx0 := abs_nonneg (signed 64 (vs[n]?.elim 0 fun v => (fixEnter E H v).1))
    have hlen' : (vs.take n).length = n := List.length_take_of_le hn
    obtain ⟨-, hle⟩ := fixSum_exact E H (vs := vs.take n) (a := 0) (fun v h => hv v (List.mem_of_mem_take h))
      (by rw [hz, abs_zero, hlen']; omega)
    rw [hz, abs_zero, hlen'] at hle
    have hn0 : 0 ≤ n * fixLimit H := mul_nonneg (Nat.cast_nonneg n) (fixLimit_nonneg H)
    have hs0 := abs_nonneg (signed 64 (fixSum E H (vs.take n) 0))
    exact (fixAdd_exact (a := fixSum E H (vs.take n) 0) (by omega) (by omega) ((abs_add_le _ _).trans_lt (by omega))).1
  · obtain ⟨hsum, -⟩ := fixSum_exact E H hv (a := 0) (by rwa [hz, abs_zero, zero_add])
    exact hsum.trans (by rw [hz, zero_add])

/-- Settles O7: a finite code stands for one point of its format's grid (`Elem.OnGrid`), which that format and any format whose
grid holds it write exactly; and the headroom of R109 keeps every partial sum of 2^H entries below 2^63. -/
theorem numbersConvertExactly : Obligations.NumbersConvertExactly :=
  ⟨wideningIsExact, decodeThenEncodeIsIdentity, fixedPointSumIsExact⟩

end Sys2Proof.Machine

namespace Sys2Proof.Machine

/-!
Sums of arithmetic: the window accumulator without regard to order (R93, R94, R98), and the addition of reduction elements
(R110).
-/

/-! ### The window accumulator (R93 to R95) -/

namespace WAcc

/-- The multiple of 2^L that a finite addend `m * 2^e` is truncated to (R93). -/
def units (l : BitVec 10) (m : Nat) (e : Int) : Nat :=
  if 0 ≤ e - l.toInt then m * 2 ^ (e - l.toInt).toNat else m / 2 ^ (-(e - l.toInt)).toNat

/-- The truncation of R93 drops a non-zero bit. -/
def drops (l : BitVec 10) (m : Nat) (e : Int) : Bool :=
  decide (e - l.toInt < 0) && decide (m % 2 ^ (-(e - l.toInt)).toNat ≠ 0)

/-- What a value adds to W. -/
def word (l : BitVec 10) : Val → BitVec 200
  | .fin n m e => BitVec.ofInt 200 (sgn n (units l m e))
  | _ => 0

/-- A value sets T (R93). -/
def inexact (l : BitVec 10) : Val → Bool
  | .fin _ m e => drops l m e
  | _ => false

/-- Take a value into a window that wraps modulo 2^200 where R94 saturates. -/
def takeWrap (a : WAcc) (v : Val) : WAcc :=
  { a with
    w := a.w + word a.l v
    t := a.t || inexact a.l v
    nan := a.nan || decide (v = .nan)
    pinf := a.pinf || decide (v = .inf false)
    ninf := a.ninf || decide (v = .inf true) }

/-- What a finite addend does while O is clear (R93, R94). -/
theorem takeFin_open {a : WAcc} (ho : a.o = false) (n : Bool) (m : Nat) (e : Int) :
    a.takeFin n m e =
      if a.w.toInt + sgn n (units a.l m e) < -(2 ^ 199) then
        { a with w := BitVec.ofInt 200 (-(2 ^ 199)), o := true, t := a.t || drops a.l m e }
      else if 2 ^ 199 - 1 < a.w.toInt + sgn n (units a.l m e) then
        { a with w := BitVec.ofInt 200 (2 ^ 199 - 1), o := true, t := a.t || drops a.l m e }
      else { a with w := BitVec.ofInt 200 (a.w.toInt + sgn n (units a.l m e)), t := a.t || drops a.l m e } :=
  if_neg (by simp [ho])

/-- A finite addend leaves O clear only where O was clear and W keeps inside its range, which the wrapping window then holds
too (R94). -/
theorem takeFin_of_open {a : WAcc} {n : Bool} {m : Nat} {e : Int} (h : (a.takeFin n m e).o = false) :
    a.o = false ∧ a.takeFin n m e = a.takeWrap (.fin n m e) := by
  cases ho : a.o with
  | true => simp [takeFin, ho] at h
  | false =>
    rw [takeFin_open ho] at h ⊢
    split_ifs at h ⊢
    exact ⟨rfl, by simp [takeWrap, word, inexact, BitVec.ofInt_add]⟩

theorem take_of_open {a : WAcc} {v : Val} (h : (a.take v).o = false) : a.o = false ∧ a.take v = a.takeWrap v := by
  cases v with
  | nan => exact ⟨h, by simp [take, takeWrap, word, inexact]⟩
  | inf n => cases n <;> exact ⟨h, by simp [take, takeWrap, word, inexact]⟩
  | fin n m e => exact takeFin_of_open h

/-- O is never cleared while addends are taken in, so O clear at the end means that no addend saturated (R94). -/
theorem takeAll_of_open {a : WAcc} {vs : List Val} (h : (a.takeAll vs).o = false) :
    a.o = false ∧ a.takeAll vs = vs.foldl takeWrap a := by
  induction vs generalizing a with
  | nil => exact ⟨h, rfl⟩
  | cons v vs ih =>
    obtain ⟨hv, heq⟩ := ih h
    obtain ⟨ha, htake⟩ := take_of_open hv
    exact ⟨ha, by rw [takeAll, heq, htake, List.foldl_cons]⟩

/-- Two addends commute: W adds in the ring of 200-bit words, and every other field only gathers conditions. -/
theorem takeWrap_comm (a : WAcc) (u v : Val) : (a.takeWrap u).takeWrap v = (a.takeWrap v).takeWrap u := by
  simp only [takeWrap, add_right_comm, Bool.or_right_comm]

end WAcc

/-- Settles O6: with O clear at the end no addend saturated, so W is the sum modulo 2^200, whose addends commute. -/
theorem windowSumHasNoOrder : Obligations.WindowSumHasNoOrder := by
  intro a vs ws hperm hvs hws
  rw [(WAcc.takeAll_of_open hvs).2, (WAcc.takeAll_of_open hws).2]
  exact hperm.foldl_eq' (fun u _ v _ b => WAcc.takeWrap_comm b u v) a

/-! ### The addition of reduction elements (R110) -/

theorem unsigned_lt (w : Nat) (i : Int) : unsigned w i < 2 ^ w := by
  have hpos : (0 : Int) < (2 ^ w : Nat) := by positivity
  exact (Int.toNat_lt' (by positivity)).2 (Int.emod_lt_of_pos i hpos)

/-- An element is the number that its 64 bits stand for. -/
theorem eq_of_signed_eq {p q : Nat} (hp : p < 2 ^ 64) (hq : q < 2 ^ 64) (h : signed 64 p = signed 64 q) : p = q :=
  calc p = unsigned 64 (signed 64 p) := by rw [unsigned_signed, Nat.mod_eq_of_lt hp]
    _ = q := by rw [h, unsigned_signed, Nat.mod_eq_of_lt hq]

theorem fixAdd_nan {a b : Nat} (h : a % 2 ^ 64 = fixNan ∨ b % 2 ^ 64 = fixNan) : fixAdd a b = (fixNan, 0) :=
  if_pos (by simpa using h)

/-- R110: a sum of numbers is clamped to ±(2^63 − 1), and WOVF tells that it was. -/
theorem fixAdd_number {a b : Nat} (ha : a % 2 ^ 64 ≠ fixNan) (hb : b % 2 ^ 64 ≠ fixNan) :
    fixAdd a b =
      (unsigned 64 (max (-(2 ^ 63 - 1)) (min (2 ^ 63 - 1) (signed 64 a + signed 64 b))),
        fIf (decide (2 ^ 63 - 1 < signed 64 a + signed 64 b ∨ signed 64 a + signed 64 b < -(2 ^ 63 - 1))) fWOVF) := by
  rw [fixAdd, if_neg (by simpa using ⟨ha, hb⟩)]
  dsimp only
  split_ifs with hlo hhi
  · rw [min_eq_right (by omega), max_eq_left hlo.le, decide_eq_true (.inr hlo)]
    rfl
  · rw [min_eq_left hhi.le, max_eq_right (by decide), decide_eq_true (.inl hhi)]
    rfl
  · rw [min_eq_right (by omega), max_eq_right (by omega), decide_eq_false (by omega)]
    rfl

theorem fixAdd_lt (a b : Nat) : (fixAdd a b).1 < 2 ^ 64 := by
  by_cases h : a % 2 ^ 64 = fixNan ∨ b % 2 ^ 64 = fixNan
  · rw [fixAdd_nan h]
    decide
  · obtain ⟨ha, hb⟩ := not_or.1 h
    rw [fixAdd_number ha hb]
    exact unsigned_lt 64 _

theorem fIf_eq_self_iff {f : Flags} (hf : f ≠ 0) (c : Bool) : fIf c f = f ↔ c = true := by
  cases c with
  | false => exact iff_of_false hf.symm Bool.false_ne_true
  | true => exact iff_of_true rfl rfl

namespace SumTree

theorem sum_lt {t : SumTree} (h : ∀ q ∈ t.entries, q < 2 ^ 64) : t.sum.1 < 2 ^ 64 := by
  cases t with
  | entry q => exact h q List.mem_cons_self
  | add a b => exact fixAdd_lt a.sum.1 b.sum.1

/-- While the magnitudes of all entries together keep within ±(2^63 − 1), each addition on the way is exact, and its sum no
larger than they make it. -/
theorem sum_exact {H : Nat} {t : SumTree} (hq : ∀ q ∈ t.entries, |signed 64 q| ≤ fixLimit H)
    (hroom : t.entries.length * fixLimit H < 2 ^ 63) :
    t.sum.2 = 0 ∧ signed 64 t.sum.1 = (t.entries.map (signed 64)).sum
      ∧ |signed 64 t.sum.1| ≤ t.entries.length * fixLimit H := by
  induction t with
  | entry q => simpa [sum, entries] using hq
  | add a b iha ihb =>
    have ha0 : 0 ≤ a.entries.length * fixLimit H := mul_nonneg (Nat.cast_nonneg _) (fixLimit_nonneg H)
    have hb0 : 0 ≤ b.entries.length * fixLimit H := mul_nonneg (Nat.cast_nonneg _) (fixLimit_nonneg H)
    rw [entries, List.length_append, Nat.cast_add, add_mul] at hroom ⊢
    obtain ⟨hfa, hsa, hla⟩ := iha (fun q h => hq q (List.mem_append_left _ h)) (by omega)
    obtain ⟨hfb, hsb, hlb⟩ := ihb (fun q h => hq q (List.mem_append_right _ h)) (by omega)
    have hab := (abs_add_le (signed 64 a.sum.1) (signed 64 b.sum.1)).trans (add_le_add hla hlb)
    obtain ⟨hf, hs⟩ := fixAdd_exact (hla.trans_lt (by omega)) (hlb.trans_lt (by omega)) (hab.trans_lt hroom)
    rw [sum, hs]
    exact ⟨by simp [hfa, hfb, hf], by rw [List.map_append, List.sum_append, hsa, hsb], hab⟩

/-- R110: at most 2^H contributions within the limit of R109 have the same exact sum however they are added. -/
theorem sum_eq_of_perm {H : Nat} {t u : SumTree} (hH : H ≤ 18) (hlen : t.entries.length ≤ 2 ^ H)
    (hq : ∀ q ∈ t.entries, q < 2 ^ 64 ∧ |signed 64 q| ≤ fixLimit H) (hperm : u.entries.Perm t.entries) : u.sum = t.sum := by
  have hqu : ∀ q ∈ u.entries, q < 2 ^ 64 ∧ |signed 64 q| ≤ fixLimit H := fun q h => hq q (hperm.mem_iff.1 h)
  obtain ⟨hft, hst, -⟩ := sum_exact (fun q h => (hq q h).2) (mul_fixLimit_lt hH hlen)
  obtain ⟨hfu, hsu, -⟩ := sum_exact (fun q h => (hqu q h).2) (mul_fixLimit_lt hH (hperm.length_eq.trans_le hlen))
  refine Prod.ext (eq_of_signed_eq (sum_lt fun q h => (hqu q h).1) (sum_lt fun q h => (hq q h).1) ?_)
    (hfu.trans hft.symm)
  rw [hst, hsu]
  exact (hperm.map (signed 64)).sum_eq

end SumTree

/-- Settles O8: the branches of `fixAdd` give the NaN element and saturation; the headroom of R109 makes every addition of a
tree exact, so that two trees of the same entries come to the same number, which one element stands for. -/
theorem reductionElementsAdd : Obligations.ReductionElementsAdd := by
  refine ⟨fun a b h => congrArg Prod.fst (fixAdd_nan h), fun a b ha hb => ?_, fun H t hH hlen hq => ?_⟩
  · rw [fixAdd_number ha hb]
    exact ⟨rfl, (fIf_eq_self_iff (by decide) _).trans decide_eq_true_iff⟩
  · have hlim : ∀ q ∈ t.entries, q < 2 ^ 64 ∧ |signed 64 q| ≤ fixLimit H := fun q h =>
      have ⟨hlt, _, hlo, hhi⟩ := hq q h
      ⟨hlt, abs_le.2 ⟨hlo, hhi⟩⟩
    obtain ⟨hflags, hsum, -⟩ := SumTree.sum_exact (fun q h => (hlim q h).2) (mul_fixLimit_lt hH hlen)
    exact ⟨hflags, hsum, fun u => SumTree.sum_eq_of_perm hH hlen hlim⟩

end Sys2Proof.Machine

namespace Sys2Proof.Machine

/-!
A core's power states and the upkeep of its store (R144, R148 to R150, R155). Tracing and reporting leave every core as it is,
so each command is its one update of the core, and what a counter or a field of the register file tells of it.
-/

namespace State

/-! ### Traces and reports leave the cores -/

@[simp] theorem trcPut_frame (s : State) (r : Nat) (w : QWord) :
    (s.trcPut r w).cores = s.cores ∧ (s.trcPut r w).pegs = s.pegs ∧ (s.trcPut r w).hbm = s.hbm := by
  unfold trcPut
  dsimp only
  split <;> simp

@[simp] theorem trcStore_frame (s : State) (r ty core eng data : Nat) :
    (s.trcStore r ty core eng data).cores = s.cores ∧ (s.trcStore r ty core eng data).pegs = s.pegs
      ∧ (s.trcStore r ty core eng data).hbm = s.hbm := by
  unfold trcStore
  extract_lets u t room need dropped counted noted kept v
  have hv : v.cores = s.cores ∧ v.pegs = s.pegs ∧ v.hbm = s.hbm := by
    unfold v
    split <;> simp [noted, u]
  split
  · simp [counted, u]
  · simpa using hv

@[simp] theorem core_setFld (s : State) (a hi lo v d : Nat) : (s.setFld a hi lo v).core d = s.core d := by
  simp [core]

@[simp] theorem core_bump (s : State) (a d : Nat) : (s.bump a).core d = s.core d := by
  simp [core]

@[simp] theorem core_raise (s : State) (src kind : Nat) (ctx : Option Nat) (ty addr syn d : Nat) :
    (s.raise src kind ctx ty addr syn).core d = s.core d := by
  simp [core]

@[simp] theorem cfg_raise (s : State) (src kind : Nat) (ctx : Option Nat) (ty addr syn a : Nat) :
    (s.raise src kind ctx ty addr syn).cfg a = s.cfg a := by
  simp [cfg]

@[simp] theorem trcCore_frame (s : State) (c ty eng data : Nat) :
    (s.trcCore c ty eng data).cores = s.cores ∧ (s.trcCore c ty eng data).pegs = s.pegs
      ∧ (s.trcCore c ty eng data).hbm = s.hbm := by
  unfold trcCore
  split <;> simp

@[simp] theorem trcMark_frame (s : State) (c : Nat) (sleep : Bool) (p : Pwr) :
    (s.trcMark c sleep p).cores = s.cores ∧ (s.trcMark c sleep p).pegs = s.pegs := by
  unfold trcMark
  split <;> simp

@[simp] theorem core_trcMark (s : State) (c : Nat) (sleep : Bool) (p : Pwr) (d : Nat) :
    (s.trcMark c sleep p).core d = s.core d := by
  simp [core]

@[simp] theorem core_modCore (s : State) (c : Nat) (f : Core → Core) (d : Nat) :
    (s.modCore c f).core d = if d = c then f (s.core c) else s.core d :=
  core_setCore s c (f (s.core c)) d

theorem wakeClock_of_clockStop {s : State} {c : Nat} (h : (s.core c).pwr = .clockStop) :
    s.wakeClock c = (s.modCore c fun k => { k with pwr := .run }).trcMark c false .run :=
  if_pos h

@[simp] theorem cfg_setCore (s : State) (c : Nat) (k : Core) (a : Nat) : (s.setCore c k).cfg a = s.cfg a := by
  simp [cfg]

@[simp] theorem ctr_setCore (s : State) (c : Nat) (k : Core) (a : Nat) : (s.setCore c k).ctr a = s.ctr a := by
  simp [ctr]

end State

/-! ### What the commands do (R144, R148 to R150, R155) -/

theorem exec_coreInitDone {s : State} {c : Fin 104} (hp : (s.core c).pwr = .init) (hf : s.sump.fatal = false) :
    exec (.coreInitDone c) s = .next (s.setCore c { s.core c with pwr := .run }) := by
  change execCoreInitDone c s = _
  unfold execCoreInitDone
  refine when_of _ _ _ ?_
  simp [hp, hf]

theorem exec_clockStopEntry {s : State} {c : Fin 104} (hp : (s.core c).pwr = .run) (hq : (s.core c).seq = .wait)
    (he : (s.core c).enginesIdle = true) (hi : (s.core c).isolated = false) (hs : (s.core c).stop = none) :
    exec (.clockStopEntry c) s
      = .next ((s.setCore c { s.core c with pwr := .clockStop }).trcMark c true .clockStop) := by
  change execClockStopEntry c s = _
  unfold execClockStopEntry
  refine when_of _ _ _ ?_
  simp [hp, hq, he, hi, hs]

theorem exec_clockStopExit {s : State} {c : Fin 104} (hp : (s.core c).pwr = .clockStop) :
    exec (.clockStopExit c) s = .next ((s.setCore c { s.core c with pwr := .run }).trcMark c false .run) := by
  change execClockStopExit c s = _
  refine (when_of _ _ _ ?_).trans (congrArg _ (State.wakeClock_of_clockStop hp))
  simp [hp]

theorem exec_correctingWriteBack {s : State} {c : Fin 104} {w : Nat} {ws : List Nat} (h : (s.core c).wb = w :: ws) :
    exec (.correctingWriteBack c) s = .next (s.setCore c { s.core c with wb := ws }) := by
  change execCorrectingWriteBack c s = _
  refine (when_of _ _ _ ?_).trans ?_
  · simp [h]
  · simp [State.modCore, h]

/-- A row that finds a spare row of its bank free takes the next one; the count of spare rows in use is a register's field. -/
theorem exec_rowRemap {s : State} {c : Fin 104} {row : Nat} {rest : List Nat} (h : (s.core c).remap = row :: rest)
    (hfree : (s.core c).spareTaken (row / 1024) < 16) :
    ∃ used, exec (.rowRemap c) s
      = .next ((s.setCore c { s.core c with
          remap := rest
          spare := tput row ((s.core c).spareTaken (row / 1024) + 1) (s.core c).spare }).setFld
            (Reg.CSTORE_SPARE (c / 26) (c % 26)) 10 0 used) := by
  change ∃ used, execRowRemap c s = _
  simp only [execRowRemap, h, if_pos hfree]
  exact ⟨_, rfl⟩

/-- One step of the scrub that finds no error: the walk goes on, and from its last row it starts again and is counted. -/
theorem exec_coreStoreScrub {s : State} {c : Fin 104} (hb : s.bit (Reg.CSTORE_SCRUB_CTL (c / 26)) 16 = true)
    (hp : (s.core c).pwr = .run) :
    exec (.coreStoreScrub c []) s
      = .next ((s.setCore c { s.core c with
          scrub := if decide ((s.core c).scrub = 1039) then 0 else (s.core c).scrub + 1 }).bumpIf
            (decide ((s.core c).scrub = 1039)) (Reg.CSTORE_SCRUB_PASS (c / 26) (c % 26))) := by
  change execCoreStoreScrub c [] s = _
  unfold execCoreStoreScrub
  refine when_of _ _ _ ?_
  simp [hb, hp]

/-! ### The clauses of O13 -/

theorem corePowerStates : Claims.corePowerStates := by
  refine fun s c => ⟨exec_coreInitDone, fun hp hq he hi hs => ?_, fun hp => ?_⟩
  · exact ⟨_, exec_clockStopEntry hp hq he hi hs, by simp, by simp⟩
  · exact ⟨_, exec_clockStopExit hp, by simp, by simp⟩

theorem coreStoreUpkeep : Claims.coreStoreUpkeep := by
  refine fun s c => ⟨fun w ws => exec_correctingWriteBack, fun row rest h hfree => ?_, fun hb hp hlast => ?_,
    fun hb hp hmore => ?_⟩
  · obtain ⟨used, hrun⟩ := exec_rowRemap h hfree
    exact ⟨_, hrun, by simp, by simp, by simp⟩
  · exact ⟨_, exec_coreStoreScrub hb hp, by simp [State.bumpIf, hlast], by simp [State.bumpIf, hlast, Claims.plus]⟩
  · rw [exec_coreStoreScrub hb hp]
    simp [State.bumpIf, hmore.ne]

/-- Settles O13: each command is its one update of the core, with a trace record, a register's field or a counter beside it. -/
theorem corePowerAndStoreUpkeep : Obligations.CorePowerAndStoreUpkeep :=
  ⟨corePowerStates, coreStoreUpkeep⟩

end Sys2Proof.Machine

namespace Sys2Proof.Machine

/-!
What an engine's work leaves behind while other parts of the block go on with theirs: the bytes of every core store, and each
operation that has set out for a peg. Prefetches, traces, reports, records for the host and the drain of a hand touch neither:
they move lines between caches and HBM, and take back at most the registration of a waiter. `KeepsWork s t` says so of two
states, with one lemma for each named update, in the order of the model's files.
-/

/-- Every core store of `t` holds the bytes it holds in `s`, and the operations on their way to a peg are still on their way,
but for registrations of waiters. -/
structure KeepsWork (s t : State) : Prop where
  store : ∀ c, (t.core c).store = (s.core c).store
  ops : ∀ o ∈ s.pegOps, (∀ w, o.2 ≠ .wait w) → o ∈ t.pegOps

variable {s t : State}

namespace KeepsWork

theorem refl (s : State) : KeepsWork s s := ⟨fun _ => rfl, fun _ h _ => h⟩

/-- A signal in flight stays in flight. -/
theorem signal (h : KeepsWork s t) {p n : Nat} (hs : (p, PegOp.signal n) ∈ s.pegOps) : (p, PegOp.signal n) ∈ t.pegOps :=
  h.ops _ hs nofun

/-- The rule for a record update: every field but the cores and the operations of pegs may change. -/
theorem frame {pending free out round sump reg pegs waits wakes ctx vci hl parts trc hbm hbmBad hctl slice useNo tokens short
    thr coh xl dc lists nextList lbytes lodes fab due heron rst sedge tap pins} (h : KeepsWork s t) :
    KeepsWork s { cores := t.cores, pegOps := t.pegOps, pending, free, out, round, sump, reg, pegs, waits, wakes, ctx, vci, hl,
                  parts, trc, hbm, hbmBad, hctl, slice, useNo, tokens, short, thr, coh, xl, dc, lists, nextList, lbytes,
                  lodes, fab, due, heron, rst, sedge, tap, pins } :=
  ⟨h.store, h.ops⟩

/-- Names what holds of an intermediate state that the rest of the update uses more than once. -/
theorem andThen {p : Prop} (h : KeepsWork s t) (k : KeepsWork s t → p) : p := k h

theorem ite {c : Prop} {_ : Decidable c} {a b : State} (ha : KeepsWork s a) (hb : KeepsWork s b) :
    KeepsWork s (if c then a else b) := by
  split
  · exact ha
  · exact hb

theorem iteSnd {α : Type} {c : Prop} {_ : Decidable c} {a b : α × State} (ha : KeepsWork s a.2) (hb : KeepsWork s b.2) :
    KeepsWork s (if c then a else b).2 := by
  split
  · exact ha
  · exact hb

theorem foldl {α : Type} {f : State → α → State} {l : List α} (h : KeepsWork s t)
    (hf : ∀ {u a}, KeepsWork s u → KeepsWork s (f u a)) : KeepsWork s (l.foldl f t) := by
  induction l generalizing t with
  | nil => exact h
  | cons a l ih => exact ih (hf h)

/-! ### Named operations of the state -/

theorem setCfg (h : KeepsWork s t) {a w} : KeepsWork s (t.setCfg a w) := h.frame

theorem setFld (h : KeepsWork s t) {a hi lo v} : KeepsWork s (t.setFld a hi lo v) := h.setCfg

theorem bumpBy (h : KeepsWork s t) {a n} : KeepsWork s (t.bumpBy a n) := h.frame

theorem bump (h : KeepsWork s t) {a} : KeepsWork s (t.bump a) := h.bumpBy

theorem bumpIf (h : KeepsWork s t) {c a} : KeepsWork s (t.bumpIf c a) := .ite h.bump h

theorem drawn (h : KeepsWork s t) : KeepsWork s t.drawn := h.frame

theorem send (h : KeepsWork s t) {o} : KeepsWork s (t.send o) := h.frame

theorem raise (h : KeepsWork s t) {src kind ctx atype addr syn} : KeepsWork s (t.raise src kind ctx atype addr syn) :=
  .ite h (.ite h.frame h.frame)

theorem raiseEcc (h : KeepsWork s t) {src kind ctx atype addr lane} :
    KeepsWork s (t.raiseEcc src kind ctx atype addr lane) := h.drawn.raise

theorem tick (h : KeepsWork s t) : KeepsWork s t.tick := .ite h.drawn.frame h

theorem trcPut (h : KeepsWork s t) {r w} : KeepsWork s (t.trcPut r w) := (KeepsWork.ite h.setFld h).bump.frame

theorem trcStore (h : KeepsWork s t) {r ty core eng data} : KeepsWork s (t.trcStore r ty core eng data) :=
  h.tick.andThen fun h1 => .ite h1.bump.frame ((KeepsWork.ite h1 h1.trcPut.frame).trcPut)

theorem trcCore (h : KeepsWork s t) {core ty eng data} : KeepsWork s (t.trcCore core ty eng data) := .ite h.trcStore h

/-- An update of a core that leaves the bytes of its store. -/
theorem setCore (h : KeepsWork s t) {c k} (hk : k.store = (t.core c).store) : KeepsWork s (t.setCore c k) := by
  refine ⟨fun d => ?_, h.ops⟩
  rw [State.core_setCore, ← h.store d]
  split
  · next hd => rw [hk, hd]
  · rfl

theorem modCore (h : KeepsWork s t) {c} {f : Core → Core} (hf : ∀ k, (f k).store = k.store) :
    KeepsWork s (t.modCore c f) := h.setCore (hf _)

theorem setCtx (h : KeepsWork s t) {c x} : KeepsWork s (t.setCtx c x) := h.frame

theorem modCtx (h : KeepsWork s t) {c f} : KeepsWork s (t.modCtx c f) := h.setCtx

/-- The one update that takes operations back: it takes registrations of a waiter. -/
theorem unwait (h : KeepsWork s t) {w} : KeepsWork s (t.unwait w) :=
  ⟨h.store, fun o ho hw => List.mem_filter.2 ⟨h.ops o ho hw, decide_eq_true (hw w)⟩⟩

theorem setList (h : KeepsWork s t) {k l} : KeepsWork s (t.setList k l) := h.frame

theorem stopLists (h : KeepsWork s t) {x} : KeepsWork s (t.stopLists x) := by
  unfold State.stopLists
  refine h.foldl fun h1 => ?_
  split
  · exact h1.setList
  · exact h1.unwait.setList
  · exact h1

/-! ### Records of Bittern's commands (R472 to R499) -/

theorem sendMsi (h : KeepsWork s t) {v} : KeepsWork s (t.sendMsi v) := h.send.bump

theorem deliver (h : KeepsWork s t) {w} : KeepsWork s (t.deliver w) := by
  unfold State.deliver
  split
  · exact h.send
  · exact h.sendMsi
  · exact h.send
  · exact h.send

theorem hostWrite (h : KeepsWork s t) {w} : KeepsWork s (t.hostWrite w) := by
  unfold State.hostWrite
  split
  · exact h.deliver
  · exact h.frame
  · exact h

theorem irq (h : KeepsWork s t) {v} : KeepsWork s (t.irq v) := .ite (.ite h h.frame) h.hostWrite

theorem biasAsk (h : KeepsWork s t) {line write} : KeepsWork s (t.biasAsk line write) := by
  unfold State.biasAsk
  refine .ite h ?_
  split
  · exact h
  · exact h.send.send

theorem setSq (h : KeepsWork s t) {q r} : KeepsWork s (t.setSq q r) := h.frame

theorem setCq (h : KeepsWork s t) {c r} : KeepsWork s (t.setCq c r) := h.frame

theorem postRec (h : KeepsWork s t) {c r} : KeepsWork s (t.postRec c r) := by
  unfold State.postRec
  split
  · exact h
  · exact h.hostWrite.setCq.andThen fun h1 => .ite h1 h1.irq

theorem postEventRec (h : KeepsWork s t) {c r} : KeepsWork s (t.postEventRec c r) := by
  unfold State.postEventRec
  split
  · exact h
  · exact .ite h.setCq.postRec (.ite h.setCq h.setCq)

theorem event (h : KeepsWork s t) {cls kind detail r0 r1} : KeepsWork s (t.event cls kind detail r0 r1) := by
  unfold State.event
  split
  · exact h
  · exact h.postEventRec

theorem writeRec (h : KeepsWork s t) {c r} : KeepsWork s (t.writeRec c r) := by
  unfold State.writeRec
  refine .ite h.frame.drawn ?_
  split
  · split
    · exact h.postEventRec
    · exact h.frame
  · split
    · exact h
    · exact h.setCq.postRec

theorem dropCmd (h : KeepsWork s t) {c} : KeepsWork s (t.dropCmd c) := h.frame

theorem finish (h : KeepsWork s t) {c status detail flags r0 r1} : KeepsWork s (t.finish c status detail flags r0 r1) :=
  h.writeRec

theorem startCmd (h : KeepsWork s t) {c} : KeepsWork s (t.startCmd c) := by
  unfold State.startCmd
  split
  · exact h.finish
  · exact h.frame

theorem ringIdle (h : KeepsWork s t) {q} : KeepsWork s (t.ringIdle q) := by
  unfold State.ringIdle
  split
  · exact h
  · refine .ite h ?_
    split
    · exact h.setSq.startCmd
    · refine .ite h ?_
      extract_lets u
      have hu : KeepsWork s u := by
        unfold u
        split
        · exact .ite h.setCq h
        · exact h
      exact hu.frame.dropCmd.finish
    · exact h

theorem complete (h : KeepsWork s t) {c status detail flags r0 r1} : KeepsWork s (t.complete c status detail flags r0 r1) :=
  h.dropCmd.finish.ringIdle

/-! ### Suspension, and the ends of hands (R187, R195, R486, R491) -/

theorem stopCore (h : KeepsWork s t) {why c} : KeepsWork s (t.stopCore why c) :=
  h.modCore fun k => by split <;> rfl

theorem suspend (h : KeepsWork s t) {x c r0 r1} : KeepsWork s (t.suspend x c r0 r1) :=
  .ite (((h.setCtx.foldl fun h1 => h1.stopCore).stopLists).event)
    (.ite (h.setCtx.stopLists.andThen fun h1 => .ite h1.event h1) (.ite h.stopLists.event h))

theorem releaseCores (h : KeepsWork s t) {x} : KeepsWork s (t.releaseCores x) :=
  h.foldl fun h1 => (h1.unwait.modCore (by exact fun _ => rfl)).setFld

theorem handEnd (h : KeepsWork s t) {x status} : KeepsWork s (t.handEnd x status) := by
  unfold State.handEnd
  extract_lets k flags u v
  have hv : KeepsWork s v := h.releaseCores.setCtx
  split
  · exact hv.complete
  · exact hv

theorem cancelDone (h : KeepsWork s t) {x} : KeepsWork s (t.cancelDone x) := by
  unfold State.cancelDone
  extract_lets k cs due u
  have hu : KeepsWork s u := by
    unfold u
    split
    · exact h.modCtx.complete
    · exact h
  exact .ite hu.handEnd h

theorem settle (h : KeepsWork s t) {c} : KeepsWork s (t.settle c) := by
  unfold State.settle
  extract_lets k u
  have hu : KeepsWork s u := .ite (h.setCore rfl) h
  split
  · exact hu.cancelDone
  · exact hu

/-! ### Memory as a walk reads it (R240 to R245, R316, R324) -/

theorem charge (h : KeepsWork s t) {r n hbm} : KeepsWork s (t.charge r n hbm) := .ite h.frame (.ite h (.ite h h.frame))

theorem hbmWrite (h : KeepsWork s t) {line off bs bad} : KeepsWork s (t.hbmWrite line off bs bad) := .ite h h.frame

theorem sPut (h : KeepsWork s t) {i l} : KeepsWork s (t.sPut i l) := h.frame

theorem sDrop (h : KeepsWork s t) {i} : KeepsWork s (t.sDrop i) := h.frame

theorem ccRemove (h : KeepsWork s t) {c line} : KeepsWork s (t.ccRemove c line) := by
  unfold State.ccRemove
  split
  · exact h.modCore fun _ => rfl
  · exact h

theorem mergeM (h : KeepsWork s t) {line d poison} : KeepsWork s (t.mergeM line d poison) := by
  unfold State.mergeM
  split
  · exact h.sPut
  · exact h

theorem pullOne (h : KeepsWork s t) {line keep c} : KeepsWork s (t.pullOne line keep c) := by
  unfold State.pullOne
  dsimp only
  exact h.bump.ccRemove.andThen fun h1 => by
    split
    · exact .ite h1.mergeM h1
    · exact h1

theorem pull (h : KeepsWork s t) {line keep but} : KeepsWork s (t.pull line keep but) := h.foldl fun h1 => h1.pullOne

theorem sEvict (h : KeepsWork s t) {i} : KeepsWork s (t.sEvict i) := by
  unfold State.sEvict
  split
  · exact h
  · extract_lets u
    have hu : KeepsWork s u := h.pull
    split
    · exact hu.sDrop.andThen fun h1 => .ite h1.bump.charge.hbmWrite h1
    · exact hu

theorem sAlloc (h : KeepsWork s t) {line cls data dirty poison} : KeepsWork s (t.sAlloc line cls data dirty poison) := by
  unfold State.sAlloc
  split
  · exact h
  · exact h.sEvict.frame.sPut

theorem sTouch (h : KeepsWork s t) {line hint cls} : KeepsWork s (t.sTouch line hint cls) := by
  unfold State.sTouch
  split
  · exact .ite h h.frame.sPut
  · exact h

theorem sFetch (h : KeepsWork s t) {line hint cls} : KeepsWork s (t.sFetch line hint cls).2 :=
  h.bump.charge.andThen fun h1 => .ite h1 h1.sAlloc.sTouch

theorem ncRead (h : KeepsWork s t) {line hint cls} : KeepsWork s (t.ncRead line hint cls).2 := by
  unfold State.ncRead
  extract_lets r u v
  have hu : KeepsWork s u := h.charge
  have hv : KeepsWork s v := hu.pull
  refine .iteSnd ?_ ?_
  · split
    · exact hv.bump.andThen fun h1 => .iteSnd h1.sEvict h1.bumpIf.sDrop
    · exact hv.sFetch
  · split
    · exact hu.bump.sTouch.andThen fun h1 => by
        split
        · dsimp only
          split
          · exact h1.bump
          · exact h1.bump
        · exact h1
    · exact hu.sFetch

/-! ### Walks and prefetches (R268 to R275) -/

theorem setXl (h : KeepsWork s t) {x} : KeepsWork s (t.setXl x) := h.frame

theorem readPte (h : KeepsWork s t) {cls a} : KeepsWork s (t.readPte cls a).2 := h.biasAsk.ncRead

theorem walkFrom (h : KeepsWork s t) {g r cls x sg off acc n a} :
    KeepsWork s (State.walkFrom g r cls x sg off acc n a t).2 := by
  induction n generalizing t a with
  | zero => exact h
  | succ n ih =>
    unfold State.walkFrom
    extract_lets lvl b d u
    have hu : KeepsWork s u := h.readPte
    exact .iteSnd hu.drawn (.iteSnd hu (.iteSnd hu (.iteSnd hu (.iteSnd (.iteSnd hu (ih hu.drawn.setXl))
      (.iteSnd hu (.iteSnd hu (.iteSnd hu hu.bumpIf)))))))

theorem walk (h : KeepsWork s t) {g r cls x sg off acc} : KeepsWork s (t.walk g r cls x sg off acc).2 := by
  unfold State.walk
  extract_lets w find o
  have ho : KeepsWork s o.2 := by
    unfold o
    split
    · exact h.walkFrom
    · exact h.walkFrom
    · exact h.walkFrom
  exact ho.drawn.bump.bumpBy

theorem rtlbFill (h : KeepsWork s t) {r ent} : KeepsWork s (t.rtlbFill r ent) := h.bumpIf.setXl

theorem xprefetch (h : KeepsWork s t) {r x dva} : KeepsWork s (t.xprefetch r x dva) := by
  unfold State.xprefetch
  extract_lets sg off g flat u w
  have hu : KeepsWork s u := h.bumpIf
  have hw : KeepsWork s w.2 := hu.walk
  refine .ite hu.bump (.ite hu ?_)
  split
  · exact hw.rtlbFill
  · exact hw.bump

theorem prefetchPages (h : KeepsWork s t) {r x n left seen ranges} :
    KeepsWork s (State.prefetchPages r x n left seen ranges t) := by
  induction n generalizing t left seen ranges with
  | zero => exact h
  | succ n ih =>
    cases ranges with
    | nil => exact h
    | cons a l =>
      unfold State.prefetchPages
      refine .ite h (.ite (ih h) ?_)
      split
      · exact ih h
      · exact ih h.xprefetch

theorem prefetchTile (h : KeepsWork s t) {c x tile} : KeepsWork s (t.prefetchTile c x tile) := .ite h.prefetchPages h

theorem prefetchStream (h : KeepsWork s t) {c x trick after} : KeepsWork s (t.prefetchStream c x trick after) := by
  unfold State.prefetchStream
  extract_lets u
  have hu : KeepsWork s u := by
    unfold u
    split
    · exact h.prefetchTile
    · exact h
  split
  · exact .ite hu hu.prefetchTile
  · exact hu

end KeepsWork

end Sys2Proof.Machine

namespace Sys2Proof.Machine

/-!
Engine tricks from issue to completion (R117, R120, R142, R162, R163, R171 to R179). Each command has one equation under the
conditions of its claim: its next state is one update of its core, of its engine's queue above all, beside updates that keep
what the claim speaks of (`KeepsWork`, and the frames of traces, reports and descriptor errors).
-/

/-! ### The queues of a core -/

@[simp] theorem Core.queue_setQueue (k : Core) (e : Nat) (q : List Trick) : (k.setQueue e q).queue e = q := by
  simp [Core.queue, Core.setQueue]

namespace State

/-! ### Errors of descriptor reads (R144, R145) -/

@[simp] theorem fenceTrigger_frame (s : State) (c : Nat) :
    (s.fenceTrigger c).pegs = s.pegs ∧ (s.fenceTrigger c).hbm = s.hbm := by
  unfold fenceTrigger
  split <;> exact ⟨rfl, rfl⟩

@[simp] theorem wantRemap_frame (s : State) (c row : Nat) :
    (s.wantRemap c row).pegs = s.pegs ∧ (s.wantRemap c row).hbm = s.hbm := by
  simp [wantRemap]

theorem storeErr_frame (s : State) (c : Nat) (e : EccErr) :
    (s.storeErr c e).pegs = s.pegs ∧ (s.storeErr c e).hbm = s.hbm := by
  unfold storeErr
  dsimp only
  split
  · exact ⟨rfl, rfl⟩
  · split
    · split <;> simp
    · split <;> simp

/-- The errors that reads of core store find change neither pegs nor HBM. -/
theorem storeErrs_frame (s : State) (c : Nat) (es : List EccErr) :
    (s.storeErrs c es).pegs = s.pegs ∧ (s.storeErrs c es).hbm = s.hbm := by
  induction es generalizing s with
  | nil => exact ⟨rfl, rfl⟩
  | cons e es ih =>
    obtain ⟨hp, hh⟩ := ih (s.storeErr c e)
    obtain ⟨hp', hh'⟩ := s.storeErr_frame c e
    exact ⟨hp.trans hp', hh.trans hh'⟩

/-! ### Issue (R117, R142) -/

@[simp] theorem issued_frame (s : State) (c : Nat) :
    (s.issued c).cores = s.cores ∧ (s.issued c).pegs = s.pegs ∧ (s.issued c).hbm = s.hbm := by
  unfold issued
  extract_lets k u
  split
  · split <;> simp [u]
  · simp [u]

@[simp] theorem core_issued (s : State) (c d : Nat) : (s.issued c).core d = s.core d := by
  simp [core]

theorem nextRow_of_lt {s : State} {c : Nat} (h : (s.core c).row + 1 < (s.core c).rows) :
    s.nextRow c = s.setCore c { s.core c with
      row := (s.core c).row + 1, seq := .run, wait := none
      window := tkeep (fun r => decide ((s.core c).row + 1 ≤ r)) (s.core c).window } :=
  if_pos h

/-- A row that can issue and reads as this trick has the effect the command gives that trick. -/
theorem issue_of_issues {s : State} {c : Nat} {a : Act} {sig : Option Nat} {f : Act → Option Nat → Option (State → State)}
    {g : State → State} (h : Claims.Issues s c a sig) (hf : f a sig = some g) : s.issue c f = g s := by
  obtain ⟨hcan, hfatal, r, hrow, hpoison, hdec⟩ := h
  simp [issue, hcan, hfatal, hrow, hpoison, hdec, hf]

/-- A trick whose engine has a free entry and whose ranges are free enters the queue, and the sequencer goes on. -/
theorem issueEngine_of_free {s : State} {c e opc : Nat} {op : EngOp} {rd wr : List (Nat × Nat)} {sig : Option Nat}
    (hlen : ((s.core c).queue e).length < 4) (hfree : (s.core c).hazardFree rd wr = true) :
    ∃ k : Trick, k.op = op ∧ k.row = (s.core c).row ∧ s.issueEngine c e opc op rd wr sig
      = ((s.issued c).setCore c { (s.core c).setQueue e ((s.core c).queue e ++ [k]) with
          ranges := (s.core c).ranges
            ++ (rd.map (fun r => ⟨r.1, r.2, false, k.id⟩) ++ wr.map (fun r => ⟨r.1, r.2, true, k.id⟩))
          nextId := (s.core c).nextId + 1 }).nextRow c := by
  unfold issueEngine
  extract_lets k peg tr t ents u v
  rw [if_pos ⟨hlen, hfree⟩]
  exact ⟨t, rfl, rfl, by simp [v, u, modCore, k, ents, t]⟩

/-- The engine tricks a command issues are those of its kind. -/
theorem engineTrick_of_issues {s : State} {c e : Nat} {errs : List EccErr} {p : EngOp → Bool} {op : EngOp}
    {rd wr : List (Nat × Nat)} {sig : Option Nat} (hcan : (s.core c).canIssue = true) (hfatal : s.sump.fatal = false)
    (h : Claims.Issues (s.storeErrs c errs) c (.engine e op rd wr) sig) (hp : p op = true) :
    ∃ opc, s.engineTrick c errs p = (s.storeErrs c errs).issueEngine c e opc op rd wr sig := by
  refine ⟨if e < 4 then 0x10 + e else if e < 6 then 0x1C + e else if e = 6 then 0x30 else 0x40, ?_⟩
  rw [engineTrick, if_pos (by simp [hcan, hfatal])]
  exact issue_of_issues (g := fun u => u.issueEngine c e _ op rd wr sig) h (if_pos hp)

end State

/-- All eight engine commands issue in one way; they differ in the kind of trick they take. -/
theorem engineIssues_of_kind {cmd : List EccErr → Instr} {c : Fin 104} {kind : EngOp → Prop} {p : EngOp → Bool}
    (hcmd : ∀ errs s, exec (cmd errs) s = .next (s.engineTrick c errs p)) (hkind : ∀ op, kind op → p op = true) :
    Claims.EngineIssues cmd c kind := by
  intro s errs e op rd wr sig hcan hfatal hiss hop hnext hlen hfree
  obtain ⟨hpegs, hhbm⟩ := s.storeErrs_frame c errs
  obtain ⟨opc, htrick⟩ := State.engineTrick_of_issues hcan hfatal hiss (hkind op hop)
  obtain ⟨k, hkop, hkrow, hissue⟩ := State.issueEngine_of_free (opc := opc) (op := op) (sig := sig) hlen hfree
  refine ⟨_, hcmd errs s, ?_⟩
  rw [htrick, hissue, State.nextRow_of_lt (by simpa [Claims.HasNext, Core.rows, Core.setQueue] using hnext)]
  refine ⟨⟨k, ?_, hkop, hkrow, ?_⟩, ?_, ?_, ?_⟩
  · simp [Core.queue, Core.setQueue]
  · simp
  · simp [Core.setQueue]
  · simpa using hpegs
  · simpa using hhbm

theorem engineTricksIssue : Claims.engineTricksIssue := by
  refine fun c => ⟨engineIssues_of_kind (fun _ _ => rfl) ?_, engineIssues_of_kind (fun _ _ => rfl) ?_,
    engineIssues_of_kind (fun _ _ => rfl) ?_, engineIssues_of_kind (fun _ _ => rfl) fun _ => id,
    engineIssues_of_kind (fun _ _ => rfl) fun _ => id, engineIssues_of_kind (fun _ _ => rfl) fun _ => id,
    engineIssues_of_kind (fun _ _ => rfl) fun _ => id, engineIssues_of_kind (fun _ _ => rfl) fun _ => id⟩
  · rintro _ ⟨l, r, t, m, n, k, st, wb, cv, sd, rfl⟩
    rfl
  · rintro _ ⟨f, sh, a, b, x, d, st, wr, wb, cv, sd, rfl⟩
    rfl
  · rintro _ ⟨f, a, d, cv, sd, rfl⟩
    rfl

/-! ### Start (R120, R142) -/

theorem Core.foldl_setAcc {α : Type} (l : List α) (a : α → Nat) (w : Core → α → WAcc) (k : Core) :
    ∃ acc, l.foldl (fun k x => k.setAcc (a x) (w k x)) k = { k with acc := acc } := by
  induction l generalizing k with
  | nil => exact ⟨_, rfl⟩
  | cons x l ih => exact ih (k.setAcc (a x) (w k x))

/-- A compute trick moves accumulators on, and nothing else of its core before its writes land. -/
theorem runCompute_fst (k : Core) (fr e : Nat) (op : EngOp) : ∃ acc, (runCompute k fr e op).1 = { k with acc := acc } := by
  cases op with
  | mm l r o m n d st w c sd =>
    change ∃ acc, (runMm k fr e l r o m n st w c sd).1 = _
    unfold runMm
    split
    · exact ⟨_, rfl⟩
    · cases o <;> exact ⟨_, rfl⟩
  | vec f sh a b c d st wr w cv sd =>
    change ∃ acc, (runVec k fr e f sh a b c d st w cv sd).1 = _
    unfold runVec
    extract_lets ctl
    split
    · exact Core.foldl_setAcc _ _ _ _
    · exact ⟨_, rfl⟩
    · repeat' split
      all_goals exact ⟨_, rfl⟩
  | tu f a d c sd => exact ⟨_, rfl⟩
  | stream => exact ⟨_, rfl⟩

/-- A compute trick that starts has read its operands, so its entries for them are free. -/
theorem exec_engineTrickStart_compute {s : State} {c : Fin 104} {e : Fin 8} {k : Trick} {rest : List Trick}
    (hpwr : (s.core c).pwr = .run) (hiso : (s.core c).isolated = false) (hfatal : s.sump.fatal = false)
    (hq : (s.core c).queue e = k :: rest) (hrun : k.running = none) (hstop : k.stopped = false) (he : e.val < 7) :
    ∃ acc r, exec (.engineTrickStart c e []) s = .next (({ s with free := s.free + storeSize } : State).setCore c
      { ({ s.core c with acc := acc } : Core).setQueue e ({ k with running := some r } :: rest) with
        ranges := (s.core c).ranges.filter fun x => x.write || decide (x.id ≠ k.id) }) := by
  obtain ⟨acc, hacc⟩ := runCompute_fst (s.core c) s.free e k.op
  change ∃ acc r, execEngineTrickStart c e [] s = _
  simp only [execEngineTrickStart, hq]
  rw [when_of _ _ _ (by simp [hpwr, hiso, hfatal, hrun, hstop])]
  simp only [State.storeErrs, List.foldl_nil, hiso, if_neg he.ne, hacc]
  exact ⟨acc, _, rfl⟩

/-- A stream trick that starts asks for pages ahead, and stands at the head of its queue. -/
theorem exec_engineTrickStart_stream {s : State} {c : Fin 104} {k : Trick} {rest : List Trick}
    (hpwr : (s.core c).pwr = .run) (hiso : (s.core c).isolated = false) (hfatal : s.sump.fatal = false)
    (hq : (s.core c).queue 7 = k :: rest) (hrun : k.running = none) (hstop : k.stopped = false) :
    ∃ u n, KeepsWork s u ∧ exec (.engineTrickStart c 7 []) s
      = .next (u.setCore c ((u.core c).setQueue 7 ({ k with running := some {}, rng := n } :: rest))) := by
  change ∃ u n, _ ∧ execEngineTrickStart c 7 [] s = _
  simp only [execEngineTrickStart, show ((7 : Fin 8) : Nat) = 7 from rfl, hq]
  rw [when_of _ _ _ (by simp [hpwr, hiso, hfatal, hrun, hstop])]
  simp only [State.storeErrs, List.foldl_nil, hiso]
  exact ⟨_, _, (KeepsWork.refl s).prefetchStream, rfl⟩

theorem engineStartFreesReads : Claims.engineStartFreesReads := by
  intro s c e k rest hpwr hiso hfatal hq hrun hstop
  rcases Nat.lt_or_eq_of_le (Nat.le_of_lt_succ e.isLt) with he | he
  · obtain ⟨acc, r, hexec⟩ := exec_engineTrickStart_compute hpwr hiso hfatal hq hrun hstop he
    refine ⟨_, hexec, ⟨r, k.rng, ?_⟩, fun _ x hx hid => ?_, ?_⟩
    · simp [Core.queue, Core.setQueue]
    · exact (show x ∈ (s.core c).ranges ∧ x.write = true by simpa [hid] using hx).2
    · simp [Core.setQueue]
  · obtain rfl : e = 7 := Fin.ext he
    obtain ⟨u, n, hu, hexec⟩ := exec_engineTrickStart_stream hpwr hiso hfatal hq hrun hstop
    exact ⟨_, hexec, ⟨{}, n, by simp⟩, fun h => absurd h (by decide), by simpa [Core.setQueue] using hu.store c⟩

/-! ### Completion (R179) -/

/-- What is left of a trick's completion after its SIG has set out takes no signal back. -/
theorem State.signal_mem_retire {s : State} {c e p : Nat} {k : Trick} (h : k.sig = some p) :
    (p, PegOp.signal 1) ∈ (s.retire c e k).pegOps := by
  unfold State.retire
  extract_lets u v w
  have hv : (p, PegOp.signal 1) ∈ v.pegOps := by simp [v, h]
  have hw : KeepsWork v w := .ite (KeepsWork.refl v).trcCore (KeepsWork.refl v)
  exact hw.settle.signal hv

theorem State.signal_mem_landCompute {s : State} {c e p : Nat} {k : Trick} {r : Running} {f : EngFault}
    (h : k.sig = some p) : (p, PegOp.signal 1) ∈ (s.landCompute c e k r f).pegOps := by
  unfold State.landCompute
  extract_lets q kind r' put u v w
  have hv : (p, PegOp.signal 1) ∈ v.pegOps := State.signal_mem_retire h
  have hw : KeepsWork v w := .ite (KeepsWork.refl v).raiseEcc (KeepsWork.refl v).raise
  split
  · split
    · exact hw.suspend.signal hv
    · exact hw.signal hv
  · exact hv

theorem exec_trickComplete_compute {s : State} {c : Fin 104} {e : Fin 8} {f : EngFault} {cc : List (Fin 4096 × SliceErr)}
    {fills : List HostFill} {k : Trick} {rest : List Trick} {r : Running} (hpwr : (s.core c).pwr = .run)
    (hiso : (s.core c).isolated = false) (hfatal : s.sump.fatal = false) (he : e.val < 7)
    (hq : (s.core c).queue e = k :: rest) (hrun : k.running = some r) (hstop : k.stopped = false) :
    exec (.trickComplete c e f cc fills) s = .next (s.landCompute c e k r f) := by
  change execTrickComplete c e f cc fills s = _
  unfold execTrickComplete
  simp only [hq, hrun]
  refine (when_of _ _ _ ?_).trans ?_
  · simp [hpwr, hiso, hfatal, hstop]
  · rw [if_pos he]

theorem trickCompletionSignals : Claims.trickCompletionSignals :=
  fun _ _ _ _ _ _ _ _ _ _ hpwr hiso hfatal he hq hrun hstop hsig =>
    ⟨_, exec_trickComplete_compute hpwr hiso hfatal he hq hrun hstop, State.signal_mem_landCompute hsig⟩

/-! ### A lane out of range (R162, R163, R178) -/

/-- A run of the stream engine that ends at an index lane leaves its trick at the head of the queue. -/
theorem State.queue_streamRun_of_index {s : State} {c : Fin 104} {fills : List HostFill} {k : Trick} {rest : List Trick}
    {m n : Nat} (hq : (s.core c).queue 7 = k :: rest) (h : (s.streamRun c fills m).1 = .index n) :
    ∃ k', ((s.streamRun c fills m).2.core c).queue 7 = k' :: rest := by
  generalize ho : s.streamRun c fills m = o at h ⊢
  simp only [State.streamRun, hq] at ho
  split at ho
  · split at ho
    · subst ho
      cases h
    · subst ho
      dsimp only at h
      simp [h]
  · subst ho
    cases h

/-- A sequencer fault of a core that runs no context is recorded and reported, and suspends nothing. -/
theorem State.seqFault_of_free {s : State} {c reason row : Nat} (h : (s.core c).ctx = none) :
    s.seqFault c reason row
      = ((s.setCfg (Reg.SEQ_FAULT (c / 26) (c % 26)) (BitVec.ofNat 32 (2 ^ 31 + reason * 65536 + row))).setCore c
          { s.core c with seq := .fault, wait := none }).raise (srcCore c 2) 0x016 none 0 0 reason := by
  simp [State.seqFault, h]

/-- The trick whose lane is out of range stops at the head of its queue, and the sequencer takes the fault. -/
theorem exec_indexLaneFault {s : State} {c : Fin 104} {fills : List HostFill} {k : Trick} {rest : List Trick} {n : Nat}
    (hpwr : (s.core c).pwr = .run) (hiso : (s.core c).isolated = false) (hfatal : s.sump.fatal = false)
    (hq : (s.core c).queue 7 = k :: rest) (hstop : k.stopped = false)
    (hrun : (s.streamRun c fills k.op.streamRows).1 = .index n) :
    ∃ k', exec (.indexLaneFault c [] fills) s = .next
      (((s.streamRun c fills k.op.streamRows).2.modCore c fun q => q.setQueue 7 (k' :: rest)).seqFault c n k.row) := by
  obtain ⟨k', hq'⟩ := State.queue_streamRun_of_index hq hrun
  refine ⟨{ k' with stopped := true }, ?_⟩
  change execIndexLaneFault c [] fills s = _
  unfold execIndexLaneFault
  simp only [hq]
  refine (when_of _ _ _ ?_).trans ?_
  · simp [hpwr, hiso, hfatal, hstop]
  · simp only [State.ccErrs, List.foldl_nil, hrun, State.modCore, hq']

theorem indexLaneFaultStops : Claims.indexLaneFaultStops := by
  intro s c fills k rest n hpwr hiso hfatal hq hstop hrun hctx
  obtain ⟨k', hexec⟩ := exec_indexLaneFault hpwr hiso hfatal hq hstop hrun
  rw [State.seqFault_of_free (by simpa [Core.setQueue] using hctx)] at hexec
  exact ⟨_, hexec, by simp, by simp, by simp [Core.queue, Core.setQueue]⟩

/-- Settles O11: all engine commands issue through `engineTrick`; a start is its one update of the core, beside prefetches that
keep every store (`KeepsWork`); no step after the SIG of a completion takes a signal back; and the stream engine stands at the
index lane with its trick still queued. -/
theorem engineTricksIssueStartAndComplete : Obligations.EngineTricksIssueStartAndComplete :=
  ⟨engineTricksIssue, engineStartFreesReads, trickCompletionSignals, indexLaneFaultStops⟩

end Sys2Proof.Machine

namespace Sys2Proof.Machine

/-!
Control tricks, peg tricks and the ends of hands (R161, R181 to R190, R192, R194 to R196, R213, R337). A trick that issues has
the effect its command gives it (`completes_of_issues`), and most effects end in one transfer of the sequencer to a row: what
such a transfer leaves is said once (`Claims.at_goto`, `Claims.at_nextRow`), over what a trick has done to the open calls and
loops before it (`OnlyStacks`).
-/

namespace State

/-! ### What named updates leave of pegs' operations, contexts and cores -/

theorem trcPut_pegOps_ctx (s : State) (r : Nat) (w : QWord) :
    (s.trcPut r w).pegOps = s.pegOps ∧ (s.trcPut r w).ctx = s.ctx := by
  unfold trcPut
  dsimp only
  split <;> simp

theorem trcStore_pegOps_ctx (s : State) (r ty core eng data : Nat) :
    (s.trcStore r ty core eng data).pegOps = s.pegOps ∧ (s.trcStore r ty core eng data).ctx = s.ctx := by
  unfold trcStore
  extract_lets u t room need dropped counted noted kept v
  have hv : v.pegOps = s.pegOps ∧ v.ctx = s.ctx := by
    unfold v
    split <;> simp [noted, u, trcPut_pegOps_ctx]
  split
  · simp [counted, u]
  · simpa [trcPut_pegOps_ctx] using hv

@[simp] theorem trcCore_pegOps_ctx (s : State) (c ty eng data : Nat) :
    (s.trcCore c ty eng data).pegOps = s.pegOps ∧ (s.trcCore c ty eng data).ctx = s.ctx := by
  unfold trcCore
  split <;> simp [trcStore_pegOps_ctx]

@[simp] theorem trcMark_pegOps_ctx (s : State) (c : Nat) (sleep : Bool) (p : Pwr) :
    (s.trcMark c sleep p).pegOps = s.pegOps ∧ (s.trcMark c sleep p).ctx = s.ctx := by
  unfold trcMark
  split <;> simp [trcStore_pegOps_ctx]

@[simp] theorem issued_pegOps_ctx (s : State) (c : Nat) :
    (s.issued c).pegOps = s.pegOps ∧ (s.issued c).ctx = s.ctx := by
  unfold issued
  extract_lets k u
  split
  · split <;> simp [u]
  · simp [u]

@[simp] theorem core_trcCore (s : State) (c ty eng data d : Nat) : (s.trcCore c ty eng data).core d = s.core d := by
  simp [core]

@[simp] theorem core_pegDo (s : State) (p : Nat) (op : PegOp) (d : Nat) : (s.pegDo p op).core d = s.core d := rfl

@[simp] theorem core_unwait (s : State) (w : Waiter) (d : Nat) : (s.unwait w).core d = s.core d := rfl

@[simp] theorem core_setCtx (s : State) (x : Nat) (k : Ctx) (d : Nat) : (s.setCtx x k).core d = s.core d := rfl

@[simp] theorem core_modCtx (s : State) (x : Nat) (f : Ctx → Ctx) (d : Nat) : (s.modCtx x f).core d = s.core d := rfl

@[simp] theorem context_setCore (s : State) (c : Nat) (k : Core) (x : Nat) : (s.setCore c k).context x = s.context x := rfl

@[simp] theorem context_modCore (s : State) (c : Nat) (f : Core → Core) (x : Nat) :
    (s.modCore c f).context x = s.context x := rfl

@[simp] theorem context_modCtx (s : State) (x : Nat) (f : Ctx → Ctx) (y : Nat) :
    (s.modCtx x f).context y = if y = x then f (s.context x) else s.context y :=
  context_setCtx s x _ y

@[simp] theorem context_issued (s : State) (c x : Nat) : (s.issued c).context x = s.context x := by
  simp [context]

/-! ### Transfers of the sequencer (R181) -/

theorem goto_of_lt {s : State} {c target : Nat} {keep : Bool} (h : target < (s.core c).rows) :
    s.goto c target keep = s.setCore c { s.core c with
      row := target, seq := .run, wait := none
      window := if keep then tkeep (fun r => decide (target ≤ r)) (s.core c).window else [] } :=
  if_pos h

end State

/-- Before its transfer, a trick has changed the open calls and loops of its core and nothing else that its claim speaks of. -/
def OnlyStacks (s u : State) (c : Nat) (calls : List Nat) (loops : List LoopEnt) : Prop :=
  u.core c = { s.core c with calls := calls, loops := loops } ∧ (∀ d, d ≠ c → u.core d = s.core d) ∧ u.pegs = s.pegs
    ∧ u.hbm = s.hbm

section

variable {s u : State} {c : Nat} {calls : List Nat} {loops : List LoopEnt}

theorem Claims.at_goto {target : Nat} {keep : Bool} (h : OnlyStacks s u c calls loops) (hlt : target < (s.core c).rows) :
    Claims.At s (u.goto c target keep) c target calls loops := by
  obtain ⟨hc, hd, hp, hh⟩ := h
  rw [State.goto_of_lt (by rwa [hc])]
  simpa +contextual [Claims.At, hc, hp, hh] using hd

theorem Claims.at_nextRow (h : OnlyStacks s u c calls loops) (hn : Claims.HasNext s c) :
    Claims.At s (u.nextRow c) c ((s.core c).row + 1) calls loops := by
  obtain ⟨hc, -, -, -⟩ := id h
  rw [State.nextRow, show (u.core c).row = (s.core c).row by rw [hc]]
  exact Claims.at_goto h hn

/-- A transfer that keeps no rows leaves the window empty. -/
theorem window_goto {target : Nat} (h : OnlyStacks s u c calls loops) (hlt : target < (s.core c).rows) :
    ((u.goto c target false).core c).window = [] := by
  obtain ⟨hc, -, -, -⟩ := h
  rw [State.goto_of_lt (by rwa [hc])]
  simp

/-- Going on at the next row changes neither contexts nor what is on its way to a peg. -/
theorem nextRow_pegOps_context (h : OnlyStacks s u c calls loops) (hn : Claims.HasNext s c) :
    (u.nextRow c).pegOps = u.pegOps ∧ ∀ x, (u.nextRow c).context x = u.context x := by
  obtain ⟨hc, -, -, -⟩ := h
  rw [State.nextRow_of_lt (by rwa [hc])]
  simp

/-- A row that issues as this trick has the effect that its command gives the trick. -/
theorem completes_of_issues {cmd : Instr} {a : Act} {sig : Option Nat} {f : Act → Option Nat → Option (State → State)}
    {g : State → State} {P : State → Prop} (h : Claims.Issues s c a sig) (hcmd : exec cmd s = .next (s.issue c f))
    (hf : f a sig = some g) (hP : P (g s)) : Claims.Completes cmd s P :=
  ⟨_, hcmd.trans (congrArg _ (State.issue_of_issues h hf)), hP⟩

end

/-! ### NOP, HALT and TFENCE (R161, R187, R192) -/

theorem nopHaltTfence : Claims.nopHaltTfence := by
  refine fun s c sig => ⟨fun h hn => ?_, fun h => ?_, fun h hn hw => ?_⟩
  · exact completes_of_issues h rfl rfl (Claims.at_nextRow (by simp +contextual [OnlyStacks]) hn)
  · exact completes_of_issues h rfl rfl (by simp)
  · refine completes_of_issues h rfl rfl ?_
    rw [if_neg (by simp [hw])]
    have hu : OnlyStacks s ((s.issued c).bump (Reg.SEQ_TFENCE_CNT (c / 26) (c % 26))) c (s.core c).calls (s.core c).loops := by
      simp +contextual [OnlyStacks]
    exact ⟨Claims.at_goto hu hn, window_goto hu hn⟩

/-! ### Loops and calls (R181) -/

/-- A call opens a sub-table that ends at the next row. -/
theorem Claims.at_callTo {s u : State} {c target : Nat} (h : OnlyStacks s u c (s.core c).calls (s.core c).loops)
    (hlt : target < (s.core c).rows) :
    Claims.At s (u.callTo c target) c target (((s.core c).row + 1) :: (s.core c).calls) (s.core c).loops := by
  obtain ⟨hc, hd, hp, hh⟩ := h
  exact Claims.at_goto (by simpa +contextual [OnlyStacks, hc, hp, hh] using hd) hlt

theorem loopsAndCalls : Claims.loopsAndCalls := by
  refine fun s c sig => ⟨fun n h hn hlen => ?_, fun l ls h hl hdepth hmore hlt => ?_, fun l ls h hl hdepth hlast hn => ?_,
    fun n h hlen hlt => ?_, fun r rs h hcalls hlt hloops => ?_⟩
  · refine completes_of_issues h rfl rfl ?_
    dsimp only
    rw [if_neg (by omega)]
    exact Claims.at_nextRow (by simp +contextual [OnlyStacks]) hn
  · refine completes_of_issues h rfl rfl ?_
    simp only [hl]
    rw [if_neg (by simpa using hdepth), if_pos (by omega)]
    exact Claims.at_goto (by simp +contextual [OnlyStacks]) hlt
  · refine completes_of_issues h rfl rfl ?_
    simp only [hl]
    rw [if_neg (by simpa using hdepth), if_neg (by omega)]
    exact Claims.at_nextRow (by simp +contextual [OnlyStacks]) hn
  · refine completes_of_issues h rfl rfl ?_
    rw [if_neg (by omega)]
    exact Claims.at_callTo (by simp +contextual [OnlyStacks]) hlt
  · refine completes_of_issues h rfl rfl ?_
    simp only [hcalls] at hloops ⊢
    rw [if_neg (Bool.eq_false_iff.1 hloops)]
    exact Claims.at_goto (by simp +contextual [OnlyStacks]) hlt

/-! ### Waits and deadlines (R182 to R184) -/

/-- A deadline that is met goes on at the next row. -/
theorem Claims.at_deadlineEnd_met {s : State} {c fb : Nat} (hn : Claims.HasNext s c) :
    Claims.At s (s.deadlineEnd c fb true) c ((s.core c).row + 1) (s.core c).calls (s.core c).loops := by
  unfold State.deadlineEnd
  extract_lets k tr u
  rw [if_pos rfl]
  refine Claims.at_nextRow ?_ hn
  unfold u
  split <;> simp +contextual [OnlyStacks]

/-- One that is missed calls its fallback sub-table. -/
theorem Claims.at_deadlineEnd_missed {s : State} {c fb : Nat} (hlen : (s.core c).calls.length < 8)
    (hfb : fb < (s.core c).rows) :
    Claims.At s (s.deadlineEnd c fb false) c fb (((s.core c).row + 1) :: (s.core c).calls) (s.core c).loops := by
  unfold State.deadlineEnd
  extract_lets k tr u v
  rw [if_neg (by decide), if_neg hlen.ne]
  refine Claims.at_callTo ?_ hfb
  unfold v u
  split <;> simp +contextual [OnlyStacks]

theorem waitsAndDeadlines : Claims.waitsAndDeadlines := by
  refine fun s c sig => ⟨fun p d h hp => ?_, fun n h hcount hn hle => ?_, fun n h hlt => ?_, fun p q fb n h hq hlt => ?_,
    fun p q fb n h hq hcount hle hn hready => ?_, fun p q fb n h hq hcount hle hlen hfb hready => ?_⟩
  · refine completes_of_issues h rfl rfl ?_
    simp [hp]
  · refine completes_of_issues h rfl rfl ?_
    dsimp only
    rw [if_pos ⟨hcount, hle⟩]
    exact Claims.at_nextRow (by simp +contextual [OnlyStacks]) hn
  · refine completes_of_issues h rfl rfl ?_
    dsimp only
    rw [if_neg (by omega)]
    simp
  · refine completes_of_issues h rfl rfl ?_
    simp only [hq]
    rw [if_neg (by omega)]
    simp
  · refine completes_of_issues h rfl rfl ?_
    simp only [hq]
    rw [if_pos ⟨hcount, hle⟩, hready]
    exact Claims.at_deadlineEnd_met hn
  · refine completes_of_issues h rfl rfl ?_
    simp only [hq]
    rw [if_pos ⟨hcount, hle⟩, hready]
    exact Claims.at_deadlineEnd_missed hlen hfb

/-- Settles O9: a control trick is its update of the open calls and loops (`OnlyStacks`) and one transfer of the sequencer, and
a wait that does not end at once is one update of the core. -/
theorem controlTricksAndWaits : Obligations.ControlTricksAndWaits :=
  ⟨nopHaltTfence, loopsAndCalls, waitsAndDeadlines⟩

/-! ### PSIG, PARM and PRESET (R184, R213) -/

/-- A trick whose effect is to send one operation to a peg. -/
theorem completes_of_pegDo {s : State} {c d : Nat} {cmd : Instr} {a : Act} {sig : Option Nat}
    {f : Act → Option Nat → Option (State → State)} {g : State → State} {op : PegOp} (h : Claims.Issues s c a sig)
    (hn : Claims.HasNext s c) (hcmd : exec cmd s = .next (s.issue c f)) (hf : f a sig = some g)
    (hg : g s = ((s.issued c).pegDo d op).nextRow c) :
    Claims.Completes cmd s fun t =>
      t.pegOps = s.pegOps ++ [(d, op)] ∧ Claims.At s t c ((s.core c).row + 1) (s.core c).calls (s.core c).loops := by
  have hu : OnlyStacks s ((s.issued c).pegDo d op) c (s.core c).calls (s.core c).loops := by simp +contextual [OnlyStacks]
  refine completes_of_issues h hcmd hf ?_
  rw [hg]
  exact ⟨by simp [nextRow_pegOps_context hu hn], Claims.at_nextRow hu hn⟩

theorem pegTricksSendOperations : Claims.pegTricksSendOperations := by
  refine fun s c sig p d hn hp => ⟨fun n h => ?_, fun x h => ?_, fun h => ?_⟩
  · exact completes_of_pegDo h hn rfl rfl (by simp only [hp])
  · exact completes_of_pegDo h hn rfl rfl (by simp only [hp])
  · exact completes_of_pegDo h hn rfl rfl (by simp only [hp])

/-! ### ENQ, PHASE and TMARK (R185, R186, R337) -/

/-- While Rounds run, a request for an operating point waits for the next boundary. -/
theorem State.opNow_of_on {s : State} (h : s.round.state ≠ .off) : s.opNow = s :=
  if_neg h

theorem SameRound.state {s t : State} (h : SameRound s t) : t.round.state = s.round.state := by
  obtain ⟨p, hp⟩ := h
  rw [hp]

theorem enqPhaseTmark : Claims.enqPhaseTmark := by
  refine fun s c sig => ⟨fun cls u base len h hw => ?_, fun n x h hn hx hon => ?_, fun g v h hn => ?_⟩
  · refine completes_of_issues h rfl rfl ?_
    dsimp only
    rw [if_neg (by simp [hw])]
    refine ⟨⟨_, by rw [State.core_setCore, if_pos rfl], fun h2 => ?_, fun hlt => ?_⟩, by simp⟩
    · simp [h2]
    · obtain rfl | rfl : cls = 0 ∨ cls = 1 := by omega
      · simp
      · simp
  · refine completes_of_issues h rfl rfl ?_
    simp only [hx]
    have hround : SameRound s (((s.modCtx x fun k => { k with op := n }).issued c).nextRow c) :=
      (SameRound.refl s).modCtx.issued.nextRow
    rw [State.opNow_of_on (by rwa [hround.state])]
    have hu : OnlyStacks s ((s.modCtx x fun k => { k with op := n }).issued c) c (s.core c).calls (s.core c).loops := by
      simp +contextual [OnlyStacks]
    exact ⟨by simp [nextRow_pegOps_context hu hn], Claims.at_nextRow hu hn⟩
  · exact completes_of_issues h rfl rfl (Claims.at_nextRow (by simp +contextual [OnlyStacks]) hn)

/-! ### Row capture (R189, R190, R194) -/

/-- Rows that enter a window read as what entered; the others read as before. -/
theorem tfind_foldl_tput {α : Type} (f : Nat → α) (rows : List Nat) (w : Tbl α) (r : Nat) :
    tfind (rows.foldl (fun w q => tput q (f q) w) w) r = if r ∈ rows then some (f r) else tfind w r := by
  induction rows generalizing w with
  | nil => simp
  | cons q rows ih =>
    rw [List.foldl_cons, ih, tfind_tput]
    by_cases hr : r ∈ rows <;> by_cases hq : r = q <;> simp [hr, hq]

theorem rowCaptureReadsTheTable : Claims.rowCaptureReadsTheTable := by
  intro s c r hpwr hiso hhalt hseq hfatal hr hw
  change ∃ t, execRowCapture c [] s = .next t ∧ _
  unfold execRowCapture
  rw [when_of _ _ _ (by simp [hpwr, hiso, hhalt, hseq, hfatal])]
  refine ⟨_, rfl, ?_, ?_, ?_⟩
  · simp [State.storeErrs, tfind_foldl_tput, hr, hw]
  · simp [State.storeErrs]
  · simp [State.storeErrs]

/-- Settles O10: a peg trick appends its operation and moves on, ENQ and PHASE are one update of the core and of its context,
and a capture puts rows into the window one by one. -/
theorem pegAndOtherTricksIssue : Obligations.PegAndOtherTricksIssue :=
  ⟨pegTricksSendOperations, enqPhaseTmark, rowCaptureReadsTheTable⟩

/-! ### The end of a hand (R187) -/

/-- The cores of a hand are found by their bindings and contexts alone. -/
theorem State.coresOf_modCore {s : State} {c : Nat} {f : Core → Core}
    (hf : ∀ k, (f k).lcore = k.lcore ∧ (f k).ctx = k.ctx) (x : Nat) : (s.modCore c f).coresOf x = s.coresOf x := by
  have hcore (d : Nat) :
      ((s.modCore c f).core d).lcore = (s.core d).lcore ∧ ((s.modCore c f).core d).ctx = (s.core d).ctx := by
    rw [State.core_modCore]
    split
    · next h =>
      rw [h]
      exact hf _
    · exact ⟨rfl, rfl⟩
  simp only [State.coresOf, State.coreOf, hcore]

@[simp] theorem State.coresOf_modCtx (s : State) (x : Nat) (f : Ctx → Ctx) (y : Nat) :
    (s.modCtx x f).coresOf y = s.coresOf y := rfl

theorem State.handDone_of_not_halted {s : State} {x d : Nat} (hd : d ∈ s.coresOf x) (hq : (s.core d).seq ≠ .halted) :
    s.handDone x = s :=
  if_neg fun ⟨_, _, hall⟩ => hq (by simpa using List.all_eq_true.1 hall d hd)

/-- A hand of one core, with no record to write, ends when that core has halted: the core and the context are free. -/
theorem State.handDone_of_only_core {s : State} {x c : Nat} (hcs : s.coresOf x = [c]) (hq : (s.core c).seq = .halted)
    (hrun : (s.context x).state = .running) (hpre : (s.context x).preempt = none) (hlaunch : (s.context x).launch = none) :
    ((s.handDone x).context x).state = .empty ∧ ((s.handDone x).core c).seq = .idle ∧ ((s.handDone x).core c).ctx = none := by
  simp [State.handDone, State.handEnd, State.releaseCores, hcs, hq, hrun, hpre, hlaunch]

theorem exec_halted {s : State} {c : Fin 104} {x : Nat} (hfatal : s.sump.fatal = false) (hhalt : (s.core c).halt = true)
    (hseq : (s.core c).seq = .run) (hstop : (s.core c).stop = none) (hiso : (s.core c).isolated = false)
    (hidle : (s.core c).enginesIdle = true) (hx : (s.core c).ctx = some x) :
    exec (.halted c) s = .next (((s.modCore c fun k => { k with seq := .halted }).modCtx x fun k =>
      { k with lastHalt := s.rnd }).handDone x) := by
  change execHalted c s = _
  unfold execHalted
  refine (when_of _ _ _ ?_).trans ?_
  · simp [hfatal, hhalt, hseq, hstop, hiso, hidle]
  · simp only [hx]
    rfl

/-! ### The boundary of a stop (R195, R196) -/

theorem Core.queue_of_enginesIdle {k : Core} {e : Nat} (h : k.enginesIdle = true) (he : e < 8) : k.queue e = [] := by
  simpa using List.all_eq_true.1 h e (List.mem_range.2 he)

theorem Core.drained_of_enginesIdle {k : Core} (h : k.enginesIdle = true) : k.drained = true := by
  have hcompute : k.computeIdle = true :=
    List.all_eq_true.2 fun e he => by
      simp [Core.queue_of_enginesIdle h (Nat.lt_succ_of_lt (List.mem_range.1 he))]
  simp [Core.drained, hcompute, Core.queue_of_enginesIdle h (e := 7)]

namespace State

theorem core_wakeClock (s : State) (c d : Nat) : (s.wakeClock c).core d
    = if d = c then { s.core c with pwr := if (s.core c).pwr = .clockStop then .run else (s.core c).pwr } else s.core d := by
  unfold wakeClock
  split
  · simp
  · split
    · next h => rw [h]
    · rfl

theorem core_park (s : State) (c : Nat) : (s.park c).core c = { s.core c with
    parked := true, wait := none, enq := none
    pwr := if (s.core c).pwr = .clockStop then .run else (s.core c).pwr } := by
  simp [park, core_wakeClock]

theorem context_park (s : State) (c x : Nat) : (s.park c).context x = s.context x := by
  have hctx : (s.wakeClock c).ctx = s.ctx := by
    unfold wakeClock
    split <;> simp
  simp [park, context, unwait, hctx]

/-- A stream engine with nothing to do moves no row. -/
theorem streamRun_of_idle {s : State} {c : Fin 104} {fills : List HostFill} {n : Nat} (h : (s.core c).queue 7 = []) :
    s.streamRun c fills n = (.wait, s) := by
  simp [streamRun, h]

/-- A context that is being preempted has no cancel to complete. -/
theorem cancelDone_of_preempting {s : State} {x : Nat} (h : (s.context x).state = .preempting) : s.cancelDone x = s := by
  simp [cancelDone, h]

theorem settle_of_drained {s : State} {c x : Nat} (hp : (s.core c).parked = true) (hd : (s.core c).drained = true)
    (hq : (s.core c).seq = .draining) (hx : (s.core c).ctx = some x) :
    s.settle c = (s.setCore c { s.core c with seq := .suspended }).cancelDone x := by
  simp [settle, hp, hd, hq, hx]

end State

/-- At the boundary of a preemption, a core whose engines are empty only parks and settles. -/
theorem exec_preemptionBoundary_idle {s : State} {c : Fin 104} {n : Nat} {fills : List HostFill}
    (hstop : (s.core c).stop = some .preempt) (hiso : (s.core c).isolated = false) (hfatal : s.sump.fatal = false)
    (hidle : (s.core c).enginesIdle = true) :
    exec (.preemptionBoundary c n [] fills) s
      = .next (((s.park c).setCore c ((s.park c).core c)).settle c) := by
  have hq : ((s.park c).core c).queue 7 = [] := by
    rw [State.core_park]
    exact Core.queue_of_enginesIdle hidle (by decide)
  change execPreemptionBoundary c n [] fills s = _
  unfold execPreemptionBoundary
  refine (when_of _ _ _ ?_).trans ?_
  · simp [hstop, hiso, hfatal]
  · simp [State.ccErrs, State.streamRun_of_idle hq, State.modCore, hq, hstop]

/-- Settles O12: a halt frees the hand once no core is left to halt, and the boundary of a drained core is its parking and its
suspension, which complete no cancel. -/
theorem haltedAndSuspended : Obligations.HaltedAndSuspended := by
  refine ⟨fun s c x d hfatal hhalt hseq hstop hiso hidle hx hd hne hq => ?_,
    fun s c x hfatal hhalt hseq hstop hiso hidle hx hcs hrun hpre hlaunch => ?_,
    fun s c x n fills hx hctx _ hstop hiso hfatal hseq hidle => ?_⟩
  · refine ⟨_, exec_halted hfatal hhalt hseq hstop hiso hidle hx, ?_⟩
    rw [State.handDone_of_not_halted (d := d)]
    · simp
    · rwa [State.coresOf_modCtx, State.coresOf_modCore (by exact fun _ => ⟨rfl, rfl⟩)]
    · simpa [hne] using hq
  · refine ⟨_, exec_halted hfatal hhalt hseq hstop hiso hidle hx, State.handDone_of_only_core ?_ ?_ ?_ ?_ ?_⟩
    · rwa [State.coresOf_modCtx, State.coresOf_modCore (by exact fun _ => ⟨rfl, rfl⟩)]
    · simp
    · simpa using hrun
    · simpa using hpre
    · simpa using hlaunch
  · refine ⟨_, exec_preemptionBoundary_idle hstop hiso hfatal hidle, ?_⟩
    have hdrained : ((s.park c).core c).drained = true := by
      rw [State.core_park]
      exact Core.drained_of_enginesIdle hidle
    rw [State.settle_of_drained (x := x), State.cancelDone_of_preempting]
    · simp [State.core_park]
    · simpa [State.context_park] using hctx
    · simp [State.core_park]
    · simpa using hdrained
    · simpa [State.core_park] using hseq
    · simpa [State.core_park] using hx

end Sys2Proof.Machine

namespace Sys2Proof.Machine

/-!
One fabric cycle at a peg, and readiness that reaches a waiting sequencer (R183, R188, R209 to R211, R218, R222). RESET comes
first, so the signals and the arm of a cycle meet what it left (`Peg.start`), and each field of the new peg has one rule over
it. A wait that readiness ends goes on at the next row, whichever row it stands at (`State.releaseWait_of_wait_on_peg`).
-/

/-! ### The operations of one cycle (R210, R211) -/

/-- A cycle without signals has the sum 0. -/
theorem pegSum_fst_of_no_signals {ops : List PegOp} (h : (pegSum ops).2 = 0) : (pegSum ops).1 = 0 := by
  induction ops with
  | nil => rfl
  | cons o ops ih =>
    cases o with
    | signal a => simp [pegSum] at h
    | arm x k => exact ih h
    | reset => exact ih h
    | wait w => exact ih h
    | unwait w => exact ih h

namespace Peg

/-- The peg that the signals and the arm of a cycle meet: RESET comes before them, wherever it stands. -/
def start (p : Peg) (ops : List PegOp) : Peg := if PegOp.reset ∈ ops then {} else p

theorem start_of_reset {p : Peg} {ops : List PegOp} (h : PegOp.reset ∈ ops) : p.start ops = {} := if_pos h

theorem start_of_no_reset {p : Peg} {ops : List PegOp} (h : PegOp.reset ∉ ops) : p.start ops = p := if_neg h

/-- An arm sets neither the count nor the poison: these are as the signals leave them. -/
theorem count_poison_after (p : Peg) (ops : List PegOp) :
    (p.after ops).count = (if (p.start ops).poison = true ∨ (pegSum ops).2 = 0 then (p.start ops).count
        else min ((p.start ops).count + (pegSum ops).1) 0xFFFFFFFF)
      ∧ (p.after ops).poison = (p.start ops).poison := by
  unfold after
  extract_lets b sum q
  have hq : q.count = (if b.poison = true ∨ sum.2 = 0 then b.count else min (b.count + sum.1) 0xFFFFFFFF)
      ∧ q.poison = b.poison := by
    unfold q
    split <;> exact ⟨rfl, rfl⟩
  split <;> exact hq

theorem poison_after (p : Peg) (ops : List PegOp) : (p.after ops).poison = (p.start ops).poison :=
  (p.count_poison_after ops).2

/-- A poisoned peg takes no signal (R222). -/
theorem count_after_of_poison {p : Peg} {ops : List PegOp} (h : (p.start ops).poison = true) :
    (p.after ops).count = (p.start ops).count :=
  (p.count_poison_after ops).1.trans (if_pos (.inl h))

/-- A peg without poison takes the signals as one sum, which saturates. -/
theorem count_after_of_clean {p : Peg} {ops : List PegOp} (hp : (p.start ops).poison = false)
    (hc : (p.start ops).count ≤ 0xFFFFFFFF) :
    (p.after ops).count = min ((p.start ops).count + (pegSum ops).1) 0xFFFFFFFF := by
  rw [(p.count_poison_after ops).1]
  split
  case isTrue h =>
    have hnone : (pegSum ops).2 = 0 := by simpa [hp] using h
    rw [pegSum_fst_of_no_signals hnone, Nat.add_zero, Nat.min_eq_left hc]
  case isFalse => rfl

/-- The arm comes last: the peg is armed with its target whatever came before. -/
theorem target_armed_after {p : Peg} {ops : List PegOp} {x o : Nat} (h : pegArm ops = some (x, o)) :
    (p.after ops).target = x ∧ (p.after ops).armed = true := by
  simp [after, h]

end Peg

namespace State

/-! ### The cycle at its peg (R211) -/

/-- A cycle changes the one peg, and nothing of the operations that are still on their way. -/
theorem pegCycle_pegs_pegOps (s : State) (p : Nat) (ops : List PegOp) :
    (s.pegCycle p ops).pegs = (s.setPeg p ((s.peg p).after ops)).pegs ∧ (s.pegCycle p ops).pegOps = s.pegOps := by
  unfold pegCycle
  extract_lets r old base sum new u c v w out z
  have hv : v.pegs = u.pegs ∧ v.pegOps = s.pegOps := by
    unfold v
    split
    · simp [u]
    · split <;> simp [c, u]
  split <;> simpa [z] using hv

@[simp] theorem pegOps_pegCycle (s : State) (p : Nat) (ops : List PegOp) : (s.pegCycle p ops).pegOps = s.pegOps :=
  (s.pegCycle_pegs_pegOps p ops).2

@[simp] theorem peg_pegCycle (s : State) (p : Nat) (ops : List PegOp) (q : Nat) :
    (s.pegCycle p ops).peg q = if q = p then (s.peg p).after ops else s.peg q := by
  rw [← peg_setPeg, peg, (s.pegCycle_pegs_pegOps p ops).1, ← peg]

/-- A peg that is ready after its cycle keeps no waiter. -/
theorem not_mem_waits_pegCycle {s : State} {p : Nat} {ops : List PegOp} (h : ((s.peg p).after ops).ready = true) (w : Waiter) :
    (p, w) ∉ (s.pegCycle p ops).waits := by
  unfold pegCycle
  extract_lets r old base sum new u c v w' out z
  rw [if_pos h]
  simp

end State

/-- The operations that a cycle takes meet the peg, and the others stay on their way. -/
theorem exec_pegOperations {s : State} {p : Fin 32768} {n : Nat} {ops : List PegOp} {rest : List (Nat × PegOp)}
    (htake : pegTake p n s.pegOps = (ops, rest)) (hne : ops ≠ []) :
    exec (.pegOperations p n none) s = .next (({ s with pegOps := rest } : State).pegCycle p ops) := by
  change execPegOperations p n none s = _
  simp only [execPegOperations, htake]
  exact when_of _ _ _ (by simpa using hne)

theorem pegCycleOrder : Claims.pegCycleOrder := by
  intro s p n ops rest htake hne
  have hpeg : (({ s with pegOps := rest } : State).pegCycle p ops).peg p = (s.peg p).after ops :=
    (State.peg_pegCycle _ _ _ _).trans (if_pos rfl)
  refine ⟨_, exec_pegOperations htake hne, State.pegOps_pegCycle _ _ _, fun q hq => ?_, fun hreset => ?_,
    fun hreset hpoison hcount => ?_, fun hreset hpoison => ?_, fun x o harm => ?_, fun hready => ?_⟩
  · exact (State.peg_pegCycle _ _ _ _).trans (if_neg hq)
  · have hstart := Peg.start_of_reset (p := s.peg p) hreset
    rw [hpeg, Peg.poison_after, Peg.count_after_of_clean (by rw [hstart]) (by simp [hstart]), hstart]
    simp
  · have hstart := Peg.start_of_no_reset (p := s.peg p) hreset
    rw [hpeg, Peg.count_after_of_clean (by rwa [hstart]) (by rwa [hstart]), hstart]
  · have hstart := Peg.start_of_no_reset (p := s.peg p) hreset
    rw [hpeg, Peg.count_after_of_poison (by rwa [hstart]), hstart]
  · rw [hpeg]
    exact Peg.target_armed_after harm
  · rw [hpeg] at hready
    exact State.not_mem_waits_pegCycle hready

namespace State

/-! ### Traces and issue leave readiness on its way (R218) -/

@[simp] theorem wakes_trcPut (s : State) (r : Nat) (w : QWord) : (s.trcPut r w).wakes = s.wakes := by
  unfold trcPut
  dsimp only
  split <;> simp

@[simp] theorem wakes_trcStore (s : State) (r ty core eng data : Nat) : (s.trcStore r ty core eng data).wakes = s.wakes := by
  unfold trcStore
  extract_lets u t room need dropped counted noted kept v
  have hv : v.wakes = s.wakes := by
    unfold v
    split <;> simp [noted, u]
  split
  · simp [counted, u]
  · simpa using hv

@[simp] theorem wakes_trcCore (s : State) (c ty eng data : Nat) : (s.trcCore c ty eng data).wakes = s.wakes := by
  unfold trcCore
  split <;> simp

@[simp] theorem wakes_issued (s : State) (c : Nat) : (s.issued c).wakes = s.wakes := by
  unfold issued
  extract_lets k u
  split
  · split <;> simp [u]
  · simp [u]

/-! ### The end of a wait (R183, R188) -/

/-- A deadline that is met counts and is traced, and then the sequencer goes on at the next row. -/
theorem deadlineEnd_met (s : State) (c fb : Nat) :
    ∃ u : State, s.deadlineEnd c fb true = u.nextRow c ∧ u.core c = s.core c ∧ u.pegs = s.pegs ∧ u.wakes = s.wakes := by
  unfold deadlineEnd
  extract_lets k tr u
  refine ⟨_, if_pos rfl, ?_⟩
  unfold u
  split <;> simp

/-- A core in RUN that waits on a peg, with or without a deadline, goes on at the next row when its wait ends. -/
theorem releaseWait_of_wait_on_peg {s : State} {c p : Nat} (hpwr : (s.core c).pwr = .run)
    (hwait : (s.core c).wait = some (.peg p) ∨ ∃ d fb, (s.core c).wait = some (.deadline p d fb)) :
    ∃ u : State, s.releaseWait c = u.nextRow c ∧ u.core c = s.core c ∧ u.pegs = s.pegs ∧ u.wakes = s.wakes := by
  have hclock : s.wakeClock c = s := if_neg (by simp [hpwr])
  rcases hwait with hpeg | ⟨d, fb, hdl⟩
  · exact ⟨s.issued c, by simp [releaseWait, hclock, hpeg], by simp⟩
  · have hmet : s.releaseWait c = s.deadlineEnd c fb true := by simp [releaseWait, hclock, hdl]
    rw [hmet]
    exact s.deadlineEnd_met c fb

end State

/-- Readiness that reaches a sequencer in WAIT is no longer on its way, and the wait ends. -/
theorem exec_pegReadyWake_seq {s : State} {i p c : Nat} (hfatal : s.sump.fatal = false)
    (hwake : s.wakes[i]? = some (p, .seq c)) (hseq : (s.core c).seq = .wait) (hiso : (s.core c).isolated = false)
    (hstop : (s.core c).stop = none) :
    exec (.pegReadyWake i) s
      = .next (({ s with wakes := s.wakes.filter fun e => decide (e ≠ (p, .seq c)) } : State).releaseWait c) := by
  change execPegReadyWake i s = _
  simp only [execPegReadyWake, hwake]
  refine (when_of _ _ _ (by simp [hfatal])).trans (congrArg _ (if_pos ?_))
  simpa [State.core] using ⟨hseq, hiso, hstop⟩

theorem readinessReleasesTheWaiter : Claims.readinessReleasesTheWaiter := by
  intro s i p c hfatal hwake hseq hiso hstop hpwr hnext hwait
  refine ⟨_, exec_pegReadyWake_seq hfatal hwake hseq hiso hstop, ?_⟩
  obtain ⟨u, hrel, hcore, hpegs, hwakes⟩ :=
    State.releaseWait_of_wait_on_peg (s := { s with wakes := s.wakes.filter fun e => decide (e ≠ (p, .seq c)) }) hpwr hwait
  replace hcore : u.core c = s.core c := hcore
  rw [hrel, State.nextRow_of_lt (by rwa [hcore]), hcore]
  simp [hpegs, hwakes]

/-- Settles O14: each field of the peg after a cycle follows from the peg that RESET leaves (`Peg.start`), and a wait that
readiness ends, a DEADLINE's too, is a transfer to the next row. -/
theorem pegCyclesAndReadiness : Obligations.PegCyclesAndReadiness :=
  ⟨pegCycleOrder, readinessReleasesTheWaiter⟩

end Sys2Proof.Machine

namespace Sys2Proof.Machine

/-! ### The form of HBM -/

/-- Settles O58: a step only takes the front command off the queue before it runs it, which the form of HBM does not see, and
every command keeps that form (`RunsKeeping.exec`). -/
theorem stepsKeepTheMemoryForm : Obligations.StepsKeepTheMemoryForm := by
  intro s t hwf hstep
  unfold step at hstep
  split at hstep
  · obtain rfl : s = t := by simpa using hstep
    exact hwf
  · next c rest _ =>
      obtain ⟨u, hu, hkeeps⟩ := RunsKeeping.exec (Keeps.refl { s with pending := rest }) c
      obtain rfl : u = t := by simpa [hu] using hstep
      exact hkeeps.memoryWf hwf

end Sys2Proof.Machine

namespace Sys2Proof.Machine

/-!
Non-caching accesses at the home (R226, R247, R324). No transaction is open on the line and no core cache has it, so the
request is served at once, on the state as it stood (`State.blockRequest_at_once`). The access then finds the line in the slice;
what a charge of the regulators, a counter, a touch or a write leaves of that line is said once (`State.sLine_charge`,
`State.sLine_bump`, `State.sLine_sTouch`, `State.sLine_sPut`).
-/

namespace State

/-! ### A line that the slice holds -/

theorem sKey_of_sLine {s : State} {n : Nat} {l : SLine} (h : s.sLine n = some l) :
    ∃ i, s.sKey n = some i ∧ tfind s.slice i = some l := by
  simpa [sLine, Option.bind_eq_some_iff] using h

theorem line_of_sLine {s : State} {n : Nat} {l : SLine} (h : s.sLine n = some l) : l.line = n := by
  obtain ⟨i, hkey, hfind⟩ := sKey_of_sLine h
  simpa [hfind] using List.find?_some hkey

/-- A write at the key of a line keeps the key, which is still the first of the set that holds the line. -/
theorem sKey_sPut {s : State} {n i : Nat} {m : SLine} (hkey : s.sKey n = some i) (hm : m.line = n) :
    (s.sPut i m).sKey n = some i := by
  obtain ⟨-, as, bs, hsplit, hbefore⟩ := List.find?_eq_some_iff_append.mp hkey
  have hi := List.find?_some hkey
  refine List.find?_eq_some_iff_append.mpr ⟨by simp [sPut, hm], as, bs, hsplit, fun j hj => ?_⟩
  have hne : j ≠ i := by
    rintro rfl
    simpa [hi] using hbefore j hj
  simpa [sPut, hne] using hbefore j hj

/-- The line then reads as what was written. -/
theorem sLine_sPut {s : State} {n i : Nat} {m : SLine} (hkey : s.sKey n = some i) (hm : m.line = n) :
    (s.sPut i m).sLine n = some m := by
  rw [sLine, sKey_sPut hkey hm]
  simp [sPut]

/-! ### What an access of the slice leaves alone -/

theorem sKey_congr {s t : State} (h : t.slice = s.slice) (n : Nat) : t.sKey n = s.sKey n := by
  simp [sKey, h]

theorem sLine_congr {s t : State} (h : t.slice = s.slice) (n : Nat) : t.sLine n = s.sLine n := by
  simp [sLine, sKey_congr h, h]

theorem holders_congr {s t : State} (h : t.cores = s.cores) (n : Nat) : t.holders n = s.holders n := by
  simp [holders, h]

@[simp] theorem charge_frame (s : State) (r n : Nat) (hbm : Bool) :
    (s.charge r n hbm).out = s.out ∧ (s.charge r n hbm).reg = s.reg ∧ (s.charge r n hbm).cores = s.cores
      ∧ (s.charge r n hbm).hbm = s.hbm ∧ (s.charge r n hbm).slice = s.slice := by
  unfold charge
  dsimp only
  repeat' split
  all_goals simp

@[simp] theorem sPut_frame (s : State) (i : Nat) (l : SLine) :
    (s.sPut i l).out = s.out ∧ (s.sPut i l).reg = s.reg ∧ (s.sPut i l).cores = s.cores ∧ (s.sPut i l).hbm = s.hbm :=
  ⟨rfl, rfl, rfl, rfl⟩

@[simp] theorem sTouch_frame (s : State) (line hint cls : Nat) :
    (s.sTouch line hint cls).out = s.out ∧ (s.sTouch line hint cls).reg = s.reg ∧ (s.sTouch line hint cls).cores = s.cores
      ∧ (s.sTouch line hint cls).hbm = s.hbm := by
  unfold sTouch
  split
  · dsimp only
    split <;> simp
  · simp

@[simp] theorem ctr_charge (s : State) (r n : Nat) (hbm : Bool) (a : Nat) : (s.charge r n hbm).ctr a = s.ctr a := by
  simp [ctr]

@[simp] theorem ctr_sPut (s : State) (i : Nat) (l : SLine) (a : Nat) : (s.sPut i l).ctr a = s.ctr a := rfl

@[simp] theorem ctr_sTouch (s : State) (line hint cls a : Nat) : (s.sTouch line hint cls).ctr a = s.ctr a := by
  simp [ctr]

@[simp] theorem ctr_send (s : State) (o : Out) (a : Nat) : (s.send o).ctr a = s.ctr a := rfl

@[simp] theorem sKey_charge (s : State) (r n : Nat) (hbm : Bool) (line : Nat) :
    (s.charge r n hbm).sKey line = s.sKey line :=
  sKey_congr (by simp) line

@[simp] theorem sKey_bump (s : State) (a line : Nat) : (s.bump a).sKey line = s.sKey line :=
  sKey_congr (by simp) line

@[simp] theorem sLine_charge (s : State) (r n : Nat) (hbm : Bool) (line : Nat) :
    (s.charge r n hbm).sLine line = s.sLine line :=
  sLine_congr (by simp) line

@[simp] theorem sLine_bump (s : State) (a line : Nat) : (s.bump a).sLine line = s.sLine line :=
  sLine_congr (by simp) line

@[simp] theorem sLine_send (s : State) (o : Out) (line : Nat) : (s.send o).sLine line = s.sLine line :=
  sLine_congr (by simp) line

@[simp] theorem holders_charge (s : State) (r n : Nat) (hbm : Bool) (line : Nat) :
    (s.charge r n hbm).holders line = s.holders line :=
  holders_congr (by simp) line

@[simp] theorem holders_bump (s : State) (a line : Nat) : (s.bump a).holders line = s.holders line :=
  holders_congr (by simp) line

@[simp] theorem holders_sTouch (s : State) (line hint cls n : Nat) :
    (s.sTouch line hint cls).holders n = s.holders n :=
  holders_congr (by simp) n

/-- A touch moves the recency and the KEEP mark of a line, not its data. -/
theorem sLine_sTouch {s : State} {line hint cls : Nat} {l : SLine} (h : s.sLine line = some l) :
    ∃ use keep, (s.sTouch line hint cls).sLine line = some { l with use := use, keep := keep } := by
  obtain ⟨i, hkey, hfind⟩ := sKey_of_sLine h
  unfold sTouch
  simp only [hkey, h]
  split
  · exact ⟨l.use, l.keep, h⟩
  · exact ⟨_, _, sLine_sPut (s := { s with useNo := s.useNo + 1 }) hkey (show l.line = line from line_of_sLine h)⟩

theorem mHolder_of_no_holders {s : State} {n : Nat} (h : s.holders n = []) : s.mHolder n = none := by
  simp [mHolder, h]

theorem pull_of_no_holders {s : State} {n : Nat} (h : s.holders n = []) (keep : Bool) (but : Nat) :
    s.pull n keep but = s := by
  simp [pull, h]

/-- A line that no core cache has needs no snoop. -/
theorem snoopsOf_of_no_holders {s : State} {t : Txn} (h : s.holders t.line = []) : s.snoopsOf t = [] := by
  unfold snoopsOf
  cases t.kind <;> simp [h, mHolder_of_no_holders h]

/-! ### Requests that are served at once (R318, R324) -/

/-- A request of the block for a line in DEVICE bias, with no transaction on it and no snoop to send, opens and is served. -/
theorem blockRequest_at_once {s : State} {t : Txn} (hblk : s.blocked t.line = false) (hstuck : s.biasStuck t.line = false)
    (hbias : s.hostBias t.line = false) (hsnoops : s.snoopsOf t = []) (hwaits : t.waits = []) :
    s.blockRequest t = (s.setCoh { s.coh with open_ := s.coh.open_ ++ [t] }).serveTxn t := by
  obtain ⟨⟩ := t
  subst hwaits
  simp_all [blockRequest, request, openTxn]

/-- The line's transaction closes, as `serveTxn` closes it. -/
def closeTxn (s : State) (line : Nat) : State :=
  s.setCoh { s.coh with open_ := s.coh.open_.filter fun u => decide (u.line ≠ line) }

/-- A transaction that opened on a line without another one leaves no trace once it closes. -/
theorem closeTxn_opened {s : State} {t : Txn} (hblk : s.blocked t.line = false) :
    (s.setCoh { s.coh with open_ := s.coh.open_ ++ [t] }).closeTxn t.line = s := by
  have hrest : s.coh.open_.filter (fun u => decide (u.line ≠ t.line)) = s.coh.open_ :=
    List.filter_eq_self.mpr fun u hu => by simpa using (List.any_eq_false.mp hblk) u hu
  simp only [closeTxn, setCoh, List.filter_append, hrest]
  simp

theorem serveTxn_ncRd {s : State} {t : Txn} {a : Agent} {d : List Byte} (hkind : t.kind = .ncRd) (hag : t.agent = some a)
    (hgot : t.got = none) (hread : ((s.closeTxn t.line).ncRead t.line t.hint t.cls).1 = (d, false)) :
    s.serveTxn t = ((s.closeTxn t.line).ncRead t.line t.hint t.cls).2.send (.memData a t.line d false) := by
  simp only [closeTxn] at hread ⊢
  simp only [serveTxn, hkind, hag, hgot, hread, Option.getD_some, Bool.false_eq_true, if_false]

theorem serveTxn_ncWr {s : State} {t : Txn} (hkind : t.kind = .ncWr) :
    s.serveTxn t = (s.closeTxn t.line).ncWrite t.line t.hint t.cls t.off t.data := by
  simp [serveTxn, hkind, closeTxn]

theorem serveTxn_ncAt {s : State} {t : Txn} {a : Agent} {v : Nat} {f : Flags} (hkind : t.kind = .ncAt)
    (hag : t.agent = some a)
    (hatom : ((s.closeTxn t.line).ncAtomic t.line t.hint t.cls t.op t.size t.off t.cmp t.data t.near).1 = (v, false, f)) :
    s.serveTxn t = ((s.closeTxn t.line).ncAtomic t.line t.hint t.cls t.op t.size t.off t.cmp t.data t.near).2.send
      (.memData a t.line (leBytes 8 v) false) := by
  simp only [closeTxn] at hatom ⊢
  simp only [serveTxn, hkind, hag, hatom, Option.getD_some, Bool.false_eq_true, if_false]

/-! ### The accesses of a line that the slice holds and no core cache has -/

theorem ncRead_hit {s : State} {line cls : Nat} {l : SLine} (hline : s.sLine line = some l)
    (hfree : s.holders line = []) (hclean : l.poison = 0) :
    s.ncRead line 0 cls
      = ((l.data, false), ((s.charge (homeOf line) cls false).bump (Reg.SC_HIT_CNT (homeOf line))).sTouch line 0 cls) := by
  have hhit : (s.charge (homeOf line) cls false).sLine line = some l := by simpa using hline
  unfold ncRead
  simp only [hhit]
  rw [mHolder_of_no_holders (by simpa using hfree)]
  simp [hclean]

/-- A write of the whole line replaces its data and makes it dirty. -/
theorem ncWrite_whole_hit {s : State} {line cls : Nat} {l : SLine} {bs : List Byte} (hline : s.sLine line = some l)
    (hfree : s.holders line = []) (hwhole : bs.length = 128) :
    ∃ i, s.sKey line = some i ∧ s.ncWrite line 0 cls 0 bs
      = (((s.charge (homeOf line) cls false).bump (Reg.SC_HIT_CNT (homeOf line))).sPut i
          { l with data := bs, dirty := true, poison := 0 }).sTouch line 0 cls := by
  obtain ⟨i, hkey, -⟩ := sKey_of_sLine hline
  have hpull : (s.charge (homeOf line) cls false).pull line false = s.charge (homeOf line) cls false :=
    pull_of_no_holders (by simpa using hfree) _ _
  exact ⟨i, hkey, by simp [ncWrite, hpull, hkey, hline, SLine.write, hwhole]⟩

/-- An atomic has found its line at the home, with no near target: it is charged and counted, and the line is touched. -/
def farAtomicFound (s : State) (line cls : Nat) : State :=
  let r := homeOf line
  ((((s.charge r cls false).bump (Reg.SC_ATOMIC_CNT r)).bump (Reg.DIR_FAR_CNT r)).bump (Reg.SC_HIT_CNT r)).sTouch line 0 cls

theorem farAtomicFound_frame (s : State) (line cls : Nat) :
    (s.farAtomicFound line cls).hbm = s.hbm ∧ (s.farAtomicFound line cls).out = s.out := by
  simp [farAtomicFound]

theorem atomic_counters_differ (r : Nat) :
    Reg.SC_ATOMIC_CNT r ≠ Reg.DIR_FAR_CNT r ∧ Reg.SC_ATOMIC_CNT r ≠ Reg.SC_HIT_CNT r
      ∧ Reg.DIR_FAR_CNT r ≠ Reg.SC_HIT_CNT r := by
  unfold Reg.SC_ATOMIC_CNT Reg.DIR_FAR_CNT Reg.SC_HIT_CNT
  omega

/-- The atomic and its placement are each counted once: the three counters it moves are different registers. -/
theorem farAtomicFound_ctr (s : State) (line cls : Nat) :
    (s.farAtomicFound line cls).ctr (Reg.SC_ATOMIC_CNT (homeOf line)) = Claims.plus s (Reg.SC_ATOMIC_CNT (homeOf line)) 1
      ∧ (s.farAtomicFound line cls).ctr (Reg.DIR_FAR_CNT (homeOf line)) = Claims.plus s (Reg.DIR_FAR_CNT (homeOf line)) 1 := by
  obtain ⟨hatomFar, hatomHit, hfarHit⟩ := atomic_counters_differ (homeOf line)
  unfold farAtomicFound
  dsimp only
  generalize Reg.SC_ATOMIC_CNT (homeOf line) = atomic at *
  generalize Reg.DIR_FAR_CNT (homeOf line) = far at *
  generalize Reg.SC_HIT_CNT (homeOf line) = hit at *
  simp [Claims.plus, hatomFar, hatomFar.symm, hatomHit, hfarHit]

/-- Its result replaces the line's data, and it answers with the old value. -/
theorem ncAtomic_hit {s : State} {line cls off cmp : Nat} {op : AtomOp} {v : List Byte} {l : SLine}
    (hline : s.sLine line = some l) (hfree : s.holders line = []) (hclean : l.poison = 0)
    (hwhole : (atomLine op 8 off cmp v l.data).1.length = 128) :
    ∃ i m, (s.farAtomicFound line cls).sKey line = some i ∧ m.line = line ∧ m.data = (atomLine op 8 off cmp v l.data).1
      ∧ s.ncAtomic line 0 cls op 8 off cmp v none
        = (((atomLine op 8 off cmp v l.data).2.1, false, (atomLine op 8 off cmp v l.data).2.2),
          (s.farAtomicFound line cls).sPut i m) := by
  have hname : l.line = line := line_of_sLine hline
  obtain ⟨use, keep, htouch⟩ := sLine_sTouch (hint := 0) (cls := cls)
    (s := (((s.charge (homeOf line) cls false).bump (Reg.SC_ATOMIC_CNT (homeOf line))).bump
      (Reg.DIR_FAR_CNT (homeOf line))).bump (Reg.SC_HIT_CNT (homeOf line))) (by simpa using hline)
  obtain ⟨i, hkey, -⟩ := sKey_of_sLine htouch
  have hpull : (s.charge (homeOf line) cls false).pull line true = s.charge (homeOf line) cls false :=
    pull_of_no_holders (by simpa using hfree) _ _
  refine ⟨i, { l with data := (atomLine op 8 off cmp v l.data).1, dirty := true, keep := keep, use := use, poison := 0 },
    hkey, hname, rfl, ?_⟩
  simp [ncAtomic, placeNear, hfree, hpull, hline, atomHint, htouch, hkey, hclean, SLine.write, hwhole, farAtomicFound]

end State

/-! ### The bytes of an atomic's result -/

theorem length_leBytes (n v : Nat) : (leBytes n v).length = n := by
  induction n generalizing v with
  | zero => rfl
  | succ n ih => simp [leBytes, ih]

theorem length_mergeAt {data bs : List Byte} {off : Nat} (h : off + bs.length ≤ data.length) :
    (mergeAt data off bs).length = data.length := by
  simp [mergeAt]
  omega

/-- An aligned atomic of eight bytes leaves a line of the same length. -/
theorem length_atomLine {op : AtomOp} {off cmp : Nat} {v data : List Byte} (hop : op ≠ .radd64)
    (h : off + 8 ≤ data.length) : (atomLine op 8 off cmp v data).1.length = data.length := by
  simp only [atomLine, if_neg hop]
  exact length_mergeAt (by simpa [length_leBytes] using h)

/-! ### The commands -/

theorem coreStoreAt_of_populated {a : Nat} (h : populated a = true) : coreStoreAt a = none := by
  have hlow : a < 2 ^ 39 := (by simpa [populated] using h : a < 2 ^ 39 ∧ _).1
  exact if_neg (by omega)

theorem State.sliceErr_clean (s : State) (line : Nat) (ctx : Option Nat) : s.sliceErr line .clean ctx = (s, false) := by
  unfold State.sliceErr
  split <;> simp

/-- A request for a line that the slice holds and no core cache has is served on the state as it stood. -/
theorem blockRequest_held {s : State} {t : Txn} {l : SLine} (h : Claims.Held s t.line l) (hfree : s.holders t.line = [])
    (hwaits : t.waits = []) : ∃ u : State, s.blockRequest t = u.serveTxn t ∧ u.closeTxn t.line = s := by
  obtain ⟨-, -, -, -, -, hblk, hstuck, hbias⟩ := h
  exact ⟨_, State.blockRequest_at_once hblk hstuck hbias (State.snoopsOf_of_no_holders hfree) hwaits,
    State.closeTxn_opened hblk⟩

section
variable {s : State} {n : Fin 8589934592} {l : SLine} (h : Claims.Held s n l) (hfree : s.holders n = [])
include h hfree

theorem exec_ncrd_held (a : Agent) (cls : Fin 9) :
    exec (.ncrd a none n 0 cls .clean) s = .next ((((s.charge (homeOf n) cls false).bump (Reg.SC_HIT_CNT (homeOf n))).sTouch
      n 0 cls).send (.memData a n l.data false)) := by
  obtain ⟨hfatal, hpop, hline, hclean, -⟩ := id h
  obtain ⟨u, hserve, hclose⟩ := blockRequest_held (t := { line := n, kind := .ncRd, core := none, agent := some a, cls := cls })
    h hfree rfl
  have hread := State.ncRead_hit (cls := cls) hline hfree hclean
  change execNcrd a none n 0 cls .clean s = _
  unfold execNcrd
  refine (when_of _ _ _ (by simp [hfatal, coreStoreAt_of_populated hpop])).trans (congrArg _ ?_)
  simp only [hpop, if_true, State.sliceErr_clean, Bool.false_eq_true, if_false]
  refine hserve.trans ((State.serveTxn_ncRd rfl rfl rfl (by rw [hclose, hread])).trans ?_)
  rw [hclose, hread]

theorem exec_ncwr_held (a : Agent) (cls : Fin 9) {bs : List Byte} (hwhole : bs.length = 128) :
    exec (.ncwr a none n 0 cls 0 bs) s = .next (s.ncWrite n 0 cls 0 bs) := by
  obtain ⟨hfatal, hpop, -⟩ := id h
  obtain ⟨u, hserve, hclose⟩ := blockRequest_held
    (t := { line := n, kind := .ncWr, core := none, agent := some a, cls := cls, data := bs }) h hfree rfl
  change execNcwr a none n 0 cls 0 bs s = _
  unfold execNcwr
  have hne : bs ≠ [] := by
    rintro rfl
    simp at hwhole
  refine (when_of _ _ _ (by simp [hfatal, coreStoreAt_of_populated hpop, hne])).trans (congrArg _ ?_)
  have hall : bs.take (128 - (0 : Fin 128)) = bs := List.take_of_length_le (by simp [hwhole])
  simp only [hpop, if_true, hall]
  refine hserve.trans ((State.serveTxn_ncWr rfl).trans ?_)
  rw [hclose]

theorem exec_ncat_held (a : Agent) (cls : Fin 9) (op : AtomOp) (off : Fin 128) (cmp : DWord) (v : List Byte)
    (hop : op ≠ .radd64) (halign : off.val % 8 = 0) (hadd : op ≠ .fadd) (hmin : op ≠ .fmin) (hmax : op ≠ .fmax) :
    ∃ i m, (s.farAtomicFound n cls).sKey n = some i ∧ m.line = n.val ∧ m.data = (atomLine op 8 off cmp.toNat v l.data).1
      ∧ exec (.ncat a none n 0 cls op true off cmp v none) s = .next (((s.farAtomicFound n cls).sPut i m).send
        (.memData a n (leBytes 8 (atomLine op 8 off cmp.toNat v l.data).2.1) false)) := by
  obtain ⟨hfatal, hpop, hline, hclean, hlen, -⟩ := id h
  obtain ⟨i, m, hkey, hm, hdata, hatom⟩ := State.ncAtomic_hit (cls := cls) (cmp := cmp.toNat) (v := v) hline hfree hclean
    ((length_atomLine hop (off := off) (by omega)).trans hlen)
  refine ⟨i, m, hkey, hm, hdata, ?_⟩
  obtain ⟨u, hserve, hclose⟩ := blockRequest_held
    (t := { line := n, kind := .ncAt, core := none, agent := some a, cls := cls, off := off, data := v, op := op, size := 8,
            cmp := cmp.toNat }) h hfree rfl
  change execNcat a none n 0 cls op true off cmp v none s = _
  have hsize : (if op = .radd64 then 128 else if (op = .fadd ∨ op = .fmin ∨ op = .fmax) ∨ (!true) = true then 4 else 8) = 8 := by
    simp [hop, hadd, hmin, hmax]
  unfold execNcat
  simp only [hsize]
  refine (when_of _ _ _ (by simp [hfatal, halign])).trans (congrArg _ ?_)
  have hcmp : cmp.toNat % 2 ^ (8 * 8) = cmp.toNat := Nat.mod_eq_of_lt cmp.isLt
  simp only [hpop, if_true, hcmp]
  refine hserve.trans ((State.serveTxn_ncAt rfl rfl (by rw [hclose, hatom])).trans ?_)
  rw [hclose, hatom]

end

/-! ### Addresses that are no memory (R226) -/

/-- No source of a region is ever muted. -/
theorem State.mutedSrc_region (s : State) (r u : Nat) : s.mutedSrc (srcRegion r u) = false := by
  have : ¬ (srcRegion r u) / 2 ^ 14 < 2 := by
    simp only [srcRegion]
    omega
  rw [mutedSrc, decide_eq_false this, Bool.false_and]

/-- A report of a unit of a region sets out as it is raised. -/
theorem reported_raise_region (s : State) (r u kind : Nat) (ctx : Option Nat) (ty addr syn : Nat) :
    Claims.Reported s (s.raise (srcRegion r u) kind ctx ty addr syn) (srcRegion r u) kind :=
  ⟨_, s.raise_flight _ _ _ _ _ _ (s.mutedSrc_region r u), rfl, rfl⟩

theorem State.offMap_of_hole {s : State} {line : Nat} (a : Agent) (h : inRegFile (128 * line) = false) :
    s.offMap a none line = s.raise (srcRegion (agentRegion a) 0) 0x112 none 1 (128 * line) := by
  simp [State.offMap, h, State.memHole, State.poisonCtx]

section
variable {s : State} {n : Fin 8589934592} (hfatal : s.sump.fatal = false) (hpop : populated (128 * n.val) = false)
  (hstore : coreStoreAt (128 * n.val) = none) (hreg : inRegFile (128 * n.val) = false)
include hfatal hpop hstore hreg

theorem exec_ncrd_hole (a : Agent) (h : Fin 4) (cls : Fin 9) (err : SliceErr) :
    exec (.ncrd a none n h cls err) s = .next ((s.raise (srcRegion (agentRegion a) 0) 0x112 none 1 (128 * n)).send
      (.memData a n (List.replicate 128 0#8) true)) := by
  change execNcrd a none n h cls err s = _
  unfold execNcrd
  refine (when_of _ _ _ (by simp [hfatal, hstore])).trans (congrArg _ ?_)
  simp [hpop, State.offMap_of_hole a hreg]

theorem exec_ncwr_hole (a : Agent) (h : Fin 4) (cls : Fin 9) (off : Fin 128) {bs : List Byte} (hne : bs ≠ []) :
    exec (.ncwr a none n h cls off bs) s = .next (s.raise (srcRegion (agentRegion a) 0) 0x112 none 1 (128 * n)) := by
  change execNcwr a none n h cls off bs s = _
  unfold execNcwr
  refine (when_of _ _ _ (by simp [hfatal, hstore, hne])).trans (congrArg _ ?_)
  simp [hpop, State.offMap_of_hole a hreg]

end

/-- Settles O22: a request that finds its line in the slice, with no copy in a core cache, is served on the state as it stood
(`exec_ncrd_held`, `exec_ncwr_held`, `exec_ncat_held`), and one off the map is one report (`State.offMap_of_hole`). -/
theorem nonCachingAccesses : Obligations.NonCachingAccesses := by
  refine ⟨fun s a n l cls h hfree => ?_, fun s a n h cls err hfatal hpop hstore hreg => ?_⟩
  · obtain ⟨-, -, hline, -⟩ := id h
    have hname : l.line = n := State.line_of_sLine hline
    refine ⟨⟨_, exec_ncrd_held h hfree a cls, ?_⟩, fun bs hwhole => ⟨_, exec_ncwr_held h hfree a cls hwhole, ?_⟩,
      fun op off cmp v hop halign hadd hmin hmax => ?_⟩
    · obtain ⟨use, keep, htouch⟩ := State.sLine_sTouch (hint := 0) (cls := cls)
        (s := (s.charge (homeOf n) cls false).bump (Reg.SC_HIT_CNT (homeOf n))) (by simpa using hline)
      simp [htouch]
    · obtain ⟨i, hkey, hwrite⟩ := State.ncWrite_whole_hit (cls := cls) hline hfree hwhole
      have hput := State.sLine_sPut (s := (s.charge (homeOf n) cls false).bump (Reg.SC_HIT_CNT (homeOf n)))
        (m := { l with data := bs, dirty := true, poison := 0 }) (by simpa using hkey) hname
      obtain ⟨use, keep, htouch⟩ := State.sLine_sTouch (hint := 0) (cls := cls) hput
      rw [hwrite, htouch]
      simp
    · obtain ⟨i, m, hkey, hm, hdata, hrun⟩ := exec_ncat_held h hfree a cls op off cmp v hop halign hadd hmin hmax
      refine ⟨_, hrun, ?_⟩
      have hput := State.sLine_sPut hkey hm
      obtain ⟨hhbm, hout⟩ := s.farAtomicFound_frame n cls
      obtain ⟨hatomic, hfar⟩ := s.farAtomicFound_ctr n cls
      exact ⟨by simp [hput, hdata], by simp [hhbm], by simp [hout], hatomic, hfar⟩
  · refine ⟨⟨_, exec_ncrd_hole hfatal hpop hstore hreg a h cls err, ?_⟩,
      fun off bs hne => ⟨_, exec_ncwr_hole hfatal hpop hstore hreg a h cls off hne, ?_⟩⟩
    · exact ⟨by simp, reported_raise_region _ _ _ _ _ _ _ _, by simp, by simp⟩
    · exact ⟨by simp, reported_raise_region _ _ _ _ _ _ _ _, by simp, by simp⟩

end Sys2Proof.Machine

namespace Sys2Proof.Machine

/-!
The maintenance of a stack, its heat and the regulators (R230, R235 to R239, R250, R253). Each command of a stack is one update of
its controller with what it counts and reports. The two that reach further are the reading of a temperature, whose suspensions
leave faults, controllers and throttle levels alone (`State.suspendHot_heat`), and a regulator period, which fills every bucket
once (`State.tok_foldl_fillBucket`).
-/

namespace State

/-! ### What reports, records and controllers leave of registers and counters -/

@[simp] theorem cfg_logDue (s : State) (kind sev data a : Nat) : (s.logDue kind sev data).cfg a = s.cfg a := by
  simp [cfg]

@[simp] theorem ctr_logDue (s : State) (kind sev data a : Nat) : (s.logDue kind sev data).ctr a = s.ctr a := by
  simp [ctr]

@[simp] theorem ctr_raise_at (s : State) (src kind : Nat) (ctx : Option Nat) (ty addr syn a : Nat) :
    (s.raise src kind ctx ty addr syn).ctr a = s.ctr a := by
  simp [ctr]

@[simp] theorem cfg_setHctl (s : State) (k : Nat) (h : Hbm) (a : Nat) : (s.setHctl k h).cfg a = s.cfg a := by
  simp [cfg]

@[simp] theorem ctr_setHctl (s : State) (k : Nat) (h : Hbm) (a : Nat) : (s.setHctl k h).ctr a = s.ctr a := by
  simp [ctr]

@[simp] theorem ctr_setFld (s : State) (a hi lo v b : Nat) : (s.setFld a hi lo v).ctr b = s.ctr b := by
  rw [setFld, ctr_setCfg]

theorem ctr_congr {s t : State} (h : t.reg = s.reg) (a : Nat) : t.ctr a = s.ctr a := by
  simp [ctr, h]

theorem ctl_congr {s t : State} (h : t.hctl = s.hctl) (k : Nat) : t.ctl k = s.ctl k := by
  simp [ctl, h]

@[simp] theorem ctl_raise (s : State) (src kind : Nat) (ctx : Option Nat) (ty addr syn k : Nat) :
    (s.raise src kind ctx ty addr syn).ctl k = s.ctl k :=
  ctl_congr (by simp) k

@[simp] theorem ctl_logDue (s : State) (kind sev data k : Nat) : (s.logDue kind sev data).ctl k = s.ctl k :=
  ctl_congr (by simp) k

@[simp] theorem ctl_setCfg (s : State) (a : Nat) (w : Word) (k : Nat) : (s.setCfg a w).ctl k = s.ctl k :=
  ctl_congr rfl k

@[simp] theorem ctl_bump (s : State) (a k : Nat) : (s.bump a).ctl k = s.ctl k :=
  ctl_congr rfl k

/-- A counter never holds more than it can. -/
theorem ctr_le (s : State) (a : Nat) : s.ctr a ≤ 0xFFFFFFFF := Nat.le_of_lt_succ (BitVec.isLt _)

theorem plus_zero (s : State) (a : Nat) : Claims.plus s a 0 = s.ctr a := Nat.min_eq_left (s.ctr_le a)

theorem ctr_bumpIf_self (s : State) (c : Bool) (a : Nat) : (s.bumpIf c a).ctr a = Claims.plus s a (b2n c) := by
  cases c
  · exact (s.plus_zero a).symm
  · simp [bumpIf, Claims.plus, b2n]

/-- A kind of class 3 also drives the fatal line of its source. -/
theorem raise_drives_line {s : State} {src kind : Nat} {ctx : Option Nat} {ty addr syn : Nat} (h : s.mutedSrc src = false)
    (hcls : kindClass kind = 3) : ∃ m ∈ (s.raise src kind ctx ty addr syn).sump.lines, m.kind = kind := by
  simp [raise, report, h, hcls]

theorem fld_congr {s t : State} {a : Nat} (h : t.cfg a = s.cfg a) (hi lo : Nat) : t.fld a hi lo = s.fld a hi lo := by
  simp [fld, h]

/-- One repair lane of a channel's register is used: the count in its high byte rises, the free lanes in its low byte fall. -/
def laneUsed (s : State) (a : Nat) : State :=
  (s.setFld a 15 8 (min 255 (s.fld a 15 8 + 1))).setFld a 7 0 (s.fld a 7 0 - 1)

theorem fld_laneUsed {s : State} {a : Nat} (h : 0 < s.fld a 7 0) : (s.laneUsed a).fld a 7 0 + 1 = s.fld a 7 0 := by
  have hbyte : s.fld a 7 0 < 2 ^ 8 := Nat.mod_lt _ (by decide)
  rw [laneUsed, fld_setFld_low _ _ _ _ (by decide), Nat.mod_eq_of_lt (Nat.lt_of_le_of_lt (Nat.sub_le _ _) hbyte)]
  exact Nat.sub_add_cancel h

theorem ctr_laneUsed (s : State) (a b : Nat) : (s.laneUsed a).ctr b = s.ctr b := by
  rw [laneUsed, ctr_setFld, ctr_setFld]

theorem hbm_laneUsed (s : State) (a : Nat) : (s.laneUsed a).hbm = s.hbm := rfl

/-- What the end of a repair leaves of a state `u` in which the lane is used. -/
theorem repaired_frame (u : State) (cnt k : Nat) (h : Hbm) (data src addr : Nat) :
    let t := (((u.bump cnt).setHctl k h).logDue 5 1 data).raise src 0x103 none 1 addr
    t.ctl k = h ∧ t.hbm = u.hbm ∧ (∀ a, t.cfg a = u.cfg a) ∧ t.ctr cnt = Claims.plus u cnt 1 := by
  simp [Claims.plus]

end State

/-! ### Repair, scrub and soft repair (R230, R235 to R239) -/

section
variable {s : State} {k : Fin 8}

theorem exec_laneRepair_spare {c : Fin 32} {lane x : Byte} (hfatal : s.sump.fatal = false) (hrun : (s.ctl k).state = .run)
    (hsppr : (s.ctl k).sppr = none) :
    exec (.laneRepair k c lane (some x)) s
      = .next (s.setHctl k { s.ctl k with state := .repair, ch := c, lane := lane.toNat, onto := x.toNat }) := by
  change execLaneRepair k c lane (some x) s = _
  unfold execLaneRepair
  exact when_of _ _ _ (by simp [hfatal, hrun, hsppr])

theorem exec_laneRepair_exhausted {c : Fin 32} {lane : Byte} (hfatal : s.sump.fatal = false)
    (hrun : (s.ctl k).state = .run) (hsppr : (s.ctl k).sppr = none) :
    exec (.laneRepair k c lane none) s
      = .next (((s.setHctl k { s.ctl k with state := .lost }).setCfg (Reg.HBMC_ERR_ADDR k)
          (BitVec.ofNat 32 (2 ^ 31 + 2 * 2 ^ 29 + c))).raise (State.hbmSrc k) 0x104 none 1 (k * 2 ^ 36 + 128 * c)) := by
  change execLaneRepair k c lane none s = _
  unfold execLaneRepair
  exact when_of _ _ _ (by simp [hfatal, hrun, hsppr])

theorem laneRepair_effects {c : Fin 32} {lane x : Byte} (hfatal : s.sump.fatal = false) (hrun : (s.ctl k).state = .run)
    (hsppr : (s.ctl k).sppr = none) :
    (Claims.Completes (.laneRepair k c lane (some x)) s fun t =>
        (t.ctl k).state = .repair ∧ (t.ctl k).ch = c.val ∧ t.hbm = s.hbm ∧ ∀ j, j ≠ k.val → t.ctl j = s.ctl j)
      ∧ (Claims.Completes (.laneRepair k c lane none) s fun t =>
        (t.ctl k).state = .lost ∧ t.hbm = s.hbm ∧ (∃ m ∈ t.sump.lines, m.kind = 0x104)
          ∧ ∀ j, j ≠ k.val → t.ctl j = s.ctl j) := by
  refine ⟨⟨_, exec_laneRepair_spare hfatal hrun hsppr, ?_⟩, ⟨_, exec_laneRepair_exhausted hfatal hrun hsppr, ?_⟩⟩
  · exact ⟨by simp, by simp, by simp, fun j hj => by simp [hj]⟩
  · exact ⟨by simp, by simp, State.raise_drives_line (State.mutedSrc_region _ _ _) (by decide), fun j hj => by simp [hj]⟩

theorem exec_laneRepairDone (hrepair : (s.ctl k).state = .repair) :
    ∃ data addr, exec (.laneRepairDone k) s = .next (((((s.laneUsed (Reg.HBMC_LANE k (s.ctl k).ch)).bump
      (Reg.HBMC_LANE_RPR_CNT k)).setHctl k { s.ctl k with state := .run }).logDue 5 1 data).raise (State.hbmSrc k) 0x103 none 1
        addr) := by
  change ∃ data addr, execLaneRepairDone k s = _
  unfold execLaneRepairDone
  exact ⟨_, _, when_of _ _ _ (by simp [hrepair])⟩

theorem laneRepairDone_effects (hrepair : (s.ctl k).state = .repair)
    (hlanes : 0 < s.fld (Reg.HBMC_LANE k (s.ctl k).ch) 7 0) :
    Claims.Completes (.laneRepairDone k) s fun t =>
      (t.ctl k).state = .run ∧ t.fld (Reg.HBMC_LANE k (s.ctl k).ch) 7 0 + 1 = s.fld (Reg.HBMC_LANE k (s.ctl k).ch) 7 0
        ∧ t.ctr (Reg.HBMC_LANE_RPR_CNT k) = Claims.plus s (Reg.HBMC_LANE_RPR_CNT k) 1 ∧ t.hbm = s.hbm := by
  obtain ⟨data, addr, hrun⟩ := exec_laneRepairDone hrepair
  obtain ⟨hctl, hhbm, hcfg, hctr⟩ := State.repaired_frame (s.laneUsed (Reg.HBMC_LANE k (s.ctl k).ch))
    (Reg.HBMC_LANE_RPR_CNT k) k { s.ctl k with state := .run } data (State.hbmSrc k) addr
  refine ⟨_, hrun, by rw [hctl], ?_, ?_, hhbm.trans (State.hbm_laneUsed _ _)⟩
  · rw [State.fld_congr (hcfg _) 7 0, State.fld_laneUsed hlanes]
  · rw [hctr, Claims.plus, State.ctr_laneUsed, Claims.plus]

theorem exec_sppr {row : Nat} {rest : List Nat} (hfatal : s.sump.fatal = false) (hrun : (s.ctl k).state = .run)
    (hon : s.bit (Reg.HBMC_CTL k) 17 = true) (hsppr : (s.ctl k).sppr = none) (hcand : (s.ctl k).cand = row :: rest) :
    exec (.sppr k) s = .next (s.setHctl k { s.ctl k with sppr := some row, cand := rest }) := by
  change execSppr k s = _
  unfold execSppr
  simp only [hcand]
  exact when_of _ _ _ (by simp [hfatal, hrun, hon, hsppr])

theorem exec_spprDone {row : Nat} {spare : Bool} (hfatal : s.sump.fatal = false) (hsppr : (s.ctl k).sppr = some row) :
    ∃ data, exec (.spprDone k spare) s = .next (
      if spare then ((s.setHctl k { s.ctl k with sppr := none }).bump (Reg.HBMC_SPPR_CNT k)).logDue 6 0 data
      else (s.setHctl k { s.ctl k with sppr := none }).bump (Reg.HBMC_SPPR_FAIL_CNT k)) := by
  change ∃ data, execSpprDone k spare s = _
  unfold execSpprDone
  simp only [hsppr]
  exact ⟨_, when_of _ _ _ (by simp [hfatal])⟩

theorem spprDone_effects {row : Nat} {spare : Bool} (hfatal : s.sump.fatal = false) (hsppr : (s.ctl k).sppr = some row) :
    Claims.Completes (.spprDone k spare) s fun t =>
      (t.ctl k).sppr = none ∧ t.hbm = s.hbm ∧ t.hbmBad = s.hbmBad
        ∧ t.ctr (Reg.HBMC_SPPR_CNT k) = Claims.plus s (Reg.HBMC_SPPR_CNT k) (b2n spare)
        ∧ t.ctr (Reg.HBMC_SPPR_FAIL_CNT k) = Claims.plus s (Reg.HBMC_SPPR_FAIL_CNT k) (b2n (!spare)) := by
  obtain ⟨data, hrun⟩ := exec_spprDone (spare := spare) hfatal hsppr
  refine ⟨_, hrun, ?_⟩
  have hne : Reg.HBMC_SPPR_CNT k ≠ Reg.HBMC_SPPR_FAIL_CNT k := by
    unfold Reg.HBMC_SPPR_CNT Reg.HBMC_SPPR_FAIL_CNT
    omega
  generalize Reg.HBMC_SPPR_CNT k = good at hne ⊢
  generalize Reg.HBMC_SPPR_FAIL_CNT k = failed at hne ⊢
  have hgood := s.plus_zero good
  have hfailed := s.plus_zero failed
  cases spare
  · exact ⟨by simp, by simp, by simp, by simp [hne, hgood, b2n], by simp [Claims.plus, b2n]⟩
  · exact ⟨by simp, by simp, by simp, by simp [Claims.plus, b2n], by simp [hne.symm, hfailed, b2n]⟩

/-- A scrub read without an error changes no more than its controller and the count of passes, whether the line is served now
or passed over. -/
theorem exec_patrolScrub_clean (hfatal : s.sump.fatal = false) (hon : s.bit (Reg.HBMC_CTL k) 16 = true)
    (hrun : (s.ctl k).state = .run) (hpassed : (s.ctl k).passed = []) :
    ∃ passed, exec (.patrolScrub k .clean) s
      = .next ((s.bumpIf (decide ((s.ctl k).scrub + 1 = 402653184)) (Reg.HBMC_SCRUB_PASS k)).setHctl k
          { s.ctl k with
            scrub := if (s.ctl k).scrub + 1 = 402653184 then 0 else (s.ctl k).scrub + 1
            passed := passed }) := by
  change ∃ passed, execPatrolScrub k .clean s = _
  have hclean : ∀ (u : State) (line : Nat), u.hbmFinds line .clean none = u := fun u line => by
    unfold State.hbmFinds
    split <;> rfl
  unfold execPatrolScrub
  rw [when_of _ _ _ (by simp [hfatal, hon, hrun])]
  simp only [hpassed, hclean]
  split
  · exact ⟨[], by simp⟩
  · exact ⟨[(s.ctl k).scrub], by simp⟩

end

theorem stackMaintenance : Claims.stackMaintenance := by
  intro s k hfatal
  refine ⟨fun c lane x hrun hsppr => laneRepair_effects hfatal hrun hsppr,
    fun hrepair _ hlanes => laneRepairDone_effects hrepair hlanes,
    fun row rest hrun hon hsppr hcand => ⟨_, exec_sppr hfatal hrun hon hsppr hcand, by simp⟩,
    fun row spare hsppr => spprDone_effects hfatal hsppr, fun hon hrun _ hpassed => ?_⟩
  obtain ⟨passed, hscrub⟩ := exec_patrolScrub_clean hfatal hon hrun hpassed
  exact ⟨_, hscrub, by simp, by simp, by simp [State.ctr_bumpIf_self]⟩

namespace State

/-! ### Suspensions (R491) leave faults, controllers and throttle levels alone -/

theorem foldl_heat {α : Type} {f : State → α → State}
    (hf : ∀ t a, (f t a).sump = t.sump ∧ (f t a).hctl = t.hctl ∧ (f t a).thr = t.thr) (s : State) (l : List α) :
    (l.foldl f s).sump = s.sump ∧ (l.foldl f s).hctl = s.hctl ∧ (l.foldl f s).thr = s.thr := by
  induction l generalizing s with
  | nil => exact ⟨rfl, rfl, rfl⟩
  | cons a l ih => simpa [hf s a] using ih (f s a)

theorem deliver_heat (s : State) (w : HostWr) :
    (s.deliver w).sump = s.sump ∧ (s.deliver w).hctl = s.hctl ∧ (s.deliver w).thr = s.thr := by
  unfold deliver
  cases w <;> simp [sendMsi]

theorem hostWrite_heat (s : State) (w : HostWr) :
    (s.hostWrite w).sump = s.sump ∧ (s.hostWrite w).hctl = s.hctl ∧ (s.hostWrite w).thr = s.thr := by
  unfold hostWrite
  split
  · exact s.deliver_heat w
  · exact ⟨rfl, rfl, rfl⟩
  · exact ⟨rfl, rfl, rfl⟩

theorem irq_heat (s : State) (v : Nat) :
    (s.irq v).sump = s.sump ∧ (s.irq v).hctl = s.hctl ∧ (s.irq v).thr = s.thr := by
  unfold irq
  split
  · split <;> exact ⟨rfl, rfl, rfl⟩
  · exact s.hostWrite_heat _

theorem postRec_heat (s : State) (c : Nat) (r : Rec) :
    (s.postRec c r).sump = s.sump ∧ (s.postRec c r).hctl = s.hctl ∧ (s.postRec c r).thr = s.thr := by
  unfold postRec
  split
  · exact ⟨rfl, rfl, rfl⟩
  · dsimp only
    split <;> simp [irq_heat, hostWrite_heat]

theorem event_heat (s : State) (cls kind detail r0 r1 : Nat) :
    (s.event cls kind detail r0 r1).sump = s.sump ∧ (s.event cls kind detail r0 r1).hctl = s.hctl
      ∧ (s.event cls kind detail r0 r1).thr = s.thr := by
  unfold event postEventRec
  repeat' split
  all_goals simp [postRec_heat]

theorem stopLists_heat (s : State) (x : Nat) :
    (s.stopLists x).sump = s.sump ∧ (s.stopLists x).hctl = s.hctl ∧ (s.stopLists x).thr = s.thr := by
  refine foldl_heat (fun t e => ?_) s _
  split <;> exact ⟨rfl, rfl, rfl⟩

theorem stopCores_heat (s : State) (why : Stop) (cs : List Nat) :
    (cs.foldl (fun s i => s.stopCore why i) s).sump = s.sump ∧ (cs.foldl (fun s i => s.stopCore why i) s).hctl = s.hctl
      ∧ (cs.foldl (fun s i => s.stopCore why i) s).thr = s.thr :=
  foldl_heat (f := fun s i => s.stopCore why i) (fun _ _ => ⟨rfl, rfl, rfl⟩) s cs

theorem suspend_heat (s : State) (x : Nat) (c : Cause) :
    (s.suspend x c).sump = s.sump ∧ (s.suspend x c).hctl = s.hctl ∧ (s.suspend x c).thr = s.thr := by
  unfold suspend
  dsimp only
  split
  · simp [event_heat, stopLists_heat, stopCores_heat]
  · split
    · split <;> simp [event_heat, stopLists_heat]
    · split <;> simp [event_heat, stopLists_heat]

end State

/-! ### Heat of the stacks (R253) -/

namespace State

/-- Level 3 in a region: the contexts with a core there are suspended, and each that the heat holds names the region. -/
def suspendHot (s : State) (r : Nat) (xs : List Nat) : State :=
  xs.foldl (fun s x =>
    let s := s.suspend x .thermal
    if .thermal ∈ (s.context x).causes ∧ r ∉ (s.context x).thermal then
      s.modCtx x fun c => { c with thermal := c.thermal ++ [r] }
    else s) s

theorem suspendHot_heat (s : State) (r : Nat) (xs : List Nat) :
    (s.suspendHot r xs).sump = s.sump ∧ (s.suspendHot r xs).hctl = s.hctl ∧ (s.suspendHot r xs).thr = s.thr := by
  refine foldl_heat (fun t x => ?_) s xs
  dsimp only
  split <;> simp [suspend_heat]

/-- From level 0 no level is held, and a temperature gives the highest level whose threshold it reaches. -/
theorem levelFor_of_zero {s : State} {k : Nat} (h : (s.ctl k).level = 0) (temp : Nat) :
    s.levelFor k temp = if s.fld (Reg.HBMC_THERM k) 31 24 ≤ temp then 3
      else if s.fld (Reg.HBMC_THERM k) 23 16 + 5 ≤ temp then 2
      else if s.fld (Reg.HBMC_THERM k) 23 16 ≤ temp then 1 else 0 := by
  simp [levelFor, levelAt, h]

/-- The controller after a temperature that gives level `l`, with the record of a change. -/
def levelTaken (s : State) (k temp l : Nat) : State :=
  let s' := s.setHctl k { s.ctl k with valid := true, temp := temp, level := l }
  if l = (s.ctl k).level then s' else s'.logDue 2 0 (0x40 + k + 2 ^ 8 * temp + 2 ^ 17 + 2 ^ 24 * l)

/-- A region's throttle level rises at once and falls no sooner than the next boundary. -/
def raiseThr (s : State) (r l : Nat) : State :=
  if tget (fun _ => 0) s.thr r < l then { s with thr := tset (fun _ => 0) s.thr r l } else s

theorem levelTaken_frame (s : State) (k temp l : Nat) :
    (s.levelTaken k temp l).sump = s.sump ∧ (s.levelTaken k temp l).thr = s.thr
      ∧ (s.levelTaken k temp l).ctl k = { s.ctl k with valid := true, temp := temp, level := l } := by
  unfold levelTaken
  dsimp only
  split <;> simp

theorem raiseThr_frame (s : State) (r l : Nat) :
    (s.raiseThr r l).sump = s.sump ∧ (s.raiseThr r l).hctl = s.hctl
      ∧ tget (fun _ => 0) (s.raiseThr r l).thr r = max (tget (fun _ => 0) s.thr r) l := by
  unfold raiseThr
  split
  · next h => exact ⟨rfl, rfl, by simpa using (Nat.max_eq_right h.le).symm⟩
  · next h => exact ⟨rfl, rfl, (Nat.max_eq_left (Nat.not_lt.mp h)).symm⟩

end State

theorem exec_stackTemperatureRead {s : State} {k : Fin 8} {temp : Byte} (hon : (s.ctl k).state ≠ .off) :
    ∃ xs, exec (.stackTemperatureRead k temp) s = .next (
      let l := s.levelFor k temp.toNat
      let u := (s.levelTaken k temp.toNat l).raiseThr (k.val / 2) l
      if l = 3 ∧ (s.ctl k).level < 3 then (u.raise (State.hbmSrc k) 0x105).suspendHot (k.val / 2) xs else u) := by
  change ∃ xs, execStackTemperatureRead k temp s = _
  unfold execStackTemperatureRead
  exact ⟨_, when_of _ _ _ (by simpa using hon)⟩

theorem reported_congr {s s' t t' : State} {src kind : Nat} (h : Claims.Reported s t src kind)
    (hs : s'.sump = s.sump) (ht : t'.sump = t.sump) : Claims.Reported s' t' src kind := by
  simpa only [Claims.Reported, hs, ht] using h

theorem temperatureSetsTheThrottleLevel : Claims.temperatureSetsTheThrottleLevel := by
  intro s k temp hon hlevel hthr hbelow
  obtain ⟨xs, hrun⟩ := exec_stackTemperatureRead (temp := temp) hon
  refine ⟨_, hrun, ?_⟩
  have hl := State.levelFor_of_zero hlevel temp.toNat
  generalize s.levelFor k temp.toNat = l at hl ⊢
  obtain ⟨hsump, hthr', hctl⟩ := s.levelTaken_frame k temp.toNat l
  obtain ⟨hsump', hhctl, hraised⟩ := (s.levelTaken k temp.toNat l).raiseThr_frame (k.val / 2) l
  rw [hsump] at hsump'
  rw [hthr', hthr, Nat.zero_max] at hraised
  have hctl' := (State.ctl_congr hhctl k).trans hctl
  dsimp only
  generalize (s.levelTaken k temp.toNat l).raiseThr (k.val / 2) l = u at hsump' hraised hctl' ⊢
  rw [← hl]
  split
  · obtain ⟨hfaults, hctls, hthrs⟩ := (u.raise (State.hbmSrc k) 0x105).suspendHot_heat (k.val / 2) xs
    have hat : ((u.raise (State.hbmSrc k) 0x105).suspendHot (k.val / 2) xs).ctl k = _ :=
      (State.ctl_congr hctls k).trans ((State.ctl_raise ..).trans hctl')
    rw [hat, hthrs]
    exact ⟨rfl, rfl, rfl, by simpa using hraised,
      fun _ => reported_congr (reported_raise_region u _ _ _ _ _ _ _) hsump'.symm hfaults⟩
  · next hcool =>
    rw [hctl']
    exact ⟨rfl, rfl, rfl, hraised, fun hcrit => absurd ⟨hl.trans (if_pos hcrit), by omega⟩ hcool⟩

/-! ### Regulators (R250) -/

/-- Every bucket: each region and class, with its SC and its HBM bucket. -/
def buckets : List (Nat × Nat × Bool) :=
  (List.range 4).flatMap fun r => (List.range 9).flatMap fun n => [(r, n, false), (r, n, true)]

theorem mem_buckets (r : Fin 4) (n : Fin 9) (hbm : Bool) : (r.val, n.val, hbm) ∈ buckets := by
  cases hbm <;> simp [buckets]

/-- No two of them are the same place of the table. -/
theorem buckets_pairwise : buckets.Pairwise fun e f => bucket e.1 e.2.1 e.2.2 ≠ bucket f.1 f.2.1 f.2.2 := by
  decide

namespace State

/-- A bucket gains its rate and is capped at its burst. -/
def filled (s : State) (e : Nat × Nat × Bool) : Nat :=
  min (s.tok (bucket e.1 e.2.1 e.2.2) + s.rateOf e.1 e.2.1 e.2.2) (s.fld (bucketReg e.1 e.2.1 e.2.2) 31 16)

def fillBucket (s : State) (e : Nat × Nat × Bool) : State := s.setTok (bucket e.1 e.2.1 e.2.2) (s.filled e)

@[simp] theorem tok_fillBucket (s : State) (e : Nat × Nat × Bool) (b : Nat) :
    (s.fillBucket e).tok b = if b = bucket e.1 e.2.1 e.2.2 then s.filled e else s.tok b := by
  simp [fillBucket, setTok, tok]

/-- What a bucket gains is read off its own tokens, the registers and the throttle levels. -/
theorem filled_congr {s t : State} {e : Nat × Nat × Bool} (htok : t.tok (bucket e.1 e.2.1 e.2.2) = s.tok (bucket e.1 e.2.1 e.2.2))
    (hcfg : t.reg.cfg = s.reg.cfg) (hthr : t.thr = s.thr) : t.filled e = s.filled e := by
  simp [filled, rateOf, fld, cfg, htok, hcfg, hthr]

theorem foldl_fillBucket_frame (l : List (Nat × Nat × Bool)) (s : State) :
    (l.foldl fillBucket s).short = s.short ∧ (l.foldl fillBucket s).hbm = s.hbm ∧ (l.foldl fillBucket s).slice = s.slice
      ∧ (l.foldl fillBucket s).reg = s.reg := by
  induction l generalizing s with
  | nil => exact ⟨rfl, rfl, rfl, rfl⟩
  | cons e l ih => exact ih (s.fillBucket e)

theorem tok_foldl_fillBucket_other {b : Nat} (l : List (Nat × Nat × Bool)) (s : State)
    (h : ∀ e ∈ l, b ≠ bucket e.1 e.2.1 e.2.2) : (l.foldl fillBucket s).tok b = s.tok b := by
  induction l generalizing s with
  | nil => rfl
  | cons e l ih =>
    obtain ⟨he, hl⟩ := List.forall_mem_cons.mp h
    rw [List.foldl_cons, ih _ hl, tok_fillBucket, if_neg he]

/-- Each bucket of a list without repetitions is filled once, from the tokens it had before. -/
theorem tok_foldl_fillBucket {e : Nat × Nat × Bool} (l : List (Nat × Nat × Bool)) (s : State)
    (hl : l.Pairwise fun e f => bucket e.1 e.2.1 e.2.2 ≠ bucket f.1 f.2.1 f.2.2) (he : e ∈ l) :
    (l.foldl fillBucket s).tok (bucket e.1 e.2.1 e.2.2) = s.filled e := by
  induction l generalizing s with
  | nil => simp at he
  | cons f l ih =>
    obtain ⟨hf, hrest⟩ := List.pairwise_cons.mp hl
    rw [List.foldl_cons]
    rcases List.mem_cons.mp he with rfl | hmem
    · rw [tok_foldl_fillBucket_other l _ hf, tok_fillBucket, if_pos rfl]
    · rw [ih _ hrest hmem]
      exact filled_congr (by simp [(hf e hmem).symm]) rfl rfl

/-- The classes that waited are counted. -/
def countWaits (s : State) : State := s.short.foldl (fun s w => s.bump (Reg.SC_WAIT (w / 9) (w % 9))) s

theorem foldl_bump_frame (f : Nat → Nat) (l : List Nat) (s : State) :
    (l.foldl (fun s w => s.bump (f w)) s).hbm = s.hbm ∧ (l.foldl (fun s w => s.bump (f w)) s).slice = s.slice
      ∧ (l.foldl (fun s w => s.bump (f w)) s).tokens = s.tokens ∧ (l.foldl (fun s w => s.bump (f w)) s).thr = s.thr
      ∧ (l.foldl (fun s w => s.bump (f w)) s).reg.cfg = s.reg.cfg := by
  induction l generalizing s with
  | nil => exact ⟨rfl, rfl, rfl, rfl, rfl⟩
  | cons w l ih => exact ih (s.bump (f w))

end State

theorem exec_regulatorPeriod (s : State) :
    exec .regulatorPeriod s = .next (buckets.foldl State.fillBucket { s.countWaits with short := [] }) := rfl

theorem regulatorPeriodFillsTheBuckets : Claims.regulatorPeriodFillsTheBuckets := by
  intro s r n hcool
  obtain ⟨hhbm, hslice, htokens, hthr, hcfg⟩ := State.foldl_bump_frame (fun w => Reg.SC_WAIT (w / 9) (w % 9)) s.short s
  obtain ⟨hshort', hhbm', hslice', hreg'⟩ := State.foldl_fillBucket_frame buckets { s.countWaits with short := [] }
  have hfill : ∀ hbm, (buckets.foldl State.fillBucket { s.countWaits with short := [] }).tok (bucket r n hbm)
      = s.filled (r, n, hbm) := fun hbm =>
    (State.tok_foldl_fillBucket buckets _ buckets_pairwise (mem_buckets r n hbm)).trans
      (State.filled_congr (congrArg (tget (fun _ => 0) · _) htokens) hcfg hthr)
  refine ⟨_, exec_regulatorPeriod s, ?_, ?_, hshort', hhbm'.trans hhbm, hslice'.trans hslice, fun hone => ?_⟩
  · simpa [State.filled, bucket, b2n, State.rateOf, bucketReg] using hfill false
  · simpa [State.filled, bucket, b2n, State.rateOf, bucketReg, hcool.not_ge] using hfill true
  · have hdiv : (9 * r.val + n.val) / 9 = r := by omega
    have hmod : (9 * r.val + n.val) % 9 = n := by omega
    have hcount : s.countWaits.ctr (Reg.SC_WAIT r n) = Claims.plus s (Reg.SC_WAIT r n) 1 := by
      simp [State.countWaits, hone, hdiv, hmod, Claims.plus]
    exact (State.ctr_congr (s := s.countWaits) hreg' _).trans hcount

/-- Settles O16: each command of a stack is one update of its controller with its counts and reports; a temperature that
suspends contexts changes no more of what is claimed (`State.suspendHot_heat`); a period fills each bucket once
(`State.tok_foldl_fillBucket`). -/
theorem stackUpkeepAndRegulators : Obligations.StackUpkeepAndRegulators :=
  ⟨stackMaintenance, temperatureSetsTheThrottleLevel, regulatorPeriodFillsTheBuckets⟩

end Sys2Proof.Machine

namespace Sys2Proof.Machine

/-!
Address translation (R264, R268, R277, R278, R280). A demand runs one translation (`State.xlate`), which answers for a segment,
for a flat target, or by a walk of the tables; each of its outcomes is said once. An entry is read as any line is, and what the
read does to the slice, the core caches and HBM leaves the TLBs and the faults under way alone (`State.readPte_xl`). Of faults
that reach the records, one alone is its context's own (`exec_translationFault_one`).
-/

namespace State

/-! ### Memory as a walk reads it leaves translation alone (R240 to R245, R316, R324) -/

@[simp] theorem charge_xl (s : State) (r n : Nat) (hbm : Bool) : (s.charge r n hbm).xl = s.xl := by
  unfold charge
  dsimp only
  repeat' split
  all_goals simp

@[simp] theorem hbmWrite_xl (s : State) (line off : Nat) (bs : List Byte) (bad : Nat) :
    (s.hbmWrite line off bs bad).xl = s.xl := by
  unfold hbmWrite
  dsimp only
  split <;> simp

@[simp] theorem sPut_xl (s : State) (i : Nat) (l : SLine) : (s.sPut i l).xl = s.xl := rfl

@[simp] theorem sDrop_xl (s : State) (i : Nat) : (s.sDrop i).xl = s.xl := rfl

@[simp] theorem ccRemove_xl (s : State) (c line : Nat) : (s.ccRemove c line).xl = s.xl := by
  unfold ccRemove
  split <;> simp

@[simp] theorem mergeM_xl (s : State) (line : Nat) (d : List Byte) (poison : Nat) : (s.mergeM line d poison).xl = s.xl := by
  unfold mergeM
  split <;> simp

@[simp] theorem pullOne_xl (s : State) (line : Nat) (keep : Bool) (c : Nat) : (s.pullOne line keep c).xl = s.xl := by
  unfold pullOne
  dsimp only
  split
  · split <;> simp
  · simp

@[simp] theorem pull_xl (s : State) (line : Nat) (keep : Bool) (but : Nat) : (s.pull line keep but).xl = s.xl :=
  List.foldlRecOn (motive := fun t : State => t.xl = s.xl) _ _ rfl fun _ h _ _ => (pullOne_xl ..).trans h

@[simp] theorem sEvict_xl (s : State) (i : Nat) : (s.sEvict i).xl = s.xl := by
  unfold sEvict
  split
  · rfl
  · dsimp only
    split
    · split <;> simp
    · simp

@[simp] theorem sAlloc_xl (s : State) (line cls : Nat) (data : List Byte) (dirty : Bool) (poison : Nat) :
    (s.sAlloc line cls data dirty poison).xl = s.xl := by
  unfold sAlloc
  split <;> simp

@[simp] theorem sTouch_xl (s : State) (line hint cls : Nat) : (s.sTouch line hint cls).xl = s.xl := by
  unfold sTouch
  split
  · dsimp only
    split <;> simp
  · rfl

@[simp] theorem sFetch_xl (s : State) (line hint cls : Nat) : (s.sFetch line hint cls).2.xl = s.xl := by
  unfold sFetch
  dsimp only
  split <;> simp

@[simp] theorem biasAsk_xl (s : State) (line : Nat) (write : Bool) : (s.biasAsk line write).xl = s.xl := by
  unfold biasAsk
  split
  · rfl
  · split <;> simp

/-- A read that keeps the line where it is: the M holder's data, the slice's, or HBM's. -/
theorem ncRead_xl (s : State) (line cls : Nat) {hint : Nat} (h : hint ≠ 3) : (s.ncRead line hint cls).2.xl = s.xl := by
  unfold ncRead
  simp only [if_neg h]
  split
  · split
    · split <;> simp
    · simp
  · simp

@[simp] theorem readPte_xl (s : State) (cls a : Nat) : (s.readPte cls a).2.xl = s.xl :=
  (ncRead_xl _ _ _ (by decide)).trans (biasAsk_xl ..)

/-! ### Walks (R268, R271) -/

/-- A walk ends at an entry that is not present. -/
theorem walkFrom_absent {s : State} {g : Seg} {r cls x sg off acc n t : Nat}
    (hclean : (s.readPte cls (t + 8 * pteIndex n off)).1.2 = false)
    (habsent : bitOf (fieldAt (s.readPte cls (t + 8 * pteIndex n off)).1.1 ((t + 8 * pteIndex n off) % 128) 8) 63 = false) :
    walkFrom g r cls x sg off acc (n + 1) t s
      = (.error (3, n, fieldAt (s.readPte cls (t + 8 * pteIndex n off)).1.1 ((t + 8 * pteIndex n off) % 128) 8),
          (s.readPte cls (t + 8 * pteIndex n off)).2) := by
  simp [walkFrom, hclean, habsent]

/-- What the walk cache knows of a level's table for an offset. -/
def cachedTable (s : State) (r x sg off lvl : Nat) : Option WalkEnt :=
  (tget (fun _ => []) s.xl.walkc r).find? fun e =>
    decide (e.ctx = x) && decide (e.seg = sg) && decide (e.lvl = lvl) && decide (e.hi = off / 2 ^ (if lvl = 0 then 21 else 30))

theorem cachedTable_of_empty {s : State} (h : s.xl.walkc = []) (r x sg off lvl : Nat) : s.cachedTable r x sg off lvl = none := by
  simp [cachedTable, h, tget]

/-- A walk from the deepest table that the walk cache knows, without its counters. -/
def walkFound (s : State) (g : Seg) (r cls x sg off acc : Nat) : Except (Nat × Nat × Nat) TlbEnt × State :=
  match s.cachedTable r x sg off 0, s.cachedTable r x sg off 1 with
  | some e, _ => walkFrom g r cls x sg off acc 1 e.table s
  | none, some e => walkFrom g r cls x sg off acc 2 e.table s
  | none, none => walkFrom g r cls x sg off acc 3 g.base s

/-- Where the walk cache knows none, that is the segment's level 2 table. -/
theorem walkFound_of_empty {s : State} (h : s.xl.walkc = []) (g : Seg) (r cls x sg off acc : Nat) :
    s.walkFound g r cls x sg off acc = walkFrom g r cls x sg off acc 3 g.base s := by
  unfold walkFound
  rw [cachedTable_of_empty h, cachedTable_of_empty h]

/-- What every walk ends with: its two counters, over the state in which it ended. -/
def walked (s : State) (r : Nat) : State := (s.drawn.bump (Reg.RTLB_WALK_CNT r)).bumpBy (Reg.RTLB_WALK_CYC r) (s.draw (2 ^ 32))

@[simp] theorem walked_frame (s : State) (r : Nat) : (s.walked r).xl = s.xl ∧ (s.walked r).hbm = s.hbm := ⟨rfl, rfl⟩

theorem walk_of_found {s t : State} {g : Seg} {r cls x sg off acc : Nat} {o : Except (Nat × Nat × Nat) TlbEnt}
    (h : s.walkFound g r cls x sg off acc = (o, t)) : s.walk g r cls x sg off acc = (o, t.walked r) := by
  change ((s.walkFound g r cls x sg off acc).1, (s.walkFound g r cls x sg off acc).2.walked r) = _
  rw [h]

/-- Without walk cache entries, a walk whose level 2 entry is not present is a fault at level 2. -/
theorem walk_absent {s : State} {g : Seg} {r cls x sg off acc : Nat} (h : s.xl.walkc = [])
    (hclean : (s.readPte cls (g.base + 8 * pteIndex 2 off)).1.2 = false)
    (habsent : bitOf (fieldAt (s.readPte cls (g.base + 8 * pteIndex 2 off)).1.1 ((g.base + 8 * pteIndex 2 off) % 128) 8) 63
      = false) :
    s.walk g r cls x sg off acc
      = (.error (3, 2, fieldAt (s.readPte cls (g.base + 8 * pteIndex 2 off)).1.1 ((g.base + 8 * pteIndex 2 off) % 128) 8),
          (s.readPte cls (g.base + 8 * pteIndex 2 off)).2.walked r) :=
  walk_of_found ((walkFound_of_empty h ..).trans (walkFrom_absent hclean habsent))

/-- A region TLB without entries asks the walk; a fault of the walk is its answer. -/
theorem rtlbGet_of_fault {s : State} {g : Seg} {r cls x sg off acc : Nat} {e : Nat × Nat × Nat} {t : State} (h : s.xl.rtlb = [])
    (hwalk : (s.bump (Reg.RTLB_MISS_CNT r)).walk g r cls x sg off acc = (.error e, t)) :
    s.rtlbGet g r cls x sg off acc = (.error e, t) := by
  have hfind : s.rtlbFind r x sg off = none := by simp [rtlbFind, h]
  simp [rtlbGet, hfind, hwalk]

/-! ### Translation of one address (R264, R277) -/

/-- The fault of a demand, with what names its requester and its address. -/
def demandFault (a : Agent) (x dva acc pos kind lvl pte : Nat) : XFault :=
  ⟨x, kind, acc, lvl, dva / 2 ^ 44 % 16, agentReq a, agentUnit a, dva, pos, pte⟩

section
variable {s : State} {a : Agent} {x dva acc pos sg off : Nat} (hsg : dva / 2 ^ 44 % 16 = sg) (hoff : dva % 2 ^ 44 = off)
include hsg

theorem xlate_unmapped (h : (s.seg x sg).valid = false) :
    s.xlate a x dva acc pos = (.error (demandFault a x dva acc pos 1 3 0), s) := by
  unfold xlate demandFault
  simp only [hsg]
  simp [h]

variable (hvalid : (s.seg x sg).valid = true)
include hoff hvalid

theorem xlate_outside (h : (s.seg x sg).bytes ≤ off) :
    s.xlate a x dva acc pos = (.error (demandFault a x dva acc pos 2 3 0), s) := by
  unfold xlate demandFault
  simp only [hsg, hoff]
  simp [hvalid, h]

variable (hin : off < (s.seg x sg).bytes)
include hin

theorem xlate_denied (h : rights acc (s.seg x sg).rd (s.seg x sg).wr (s.seg x sg).atomics = false) :
    s.xlate a x dva acc pos = (.error (demandFault a x dva acc pos 4 3 0), s) := by
  unfold xlate demandFault
  simp only [hsg, hoff]
  simp [hvalid, hin.not_ge, h]

variable (hrights : rights acc (s.seg x sg).rd (s.seg x sg).wr (s.seg x sg).atomics = true)
include hrights

/-- A flat segment answers at once and reads no table. -/
theorem xlate_flat (h : (s.seg x sg).type < 2) : ∃ p, s.xlate a x dva acc pos = (.ok p, s) := by
  unfold xlate
  simp only [hsg, hoff]
  obtain h0 | h1 : (s.seg x sg).type = 0 ∨ (s.seg x sg).type = 1 := by omega
  · simp [hvalid, hin.not_ge, hrights, h0]
  · simp [hvalid, hin.not_ge, hrights, h1]

/-- In a paged segment a micro-TLB without entries asks the region TLB, whose fault is the demand's. -/
theorem xlate_paged_fault {kind lvl pte : Nat} {t : State} (hpaged : 2 ≤ (s.seg x sg).type) (hutlb : s.xl.utlb = [])
    (hget : (s.bump (Reg.RTLB_UTLB_MISS_CNT (agentRegion a))).rtlbGet (s.seg x sg) (agentRegion a) (s.ctxCls x) x sg off acc
      = (.error (kind, lvl, pte), t)) :
    s.xlate a x dva acc pos = (.error (demandFault a x dva acc pos kind lvl pte), t) := by
  have h0 : (s.seg x sg).type ≠ 0 := by omega
  have h1 : (s.seg x sg).type ≠ 1 := by omega
  unfold xlate demandFault
  simp only [hsg, hoff]
  simp [hvalid, hin.not_ge, hrights, h0, h1, hutlb, tget, hget]

end

@[simp] theorem xfault_frame (s : State) (f : XFault) :
    (s.xfault f).xl.faults = s.xl.faults ++ [f] ∧ (s.xfault f).xl.rtlb = s.xl.rtlb ∧ (s.xfault f).hbm = s.hbm :=
  ⟨rfl, rfl, rfl⟩

end State

/-! ### Demands (R268, R272) -/

section
variable {s t : State} {a : Agent} {x : Fin 64} {dva : BitVec 48} {acc : Fin 4} {pos : DWord} (hfatal : s.sump.fatal = false)
  (hctx : (s.context x).state ≠ .free)
include hfatal hctx

theorem exec_pageWalk_ok {p : Phys × Nat} (h : s.xlate a x dva.toNat acc pos.toNat = (.ok p, t)) :
    exec (.pageWalk a x dva acc pos false) s = .next t := by
  change execPageWalk a x dva acc pos false s = _
  simp [execPageWalk, when, hfatal, hctx, h]

theorem exec_pageWalk_fault {f : XFault} (h : s.xlate a x dva.toNat acc pos.toNat = (.error f, t)) :
    exec (.pageWalk a x dva acc pos false) s = .next (t.xfault f) := by
  change execPageWalk a x dva acc pos false s = _
  simp [execPageWalk, when, hfatal, hctx, h]

end

theorem walksAndTheirFaults : Claims.walksAndTheirFaults := by
  intro s a x dva acc pos hfatal hctx sg off g fault
  refine ⟨fun hvalid hin hrights hflat => ?_, fun hvalid => ?_, fun hvalid hout => ?_, fun hvalid hin hdenied => ?_, ?_⟩
  · obtain ⟨p, hp⟩ := State.xlate_flat (a := a) (pos := pos.toNat) rfl rfl hvalid hin hrights hflat
    exact exec_pageWalk_ok hfatal hctx hp
  · exact ⟨_, exec_pageWalk_fault hfatal hctx (State.xlate_unmapped rfl hvalid), rfl⟩
  · exact ⟨_, exec_pageWalk_fault hfatal hctx (State.xlate_outside rfl rfl hvalid hout), rfl⟩
  · exact ⟨_, exec_pageWalk_fault hfatal hctx (State.xlate_denied rfl rfl hvalid hin hdenied), rfl⟩
  · rintro d hvalid hin hrights hpaged hutlb hrtlb hwalkc rfl hclean habsent
    refine ⟨_, exec_pageWalk_fault hfatal hctx (State.xlate_paged_fault rfl rfl hvalid hin hrights hpaged hutlb
      (State.rtlbGet_of_fault hrtlb (State.walk_absent hwalkc hclean habsent))), ?_⟩
    simp only [State.xfault_frame, State.walked_frame, State.readPte_xl, State.bump_frame]
    exact ⟨rfl, rfl, hrtlb⟩

/-! ### Suspension (R491) -/

/-- `t` is `s` but for what traffic toward the host may change. -/
def TowardHost (s t : State) : Prop := ∃ out hl reg vci, t = { s with out := out, hl := hl, reg := reg, vci := vci }

namespace TowardHost
variable {s t u : State}

theorem refl (s : State) : TowardHost s s := ⟨_, _, _, _, rfl⟩

theorem trans (h : TowardHost s t) (k : TowardHost t u) : TowardHost s u := by
  obtain ⟨_, _, _, _, rfl⟩ := h
  obtain ⟨_, _, _, _, rfl⟩ := k
  exact ⟨_, _, _, _, rfl⟩

theorem deliver (s : State) (w : HostWr) : TowardHost s (s.deliver w) := by
  cases w <;> exact ⟨_, _, _, _, rfl⟩

theorem hostWrite (s : State) (w : HostWr) : TowardHost s (s.hostWrite w) := by
  unfold State.hostWrite
  split
  · exact deliver s w
  · exact ⟨_, _, _, _, rfl⟩
  · exact refl s

theorem irq (s : State) (v : Nat) : TowardHost s (s.irq v) := by
  unfold State.irq
  split
  · split <;> exact ⟨_, _, _, _, rfl⟩
  · exact hostWrite s _

theorem setCq (s : State) (c : Nat) (r : Cq) : TowardHost s (s.setCq c r) := ⟨_, _, _, _, rfl⟩

theorem postRec (s : State) (c : Nat) (r : Rec) : TowardHost s (s.postRec c r) := by
  unfold State.postRec
  split
  · exact refl s
  · dsimp only
    split
    · exact (hostWrite ..).trans (setCq ..)
    · exact ((hostWrite ..).trans (setCq ..)).trans (irq ..)

theorem event (s : State) (cls kind detail r0 r1 : Nat) : TowardHost s (s.event cls kind detail r0 r1) := by
  unfold State.event State.postEventRec
  split
  · exact refl s
  · split
    · exact refl s
    · dsimp only
      split
      · exact (setCq ..).trans (postRec ..)
      · split <;> exact setCq ..

end TowardHost

namespace State

@[simp] theorem event_ctx_hbm (s : State) (cls kind detail r0 r1 : Nat) :
    (s.event cls kind detail r0 r1).ctx = s.ctx ∧ (s.event cls kind detail r0 r1).hbm = s.hbm := by
  obtain ⟨_, _, _, _, h⟩ := TowardHost.event s cls kind detail r0 r1
  rw [h]
  exact ⟨rfl, rfl⟩

@[simp] theorem stopLists_ctx_hbm (s : State) (x : Nat) : (s.stopLists x).ctx = s.ctx ∧ (s.stopLists x).hbm = s.hbm := by
  refine List.foldlRecOn (motive := fun t : State => t.ctx = s.ctx ∧ t.hbm = s.hbm) _ _ ⟨rfl, rfl⟩ fun t h e _ => ?_
  dsimp only
  split <;> exact h

@[simp] theorem stopCores_ctx_hbm (s : State) (why : Stop) (cs : List Nat) :
    (cs.foldl (fun s i => s.stopCore why i) s).ctx = s.ctx ∧ (cs.foldl (fun s i => s.stopCore why i) s).hbm = s.hbm :=
  List.foldlRecOn (motive := fun t : State => t.ctx = s.ctx ∧ t.hbm = s.hbm) _ _ ⟨rfl, rfl⟩ fun _ h _ _ => h

/-- The first cause of a running context. -/
theorem suspend_of_running {s : State} {x : Nat} (h : (s.context x).state = .running) (c : Cause) (r0 r1 : Nat) :
    (s.suspend x c r0 r1).context x = { s.context x with state := .suspended, causes := [c] }
      ∧ (s.suspend x c r0 r1).hbm = s.hbm := by
  unfold suspend
  dsimp only
  rw [if_pos h]
  simp [context, setCtx]

/-! ### Fault records (R278, R280) -/

@[simp] theorem recordFault_frame (s : State) (f : XFault) :
    (s.recordFault f).xl = s.xl ∧ (s.recordFault f).ctx = s.ctx ∧ (s.recordFault f).sump = s.sump
      ∧ (s.recordFault f).hbm = s.hbm := by
  simp [recordFault]

@[simp] theorem ctr_setBit (s : State) (a i : Nat) (b : Bool) (c : Nat) : (s.setBit a i b).ctr c = s.ctr c := rfl

/-- Register by register: one rewriting step for all of them would leave the kernel the whole chain to unfold. -/
theorem ctr_recordFault (s : State) (f : XFault) (a : Nat) : (s.recordFault f).ctr a = s.ctr a := by
  unfold recordFault
  dsimp only [-Nat.reducePow]
  rw [ctr_setBit]
  iterate 7 rw [ctr_setCfg]

/-- The status register of a context lies below the registers of every record. -/
theorem ctxReg_ne_record {n : Nat} (h : n < 64) :
    Reg.XLAT_CTX n ≠ Reg.XLAT_FLT_W0 n ∧ Reg.XLAT_CTX n ≠ Reg.XLAT_FLT_W1 n ∧ Reg.XLAT_CTX n ≠ Reg.XLAT_FLT_W2 n
      ∧ Reg.XLAT_CTX n ≠ Reg.XLAT_FLT_W3 n ∧ Reg.XLAT_CTX n ≠ Reg.XLAT_FLT_W4 n ∧ Reg.XLAT_CTX n ≠ Reg.XLAT_FLT_W5 n
      ∧ Reg.XLAT_CTX n ≠ Reg.XLAT_FLT_W6 n := by
  simp only [Reg.XLAT_CTX, Reg.XLAT_FLT_W0, Reg.XLAT_FLT_W1, Reg.XLAT_FLT_W2, Reg.XLAT_FLT_W3, Reg.XLAT_FLT_W4, Reg.XLAT_FLT_W5,
    Reg.XLAT_FLT_W6]
  omega

/-- The words of a record, and the FAULTED bit beside it. -/
theorem cfg_recordFault (s : State) {f : XFault} (h : f.ctx < 64) :
    (s.recordFault f).cfg (Reg.XLAT_FLT_W0 f.ctx) = BitVec.ofNat 32 (2 ^ 31 + f.kind * 2 ^ 24 + f.acc * 2 ^ 22 + f.lvl * 2 ^ 20
          + f.seg * 2 ^ 16 + f.req * 2 ^ 12 + f.unit)
      ∧ (s.recordFault f).cfg (Reg.XLAT_FLT_W1 f.ctx) = BitVec.ofNat 32 f.dva
      ∧ (s.recordFault f).cfg (Reg.XLAT_FLT_W3 f.ctx) = BitVec.ofNat 32 f.pos
      ∧ (s.recordFault f).cfg (Reg.XLAT_CTX f.ctx) = putBits (s.cfg (Reg.XLAT_CTX f.ctx)) 0 0 1 := by
  obtain ⟨h0, h1, h2, h3, h4, h5, h6⟩ := ctxReg_ne_record h
  simp [recordFault, b2n, h0, h1, h2, h3, h4, h5, h6, h0.symm, h1.symm, h3.symm]

/-- One fault of a context, taken: it writes the record, or adds to MORE where FAULTED is set. -/
def faultTaken (s : State) (f : XFault) : State :=
  let u := if s.bit (Reg.XLAT_CTX f.ctx) 0 then s.bumpBy Reg.XLAT_FLT_CNT 1 else (s.bumpBy Reg.XLAT_FLT_CNT 1).recordFault f
  u.setFld (Reg.XLAT_CTX f.ctx) 23 16 (min 255 (u.fld (Reg.XLAT_CTX f.ctx) 23 16 + b2n (s.bit (Reg.XLAT_CTX f.ctx) 0)))

theorem takeFaults_one (s : State) (f : XFault) :
    s.takeFaults f.ctx [f] = if f.req = 4 then s.faultTaken f else (s.faultTaken f).suspend f.ctx .xlat := by
  have hbit : (s.bumpBy Reg.XLAT_FLT_CNT 1).bit (Reg.XLAT_CTX f.ctx) 0 = s.bit (Reg.XLAT_CTX f.ctx) 0 := rfl
  unfold takeFaults faultTaken
  cases hb : s.bit (Reg.XLAT_CTX f.ctx) 0 with
  | false => simp [hbit, hb, firstFault, b2n]
  | true => simp [hbit, hb, b2n]

@[simp] theorem faultTaken_frame (s : State) (f : XFault) :
    (s.faultTaken f).xl = s.xl ∧ (s.faultTaken f).ctx = s.ctx ∧ (s.faultTaken f).sump = s.sump
      ∧ (s.faultTaken f).hbm = s.hbm := by
  unfold faultTaken
  dsimp only
  split <;> simp

theorem ctr_faultTaken (s : State) (f : XFault) :
    (s.faultTaken f).ctr Reg.XLAT_FLT_CNT = Claims.plus s Reg.XLAT_FLT_CNT 1 := by
  unfold faultTaken
  dsimp only
  rw [ctr_setFld]
  split
  · simp [Claims.plus]
  · simp [ctr_recordFault, Claims.plus]

/-- FAULTED stands where it was set while MORE is written. -/
theorem faulted_after_more (w : Word) (v : Nat) : bitOf (putBits (putBits w 0 0 1) 23 16 v).toNat 0 = true := by
  simp [bitOf, putBits, bitsOf]
  omega

/-- The first fault of a context. -/
theorem faultTaken_first {s : State} {f : XFault} (h : f.ctx < 64) (hb : s.bit (Reg.XLAT_CTX f.ctx) 0 = false) :
    (s.faultTaken f).cfg (Reg.XLAT_FLT_W0 f.ctx) = BitVec.ofNat 32 (2 ^ 31 + f.kind * 2 ^ 24 + f.acc * 2 ^ 22 + f.lvl * 2 ^ 20
          + f.seg * 2 ^ 16 + f.req * 2 ^ 12 + f.unit)
      ∧ (s.faultTaken f).cfg (Reg.XLAT_FLT_W1 f.ctx) = BitVec.ofNat 32 f.dva
      ∧ (s.faultTaken f).cfg (Reg.XLAT_FLT_W3 f.ctx) = BitVec.ofNat 32 f.pos
      ∧ (s.faultTaken f).bit (Reg.XLAT_CTX f.ctx) 0 = true := by
  obtain ⟨h0, h1, -, h3, -⟩ := ctxReg_ne_record h
  obtain ⟨hw0, hw1, hw3, hctx⟩ := (s.bumpBy Reg.XLAT_FLT_CNT 1).cfg_recordFault h
  simp only [faultTaken, hb, Bool.false_eq_true, if_false]
  refine ⟨?_, ?_, ?_, ?_⟩
  · rw [cfg_setFld, if_neg h0.symm, hw0]
  · rw [cfg_setFld, if_neg h1.symm, hw1]
  · rw [cfg_setFld, if_neg h3.symm, hw3]
  · rw [bit, cfg_setFld, if_pos rfl, hctx]
    exact faulted_after_more _ _

/-- A byte of a register reads back what was written into it. -/
theorem fld_setFld_more (s : State) (a v : Nat) : (s.setFld a 23 16 v).fld a 23 16 = v % 2 ^ 8 := by
  simp [fld, bitsOf, putBits]
  omega

/-- A fault of a context that is FAULTED. -/
theorem faultTaken_more {s : State} {f : XFault} (h : f.ctx < 64) (hb : s.bit (Reg.XLAT_CTX f.ctx) 0 = true) :
    (s.faultTaken f).cfg (Reg.XLAT_FLT_W0 f.ctx) = s.cfg (Reg.XLAT_FLT_W0 f.ctx)
      ∧ (s.faultTaken f).fld (Reg.XLAT_CTX f.ctx) 23 16 = min 255 (s.fld (Reg.XLAT_CTX f.ctx) 23 16 + 1) := by
  have hfld : (s.bumpBy Reg.XLAT_FLT_CNT 1).fld (Reg.XLAT_CTX f.ctx) 23 16 = s.fld (Reg.XLAT_CTX f.ctx) 23 16 := rfl
  simp only [faultTaken, hb, if_true, hfld]
  constructor
  · rw [cfg_setFld, if_neg (ctxReg_ne_record h).1.symm, cfg_bumpBy]
  · rw [fld_setFld_more, b2n, if_pos rfl]
    exact Nat.mod_eq_of_lt (by omega)

end State

/-- Of the contexts of a list, only one has something to do. -/
theorem foldl_of_only {f : State → Nat → State} {a : Nat} (h : ∀ t x, x ≠ a → f t x = t) {l : List Nat} (hl : l.Nodup)
    (ha : a ∈ l) (s : State) : l.foldl f s = f s a := by
  have hidle (l : List Nat) (hl : a ∉ l) (s : State) : l.foldl f s = s :=
    List.foldlRecOn (motive := fun t => t = s) l f rfl fun t ht x hx => ht ▸ h t x fun hxa => hl (hxa ▸ hx)
  obtain ⟨p, q, rfl⟩ := List.append_of_mem ha
  obtain ⟨-, hq, hp⟩ := List.nodup_append.mp hl
  rw [List.foldl_append, hidle p fun hap => hp a hap a List.mem_cons_self rfl, List.foldl_cons,
    hidle q (List.nodup_cons.mp hq).1]

section
variable {s : State} {f : XFault} {rest : List XFault} (hfatal : s.sump.fatal = false) (hfaults : s.xl.faults = f :: rest)
  (hctx : f.ctx < 64)
include hfatal hfaults hctx

/-- One fault reaches its context's record. -/
theorem exec_translationFault_one :
    exec (.translationFault 1) s = .next ((s.setXl { s.xl with faults := rest }).takeFaults f.ctx [f]) := by
  change execTranslationFault 1 s = _
  unfold execTranslationFault
  simp only [hfaults, List.take_succ_cons, List.take_zero]
  rw [when_of _ _ _ (by simp [hfatal]), foldl_of_only (a := f.ctx) ?_ List.nodup_range (List.mem_range.mpr hctx)]
  · simp [hfaults]
  · intro t x hx
    simp [hx.symm]

theorem exec_translationFault_fabric (h : f.req = 4) :
    exec (.translationFault 1) s = .next ((s.setXl { s.xl with faults := rest }).faultTaken f) := by
  rw [exec_translationFault_one hfatal hfaults hctx, State.takeFaults_one, if_pos h]

theorem exec_translationFault_other (h : f.req ≠ 4) :
    exec (.translationFault 1) s = .next (((s.setXl { s.xl with faults := rest }).faultTaken f).suspend f.ctx .xlat) := by
  rw [exec_translationFault_one hfatal hfaults hctx, State.takeFaults_one, if_neg h]

end

theorem faultRecords : Claims.faultRecords := by
  intro s f rest hfatal hfaults hctx
  refine ⟨fun hreq hb => ⟨_, exec_translationFault_fabric hfatal hfaults hctx hreq, ?_⟩,
    fun hreq hb => ⟨_, exec_translationFault_fabric hfatal hfaults hctx hreq, ?_⟩,
    fun hreq hrun => ⟨_, exec_translationFault_other hfatal hfaults hctx hreq, ?_⟩⟩
  · obtain ⟨hw0, hw1, hw3, hbit⟩ := State.faultTaken_first (s := s.setXl { s.xl with faults := rest }) hctx hb
    obtain ⟨hxl, hctx', hsump, hhbm⟩ := (s.setXl { s.xl with faults := rest }).faultTaken_frame f
    exact ⟨hw0, hw1, hw3, hbit, State.ctr_faultTaken .., congrArg XlatSt.faults hxl, hctx', hsump, hhbm⟩
  · obtain ⟨hw0, hmore⟩ := State.faultTaken_more (s := s.setXl { s.xl with faults := rest }) hctx hb
    obtain ⟨-, hctx', -⟩ := (s.setXl { s.xl with faults := rest }).faultTaken_frame f
    exact ⟨hw0, hmore, hctx'⟩
  · obtain ⟨-, hctx', -, hhbm⟩ := (s.setXl { s.xl with faults := rest }).faultTaken_frame f
    have hrun' : (((s.setXl { s.xl with faults := rest }).faultTaken f).context f.ctx).state = .running := by
      rw [State.context, hctx']
      exact hrun
    obtain ⟨hcontext, hhbm'⟩ := State.suspend_of_running hrun' .xlat 0 0
    exact ⟨congrArg Ctx.state hcontext, congrArg Ctx.causes hcontext, hhbm'.trans hhbm⟩

/-- Settles O17: a demand is one translation, each outcome of which is a lemma (`State.xlate_flat` to `State.xlate_paged_fault`);
one fault is one taking of its context (`State.faultTaken`), and what suspends a context changes no more of what is claimed
(`State.suspend_of_running`). -/
theorem walksAndFaultRecords : Obligations.WalksAndFaultRecords := ⟨walksAndTheirFaults, faultRecords⟩

end Sys2Proof.Machine

namespace Sys2Proof.Machine

/-!
Context commands (R262, R263, R282, R284, R287, R481, R492). A row runs the command that waits for it, and its meaning is a
function of that command and the state (`State.withCmd_of_waiting`), so each clause is about that function: which of its branches
the command takes, and what the branch's writes leave of the segment registers (`State.seg_putSeg`, `State.seg_advise`).
-/

/-! ### Rows of commands -/

section
variable {i : Instr} {s : State} {src : CmdSrc} {op : Nat} {c : Cmd} {f : Cmd → State → State} {P : State → Prop}

theorem State.withCmd_of_waiting (h : Claims.Waiting s src op c) : s.withCmd src op f = f c s := by
  obtain ⟨hfatal, hup, hfind⟩ := h
  simp [State.withCmd, hfind, hup, hfatal]

/-- A row whose meaning ends its command. -/
theorem answers_of_waiting (h : Claims.Waiting s src op c) (hrow : exec i s = done (s.withCmd src op f)) {u : State}
    {status detail flags r0 r1 : Nat} (hf : f c s = u.complete c status detail flags r0 r1) (hP : P u) :
    Claims.Answers i s c status P r0 r1 :=
  ⟨u, detail, flags, by rw [hrow, State.withCmd_of_waiting h, hf, done_eq], hP⟩

/-- A row whose meaning leaves its command running. -/
theorem completes_of_waiting (h : Claims.Waiting s src op c) (hrow : exec i s = done (s.withCmd src op f)) (hP : P (f c s)) :
    Claims.Completes i s P :=
  ⟨f c s, by rw [hrow, State.withCmd_of_waiting h, done_eq], hP⟩

end

/-! ### Words of a command -/

theorem ofLe_lt (bs : List Byte) : ofLe bs < 256 ^ bs.length := by
  induction bs with
  | nil => simp [ofLe]
  | cons b bs ih =>
    have hb : b.toNat < 256 := b.isLt
    simp only [ofLe, List.length_cons, Nat.pow_succ]
    omega

/-- Four bytes of a slot are a word. -/
theorem Cmd.par_word_lt (c : Cmd) (off : Nat) : c.par off 4 < 2 ^ 32 :=
  (ofLe_lt _).trans_le (Nat.pow_le_pow_right (by decide) (List.length_take_le 4 _))

namespace State

/-! ### Creation (R481) -/

@[simp] theorem ctxRegs_frame (s : State) (x : Nat) :
    (s.ctxRegs x).ctx = s.ctx ∧ (s.ctxRegs x).vci = s.vci ∧ (s.ctxRegs x).hbm = s.hbm := by
  unfold ctxRegs
  simp only [setBit_frame, setCfg_frame]
  exact List.foldlRecOn (motive := fun t : State => t.ctx = s.ctx ∧ t.vci = s.vci ∧ t.hbm = s.hbm) _ _ ⟨rfl, rfl, rfl⟩
    fun _ h _ _ => by simpa using h

theorem ctxBad_of_not_free {s : State} {n : Nat} (hfree : (s.context n).state ≠ .free)
    (hdest : (s.context n).state ≠ .destroying) (hnone : (s.context n).destroy = none) (k : Ctx) (cbase csize : Nat) :
    s.ctxBad k n cbase csize = some (6, (s.context n).state.code) := by
  simp [ctxBad, hfree, hdest, hnone]

/-! ### Segment registers (R262, R284) -/

/-- A segment is what its four registers hold. -/
theorem seg_congr {s t : State} {x i : Nat} (h0 : t.cfg (Reg.XLAT_SEG_W0 x i) = s.cfg (Reg.XLAT_SEG_W0 x i))
    (h1 : t.cfg (Reg.XLAT_SEG_W1 x i) = s.cfg (Reg.XLAT_SEG_W1 x i))
    (h2 : t.cfg (Reg.XLAT_SEG_W2 x i) = s.cfg (Reg.XLAT_SEG_W2 x i))
    (h3 : t.cfg (Reg.XLAT_SEG_W3 x i) = s.cfg (Reg.XLAT_SEG_W3 x i)) : t.seg x i = s.seg x i := by
  simp [seg, h0, h1, h2, h3]

theorem seg_putSeg (s : State) (x i : Nat) {w0 w1 w2 w3 : Nat} (h0 : w0 < 2 ^ 32) (h1 : w1 < 2 ^ 32) (h2 : w2 < 2 ^ 32)
    (h3 : w3 < 2 ^ 32) : (s.putSeg x i ⟨w0, w1, w2, w3⟩).seg x i = ⟨w0, w1, w2, w3⟩ := by
  simp [seg, putSeg]
  omega

/-- A write of a segment's descriptor touches the 16 bytes of its four registers. -/
theorem cfg_putSeg_outside (s : State) {x i a : Nat} (g : Seg) (h : a < Reg.XLAT_SEG_W0 x i ∨ Reg.XLAT_SEG_W3 x i < a) :
    (s.putSeg x i g).cfg a = s.cfg a := by
  obtain ⟨h0, h1, h2, h3⟩ : a ≠ Reg.XLAT_SEG_W0 x i ∧ a ≠ Reg.XLAT_SEG_W1 x i ∧ a ≠ Reg.XLAT_SEG_W2 x i
      ∧ a ≠ Reg.XLAT_SEG_W3 x i := by
    simp only [Reg.XLAT_SEG_W0, Reg.XLAT_SEG_W1, Reg.XLAT_SEG_W2, Reg.XLAT_SEG_W3] at h ⊢
    omega
  simp [putSeg, h0, h1, h2, h3]

theorem seg_putSeg_other (s : State) (x : Nat) {i j : Nat} (g : Seg) (h : j ≠ i) : (s.putSeg x i g).seg x j = s.seg x j := by
  have hword (k : Nat) (hk : k ≤ 12) :
      (s.putSeg x i g).cfg (0x810000 + k + 256 * x + 16 * j) = s.cfg (0x810000 + k + 256 * x + 16 * j) :=
    s.cfg_putSeg_outside g (by
      simp only [Reg.XLAT_SEG_W0, Reg.XLAT_SEG_W3]
      omega)
  exact seg_congr (hword 0 (by decide)) (hword 4 (by decide)) (hword 8 (by decide)) (hword 12 (by decide))

@[simp] theorem putSeg_frame (s : State) (x i : Nat) (g : Seg) :
    (s.putSeg x i g).vci = s.vci ∧ (s.putSeg x i g).xl = s.xl ∧ (s.putSeg x i g).hbm = s.hbm := by
  simp [putSeg]

@[simp] theorem seg_running (s : State) (c : Cmd) (x i : Nat) : (s.running c).seg x i = s.seg x i := rfl

@[simp] theorem seg_invalidate (s : State) (cmd : Option Cmd) (y lo hi x i : Nat) :
    (s.invalidate cmd y lo hi).seg x i = s.seg x i := rfl

/-- What stands among the started commands depends on the commands alone. -/
theorem vci_running_congr {s t : State} (h : t.vci = s.vci) (c : Cmd) : (t.running c).vci = (s.running c).vci := by
  simp [running, h]

/-- An invalidation is one more entry of the queue of invalidations. -/
theorem invalidate_frame (s : State) (cmd : Option Cmd) (x lo hi : Nat) :
    (s.invalidate cmd x lo hi).xl = { s.xl with invs := s.xl.invs ++ [⟨cmd, x, lo, hi, false, []⟩] }
      ∧ (s.invalidate cmd x lo hi).vci = s.vci ∧ (s.invalidate cmd x lo hi).reg = s.reg :=
  ⟨rfl, rfl, rfl⟩

@[simp] theorem running_xl_reg (s : State) (c : Cmd) : (s.running c).xl = s.xl ∧ (s.running c).reg = s.reg := ⟨rfl, rfl⟩

/-- ADV and PIN of a segment, written. -/
theorem seg_advise (s : State) (x i v : Nat) :
    ((s.setFld (Reg.XLAT_SEG_W0 x i) 24 22 v).seg x i).adv = v % 4
      ∧ ((s.setFld (Reg.XLAT_SEG_W0 x i) 24 22 v).seg x i).w1 = (s.seg x i).w1
      ∧ ((s.setFld (Reg.XLAT_SEG_W0 x i) 24 22 v).seg x i).core0 = (s.seg x i).core0 := by
  refine ⟨?_, ?_, ?_⟩
  · simp [seg, Seg.adv, putBits, bitsOf]
    omega
  · simp [seg]
  · simp [seg, Seg.core0, putBits, bitsOf]
    omega

/-! ### Prefetch (R287) -/

end State

theorem pageBytes_dvd (lvl : Nat) : 65536 ∣ pageBytes lvl := by
  unfold pageBytes
  split <;> decide

theorem pageBytes_pos (lvl : Nat) : 0 < pageBytes lvl := by
  unfold pageBytes
  split <;> decide

namespace State

/-- A page size is a multiple of 64 KiB. -/
theorem pageSize_multiple (s : State) (r x dva : Nat) : 65536 ∣ s.pageSize r x dva ∧ 0 < s.pageSize r x dva := by
  unfold pageSize
  dsimp only
  split
  · decide
  · split
    · exact ⟨pageBytes_dvd _, pageBytes_pos _⟩
    · split <;> exact ⟨pageBytes_dvd _, pageBytes_pos _⟩

/-- In no region, the walk of a range within one 64 KiB page ends after that page. -/
theorem walkPages_of_one_page {s : State} {regions x a hi n : Nat} (hr : regions = 0) (hn : 2 ≤ n) (ha : a % 65536 = 0)
    (hlt : a < hi) (hle : hi ≤ a + 65536) : walkPages regions x hi n a s = (false, s) := by
  obtain ⟨n, rfl⟩ := Nat.exists_eq_add_of_le' hn
  subst hr
  obtain ⟨hdvd, hpos⟩ := s.pageSize_multiple 0 x a
  have hnext : hi ≤ a - a % s.pageSize 0 x a + s.pageSize 0 x a := by
    have hrest : 65536 ∣ a % s.pageSize 0 x a := (Nat.dvd_mod_iff hdvd).mpr (Nat.dvd_of_mod_eq_zero ha)
    have hrest_lt := Nat.mod_lt a hpos
    have hrest_le := Nat.mod_le a (s.pageSize 0 x a)
    omega
  have hnone : (List.range 4).filter (fun r => bitOf 0 r) = [] := by decide
  simp [walkPages, hlt.not_ge, hnone, hnext]

end State

/-! ### The commands -/

section
variable {s : State} {src : CmdSrc} {c : Cmd}

theorem ctxCreate_of_good {k : Ctx} (h : Claims.Waiting s src 0x0200 c)
    (hk : k = { state := .empty, part := c.part, cores := c.par 0 12, save := (List.range 4).map fun r => c.par (0x10 + 8 * r) 8 })
    (hgood : s.ctxBad k c.ctx (c.par 0xC 2) (c.par 0xE 2) = none) :
    Claims.Answers (.ctxCreate src) s c 0 fun u =>
      u.context c.ctx = k ∧ (∀ x, x ≠ c.ctx → u.context x = s.context x) ∧ u.vci = s.vci ∧ u.hbm = s.hbm := by
  subst hk
  refine answers_of_waiting h rfl (by simp only [hgood]; rfl) ?_
  simp +contextual [State.context, State.setCtx]

theorem ctxCreate_of_taken (h : Claims.Waiting s src 0x0200 c) (hfree : (s.context c.ctx).state ≠ .free)
    (hdest : (s.context c.ctx).state ≠ .destroying) (hnone : (s.context c.ctx).destroy = none) :
    Claims.Answers (.ctxCreate src) s c 6 fun u => u = s :=
  answers_of_waiting h rfl (by simp only [State.ctxBad_of_not_free hfree hdest hnone]; rfl) rfl

theorem segMap_of_bad (h : Claims.Waiting s src 0x0202 c) (hi : c.par 0 1 < 16) {st d : Nat}
    (hbad : s.segBad c.ctx (c.par 0 1) ⟨c.par 0x10 4, c.par 0x14 4, c.par 0x18 4, c.par 0x1C 4⟩ = some (st, d)) :
    Claims.Answers (.segMap src) s c st fun u => u = s :=
  answers_of_waiting h rfl (by simp only [hbad, if_neg (show ¬15 < c.par 0 1 by omega)]; rfl) rfl

theorem segMap_of_unmapped (h : Claims.Waiting s src 0x0202 c) (hi : c.par 0 1 < 16)
    (hgood : s.segBad c.ctx (c.par 0 1) ⟨c.par 0x10 4, c.par 0x14 4, c.par 0x18 4, c.par 0x1C 4⟩ = none)
    (hold : (s.seg c.ctx (c.par 0 1)).valid = false) :
    Claims.Answers (.segMap src) s c 0 fun u =>
      u.seg c.ctx (c.par 0 1) = ⟨c.par 0x10 4, c.par 0x14 4, c.par 0x18 4, c.par 0x1C 4⟩
        ∧ (∀ j, j < 16 → j ≠ c.par 0 1 → u.seg c.ctx j = s.seg c.ctx j) ∧ u.vci = s.vci ∧ u.xl = s.xl ∧ u.hbm = s.hbm := by
  refine answers_of_waiting h rfl (by
    simp only [hgood, if_neg (show ¬15 < c.par 0 1 by omega), hold, Bool.false_eq_true, false_and, if_false]
    rfl) ⟨?_, fun j _ hj => State.seg_putSeg_other s c.ctx _ hj, State.putSeg_frame ..⟩
  exact State.seg_putSeg s _ _ (c.par_word_lt _) (c.par_word_lt _) (c.par_word_lt _) (c.par_word_lt _)

theorem segUnmap_asks (h : Claims.Waiting s src 0x0203 c) (hi : c.par 0 1 < 16) :
    Claims.Completes (.segUnmap src) s fun t =>
      t.seg c.ctx (c.par 0 1) = ⟨0, 0, 0, 0⟩ ∧ (∀ j, j < 16 → j ≠ c.par 0 1 → t.seg c.ctx j = s.seg c.ctx j)
        ∧ t.xl.invs = s.xl.invs ++ [⟨some c, c.ctx, c.par 0 1 * 2 ^ 44, c.par 0 1 * 2 ^ 44 + 2 ^ 44 - 1, false, []⟩]
        ∧ t.vci = (s.running c).vci := by
  refine completes_of_waiting h rfl ?_
  obtain ⟨hvci, hxl, -⟩ := s.putSeg_frame c.ctx (c.par 0 1) ⟨0, 0, 0, 0⟩
  simp only [if_neg (show ¬15 < c.par 0 1 by omega), State.seg_invalidate, State.seg_running, State.invalidate_frame,
    State.running_xl_reg, hxl]
  exact ⟨State.seg_putSeg s _ _ (by decide) (by decide) (by decide) (by decide),
    fun j _ hj => State.seg_putSeg_other s c.ctx _ hj, rfl, State.vci_running_congr hvci c⟩

theorem invalidate_context_asks (h : Claims.Waiting s src 0x0204 c) (hall : c.par 0 1 = 0) :
    Claims.Completes (.invalidate src) s fun t =>
      t.xl = { s.xl with invs := s.xl.invs ++ [⟨some c, c.ctx, 0, 2 ^ 48 - 1, false, []⟩] } ∧ t.vci = (s.running c).vci
        ∧ t.reg = s.reg := by
  refine completes_of_waiting h rfl ?_
  simp only [if_pos hall, State.invalidate_frame, State.running_xl_reg, and_self]

theorem prefetchXlat_of_nothing (h : Claims.Waiting s src 0x0205 c) (hn : c.par 0x10 8 = 0) :
    Claims.Answers (.prefetchXlat src) s c 0xA fun u => u = s :=
  answers_of_waiting h rfl (by simp only [hn, true_or, if_true]; rfl) rfl

/-- A prefetch whose pages are all walked, in the regions named. -/
theorem prefetchXlat_of_walked (h : Claims.Waiting s src 0x0205 c) (hpos : 0 < c.par 0x10 8)
    (hend : c.par 8 8 + c.par 0x10 8 ≤ 2 ^ 48) {u : State}
    (hwalk : State.walkPages (c.par 0 1) c.ctx (c.par 8 8 + c.par 0x10 8) 256 (c.par 8 8) s = (false, u)) :
    Claims.Answers (.prefetchXlat src) s c 0 fun v => v = u :=
  have hin : ¬(c.par 0x10 8 = 0 ∨ 2 ^ 48 < c.par 8 8 + c.par 0x10 8) := not_or.mpr ⟨hpos.ne', hend.not_gt⟩
  answers_of_waiting h rfl (detail := 0) (flags := 0) ((if_neg hin).trans (by
    rw [hwalk]
    simp only [Bool.false_eq_true, if_false])) rfl

theorem prefetchXlat_in_no_region (h : Claims.Waiting s src 0x0205 c) (hr : c.par 0 1 = 0) (hpos : 0 < c.par 0x10 8)
    (hpage : c.par 0x10 8 ≤ 65536) (hend : c.par 8 8 + c.par 0x10 8 ≤ 2 ^ 48) (halign : c.par 8 8 % 65536 = 0) :
    Claims.Answers (.prefetchXlat src) s c 0 fun u => u = s :=
  prefetchXlat_of_walked h hpos hend
    (State.walkPages_of_one_page hr (by decide) halign (Nat.lt_add_of_pos_right hpos) (Nat.add_le_add_left hpage _))

theorem advise_of_mapped (h : Claims.Waiting s src 0x0206 c) (hi : c.par 0 1 < 16)
    (hmapped : (s.seg c.ctx (c.par 0 1)).valid = true) (hadv : c.par 1 1 < 3) :
    Claims.Answers (.advise src) s c 0 fun u =>
      (u.seg c.ctx (c.par 0 1)).adv = c.par 1 1 ∧ (u.seg c.ctx (c.par 0 1)).w1 = (s.seg c.ctx (c.par 0 1)).w1
        ∧ (u.seg c.ctx (c.par 0 1)).core0 = (s.seg c.ctx (c.par 0 1)).core0 ∧ u.xl = s.xl ∧ u.vci = s.vci := by
  refine answers_of_waiting h rfl ((if_neg (show ¬15 < c.par 0 1 by omega)).trans (if_neg (by simp [hmapped]))) ?_
  obtain ⟨hadv', hw1, hcore⟩ := s.seg_advise c.ctx (c.par 0 1) (c.par 1 1 + 4 * b2n (bitOf (c.par 2 1) 0))
  exact ⟨hadv'.trans (by omega), hw1, hcore, by simp, by simp⟩

theorem queryContext_answers (h : Claims.Waiting s src 0x020C c) (hc : c.par 0 1 = 0) :
    Claims.Answers (.queryContext src) s c 0 (fun u => u = s)
      ((s.context c.ctx).state.code + s.boundCores c.ctx * 256
        + ((s.coresOf c.ctx).filter fun j => (s.core j).seq == .halted).length * 65536
        + (((s.context c.ctx).causes.head?.map (·.code)).getD 0) * 2 ^ 24) (((s.context c.ctx).base).getD 0) :=
  answers_of_waiting h rfl (if_neg (not_not.mpr hc)) rfl

theorem queryList_of_found (h : Claims.Waiting s src 0x020C c) (hl : c.par 0 1 = 1) (hcls : c.cls = 15) {k : Nat} {l : CList}
    (hfound : s.listOfCmd ⟨c.par 2 2, c.par 4 2⟩ = some (k, l)) :
    Claims.Answers (.queryList src) s c 0 (fun u => u = s) (s.listPos k l)
      (l.permille (decide (16 ≤ k / 64)) + l.st.code * 2 ^ 10 + l.status * 2 ^ 13) :=
  answers_of_waiting h rfl (by
    simp only [if_neg (not_not.mpr hl), hfound, hcls, ne_eq, not_true, false_and, if_false]
    rfl) rfl

theorem queryList_of_none (h : Claims.Waiting s src 0x020C c) (hl : c.par 0 1 = 1)
    (hnone : s.listOfCmd ⟨c.par 2 2, c.par 4 2⟩ = none) :
    Claims.Answers (.queryList src) s c 0xA fun u => u = s :=
  answers_of_waiting h rfl (by simp only [if_neg (not_not.mpr hl), hnone]; rfl) rfl

end

/-- Settles O43: each clause is the branch that its command takes, by the lemma named for it. -/
theorem contextCommands : Obligations.ContextCommands := by
  intro s src c i
  refine ⟨fun k h hk => ⟨ctxCreate_of_good h hk, ctxCreate_of_taken h⟩, ?_, ?_, fun h => invalidate_context_asks h,
    fun h => ⟨prefetchXlat_of_nothing h, prefetchXlat_in_no_region h⟩, ?_,
    fun h => ⟨queryContext_answers h, fun k l hl hcls => queryList_of_found h hl hcls, queryList_of_none h⟩⟩
  · rintro g h rfl hi - rfl
    exact ⟨fun st d => segMap_of_bad h hi, segMap_of_unmapped h hi⟩
  · rintro h rfl hi -
    exact segUnmap_asks h hi
  · rintro h rfl hi - hmapped hadv
    exact advise_of_mapped h hi hmapped hadv

end Sys2Proof.Machine

namespace Sys2Proof.Machine

/-!
Host snoops of the device cache and the sweep of INIT (R304, R305, R308). A snoop is counted and answered by what the cache has
of its line (`State.hostSnoop_inv_present`, `State.hostSnoop_share_present`, `State.hostSnoop_absent`); a line that leaves takes
its copies in the core caches with it, and nothing else changes (`State.dcDrop_frame`, `State.dcDrop_dc`).
-/

/-- A fill in flight, kept from installing its line if that is the snooped one. -/
def Fill.snooped (line : Nat) (f : Fill) : Fill := if f.line = line then { f with key := none } else f

theorem Fill.snooped_key {line : Nat} {f : Fill} (h : (f.snooped line).line = line) : (f.snooped line).key = none := by
  by_cases hline : f.line = line <;> simp_all [Fill.snooped]

namespace State

/-! ### A line leaves the device cache (R292) -/

@[simp] theorem ccRemove_frame (s : State) (c line : Nat) :
    (s.ccRemove c line).dc = s.dc ∧ (s.ccRemove c line).out = s.out ∧ (s.ccRemove c line).reg = s.reg
      ∧ (s.ccRemove c line).hbm = s.hbm := by
  unfold ccRemove
  split <;> simp

@[simp] theorem backInval_frame (s : State) (pres line : Nat) :
    (s.backInval pres line).dc = s.dc ∧ (s.backInval pres line).out = s.out ∧ (s.backInval pres line).reg = s.reg
      ∧ (s.backInval pres line).hbm = s.hbm := by
  refine List.foldlRecOn (motive := fun t : State => t.dc = s.dc ∧ t.out = s.out ∧ t.reg = s.reg ∧ t.hbm = s.hbm) _ _
    ⟨rfl, rfl, rfl, rfl⟩ fun t h e _ => ?_
  split
  · simpa using h
  · exact h

@[simp] theorem dcDrop_frame (s : State) (i : Nat) :
    (s.dcDrop i).out = s.out ∧ (s.dcDrop i).reg = s.reg ∧ (s.dcDrop i).hbm = s.hbm := by
  unfold dcDrop
  split <;> simp

@[simp] theorem ctr_dcDrop (s : State) (i a : Nat) : (s.dcDrop i).ctr a = s.ctr a := by
  simp [ctr]

theorem dcDrop_dc {s : State} {i : Nat} {l : DLine} (h : tfind s.dc.lines i = some l) :
    (s.dcDrop i).dc = { s.dc with lines := tdel i s.dc.lines } := by
  simp [dcDrop, h, setDc]

/-! ### The place of a line (R291) -/

theorem dcKey_congr {s t : State} (h : t.dc = s.dc) (line : Nat) : t.dcKey line = s.dcKey line := by
  simp [dcKey, h]

@[simp] theorem dcKey_bump (s : State) (a line : Nat) : (s.bump a).dcKey line = s.dcKey line :=
  dcKey_congr (by simp) line

theorem tfind_of_dcKey {s : State} {line i : Nat} (h : s.dcKey line = some i) :
    ∃ l, tfind s.dc.lines i = some l ∧ l.line = line := by
  simpa [Option.any_eq_true] using List.find?_some h

/-! ### Snoops (R304, R308) -/

section
variable {s : State} {line i : Nat}

theorem hostSnoop_inv_present (h : s.dcKey line = some i) :
    s.hostSnoop line true = (((s.bump Reg.DC_SNP_CNT).dcDrop i).bump Reg.DC_SNP_INV_CNT).send (.snpRsp line 1) := by
  simp [hostSnoop, h]

theorem hostSnoop_share_present (h : s.dcKey line = some i) :
    s.hostSnoop line false = (s.bump Reg.DC_SNP_CNT).send (.snpRsp line 2) := by
  simp [hostSnoop, h]

theorem hostSnoop_inv_absent (h : s.dcKey line = none) :
    s.hostSnoop line true = ((s.bump Reg.DC_SNP_CNT).setDc { s.dc with fills := s.dc.fills.map (Fill.snooped line) }).send
      (.snpRsp line 0) := by
  simp [hostSnoop, h]
  rfl

theorem hostSnoop_share_absent (h : s.dcKey line = none) :
    s.hostSnoop line false = (s.bump Reg.DC_SNP_CNT).send (.snpRsp line 0) := by
  simp [hostSnoop, h]

end

end State

/-! ### The rows of snoops and of the sweep -/

section
variable {s : State} {line : Fin 70368744177664} (hup : s.hl.up = true) (hon : s.dc.state ≠ .off)
include hup hon

theorem exec_hostSnpinv : exec (.hostSnpinv line) s = .next (s.hostSnoop line true) := by
  change execHostSnpinv line s = _
  exact when_of _ _ _ (by simp [hup, hon])

theorem exec_hostSnpdata : exec (.hostSnpdata line) s = .next (s.hostSnoop line false) := by
  change execHostSnpdata line s = _
  exact when_of _ _ _ (by simp [hup, hon])

theorem exec_hostSnpcur : exec (.hostSnpcur line) s = .next (s.hostSnoop line false) := by
  change execHostSnpcur line s = _
  exact when_of _ _ _ (by simp [hup, hon])

end

theorem exec_dcInitSweep_idle {s : State} (hinit : s.dc.state = .init) (hidle : s.dc.op = none) :
    exec .dcInitSweep s = .next (s.setDc { s.dc with lines := [], state := .run, set := 16383 }) := by
  have hend : s.dcOpEnd 2 = s := by simp [State.dcOpEnd, hidle]
  change execDcInitSweep s = _
  refine (when_of _ _ _ (by simp [hinit])).trans ?_
  rw [hend]

/-- Settles O20: a snoop of a line is one of four, by what it asks and whether the cache has the line; and a sweep with no
operation under way is its write of the cache's state. -/
theorem hostSnoopsAndTheSweep : Obligations.HostSnoopsAndTheSweep := by
  intro s line hup
  refine ⟨fun hon hpresent => ?_, fun hon habsent => ?_,
    fun hinit hidle => ⟨_, exec_dcInitSweep_idle hinit hidle, rfl, rfl⟩⟩
  · obtain ⟨i, hkey⟩ := Option.isSome_iff_exists.mp hpresent
    obtain ⟨l, hfind, -⟩ := State.tfind_of_dcKey hkey
    have hdrop := State.dcDrop_dc (s := s.bump Reg.DC_SNP_CNT) hfind
    refine ⟨⟨_, exec_hostSnpinv hup hon, ?_⟩, ⟨_, exec_hostSnpdata hup hon, ?_⟩, ⟨_, exec_hostSnpcur hup hon, ?_⟩⟩
    · rw [State.hostSnoop_inv_present hkey, hkey]
      exact ⟨by simp, by simp [hdrop], by simp [Claims.plus], by simp [hdrop]⟩
    · simp [State.hostSnoop_share_present hkey]
    · simp [State.hostSnoop_share_present hkey]
  · refine ⟨⟨_, exec_hostSnpinv hup hon, ?_⟩, ⟨_, exec_hostSnpdata hup hon, ?_⟩⟩
    · rw [State.hostSnoop_inv_absent habsent]
      refine ⟨by simp, rfl, fun f hf => ?_⟩
      obtain ⟨f, -, rfl⟩ := List.mem_map.mp hf
      exact Fill.snooped_key
    · simp [State.hostSnoop_share_absent habsent]

end Sys2Proof.Machine

namespace Sys2Proof.Machine

/-!
Maintenance of the device cache, and changes of bias (R305, R306, R450, R452). An operation by address with nothing waiting to be
written evicts the lines it names at once and ends its command (`State.dcCmd_by_address`, `State.dcOpStep_ends`). A change of bias
writes one bit per granule, and a granule reads as the last write of its bit (`State.granuleHost_setBias`).
-/

namespace State

/-! ### Traffic toward the host leaves the cache and HBM alone (R463) -/

@[simp] theorem cacheReq_frame (s : State) (op line off : Nat) (bs : List Byte) :
    (s.cacheReq op line off bs).dc = s.dc ∧ (s.cacheReq op line off bs).hbm = s.hbm := by
  obtain ⟨_, _, _, _, h⟩ := TowardHost.hostWrite s (.req op line off bs)
  rw [cacheReq, h]
  exact ⟨rfl, rfl⟩

/-! ### Maintenance by address (R306) -/

theorem dcEvict_dc {s : State} {i : Nat} {l : DLine} (h : tfind s.dc.lines i = some l) :
    (s.dcEvict i).dc = { s.dc with lines := tdel i s.dc.lines, evb := s.dc.evb ++ [l.line] } := by
  simp [dcEvict, h, setDc, dcDrop_dc h]

@[simp] theorem dcEvict_hbm (s : State) (i : Nat) : (s.dcEvict i).hbm = s.hbm := by
  unfold dcEvict
  split <;> simp

/-- The lines that an operation has yet to remove: a CLEAN removes none. -/
def dcOpHits (s : State) (o : DcOp) : Tbl DLine := if o.op = 1 then [] else s.dc.lines.filter fun e => dcOpNames o e.1 e.2

theorem dcOpHits_of_clean {o : DcOp} (h : o.op = 1) (s : State) : s.dcOpHits o = [] := if_pos h

theorem dcOpHits_of_remove {o : DcOp} (hop : o.op ≠ 1) (haddr : o.bySet = false) (s : State) :
    s.dcOpHits o = s.dc.lines.filter fun e => decide (e.2.line = o.line) := by
  simp [dcOpHits, hop, dcOpNames, haddr]

theorem dcOpEnd_of_cmd {s : State} {o : DcOp} {c : Cmd} (hop : s.dc.op = some o) (hcmd : o.cmd = some c) :
    s.dcOpEnd 0 = ((s.setDc { s.dc with op := none }).setFld Reg.DC_MAINT 27 26 0).complete c 0 := by
  simp [dcOpEnd, hop, hcmd]

/-- An operation by address that waits for no write, and that leaves no line it names once it has evicted what the buffer has
room for, ends its command. -/
theorem dcOpStep_ends {s t : State} {o : DcOp} {c : Cmd} (hop : s.dc.op = some o) (haddr : o.bySet = false)
    (hwts : o.wts = []) (hcmd : o.cmd = some c)
    (hevict : ((s.dcOpHits o).take (64 - s.dc.evb.length)).foldl (fun s e => s.dcEvict e.1) s = t)
    (hop' : t.dc.op = some o) (hrest : t.dcOpHits o = []) :
    ∃ u : State, s.dcOpStep = u.complete c 0 ∧ u.dc.lines = t.dc.lines ∧ u.dc.op = none ∧ u.out = t.out ∧ u.hbm = t.hbm := by
  unfold dcOpHits at hevict hrest
  unfold dcOpStep
  simp only [hop, haddr, hwts, hevict]
  rw [if_neg (by simp), if_pos ?_, dcOpEnd_of_cmd ?_ hcmd]
  · exact ⟨_, rfl, by simp⟩
  · exact hop'
  · exact List.isEmpty_iff.mpr hrest

/-- An operation by address shows its operands in the maintenance registers. -/
def dcMaintRegs (s : State) (op line first count ways : Nat) : State :=
  ((((s.setCfg Reg.DC_MAINT (BitVec.ofNat 32 (op + 16 * b2n false))).setCfg Reg.DC_MAINT_SW
    (BitVec.ofNat 32 (ways * 65536 + first))).setCfg Reg.DC_MAINT_CNT (BitVec.ofNat 32 count)).setCfg Reg.DC_MAINT_A0
    (BitVec.ofNat 32 line)).setCfg Reg.DC_MAINT_A1 (BitVec.ofNat 32 (line / 2 ^ 32))

theorem dcMaintRegs_frame (s : State) (op line first count ways : Nat) :
    (s.dcMaintRegs op line first count ways).dc = s.dc ∧ (s.dcMaintRegs op line first count ways).out = s.out
      ∧ (s.dcMaintRegs op line first count ways).hbm = s.hbm :=
  ⟨rfl, rfl, rfl⟩

/-- With nothing waiting to be written, an operation by address waits for no write. -/
theorem dcOpStart_by_address {s : State} (hwt : s.dc.wt = []) (op line first count ways : Nat) (c : Cmd) :
    s.dcOpStart op false line first count ways (some c)
      = ((s.dcMaintRegs op line first count ways).setDc
          { s.dc with op := some ⟨op, false, line, first, count, ways, [], some c⟩ }).dcOpStep := by
  simp only [dcOpStart, Bool.false_eq_true, false_and, if_false, setCfg_frame, hwt, List.filter_nil, List.map_nil, ite_self,
    dcMaintRegs]

section
variable {s : State} {src : CmdSrc} {c : Cmd} {line : Nat} (h : Claims.Waiting s src 0x0008 c) (hscope : c.par 1 1 = 0)
  (hhpa : c.par 8 8 = 64 * line) (hlt : 64 * line < 2 ^ 52) (hon : s.dc.state = .run ∨ s.dc.state = .maint)
  (hidle : s.dc.op = none) (hlink : s.hl.attach ≠ .hold) (hwt : s.dc.wt = [])
include h hscope hhpa hlt hon hidle hlink hwt

/-- The operation starts, and nothing else of the cache, of HBM or of what is sent has changed yet. -/
theorem dcCmd_by_address {op : Nat} (hop : c.par 0 1 = op) :
    ∃ (t : State) (o : DcOp), s.dcCmd src op = t.dcOpStep ∧ t.dc = { s.dc with op := some o } ∧ t.out = s.out ∧ t.hbm = s.hbm
      ∧ o.op = op ∧ o.bySet = false ∧ o.line = line ∧ o.wts = [] ∧ o.cmd = some c := by
  have hservable : ¬(s.dc.op.isSome = true ∨ (s.dc.state ≠ .run ∧ s.dc.state ≠ .maint) ∨ s.hl.attach = .hold) := by
    simp [hidle, hlink]
    tauto
  have hgood : ¬(64 * line % 64 ≠ 0 ∨ 2 ^ 52 ≤ 64 * line) := by omega
  have hline : 64 * line / 64 = line := by omega
  obtain ⟨hdc, hout, hhbm⟩ := (s.running c).dcMaintRegs_frame op line (c.par 4 2) (c.par 6 2) (c.par 2 2)
  have hstart := dcOpStart_by_address (s := s.running c) hwt op line (c.par 4 2) (c.par 6 2) (c.par 2 2) c
  generalize (s.running c).dcMaintRegs op line (c.par 4 2) (c.par 6 2) (c.par 2 2) = t at *
  refine ⟨t.setDc { s.dc with op := some ⟨op, false, line, c.par 4 2, c.par 6 2, c.par 2 2, [], some c⟩ }, _,
    Eq.trans ?_ hstart, rfl, hout, hhbm, rfl, rfl, rfl, rfl, rfl⟩
  rw [dcCmd, withCmd_of_waiting h]
  simp only [hscope, hhpa, hop, hline, hservable, hgood]
  simp

/-- A CLEAN removes no line. -/
theorem dcCmd_clean (hop : c.par 0 1 = 1) :
    ∃ u : State, s.dcCmd src 1 = u.complete c 0 ∧ u.dc.lines = s.dc.lines ∧ u.dc.op = none ∧ u.out = s.out := by
  obtain ⟨t, o, hstart, hdc, hout, -, hclean, haddr, -, hwts, hcmd⟩ :=
    dcCmd_by_address h hscope hhpa hlt hon hidle hlink hwt hop
  have hhits := dcOpHits_of_clean hclean t
  obtain ⟨u, hend, hlines, hdone, hout', -⟩ := dcOpStep_ends (t := t) (congrArg DcSt.op hdc) haddr hwts hcmd (by simp [hhits])
    (congrArg DcSt.op hdc) hhits
  exact ⟨u, hstart.trans hend, hlines.trans (by rw [hdc]), hdone, hout'.trans hout⟩

/-- Another operation removes the line it names; here the buffer of evictions has room for it. -/
theorem dcCmd_remove {op k : Nat} {l : DLine} (hop : c.par 0 1 = op) (hremove : op ≠ 1) (hlines : s.dc.lines = [(k, l)])
    (hl : l.line = line) (hevb : s.dc.evb = []) :
    ∃ u : State, s.dcCmd src op = u.complete c 0 ∧ u.dc.lines = [] ∧ u.dc.op = none ∧ u.hbm = s.hbm := by
  obtain ⟨t, o, hstart, hdc, -, hhbm, rfl, haddr, rfl, hwts, hcmd⟩ :=
    dcCmd_by_address h hscope hhpa hlt hon hidle hlink hwt hop
  have hhits : t.dcOpHits o = [(k, l)] := by
    rw [dcOpHits_of_remove hremove haddr, hdc]
    simp [hlines, hl]
  have hevicted : (t.dcEvict k).dc = { t.dc with lines := [], evb := [l.line] } := by
    rw [dcEvict_dc (l := l) (by simp [hdc, hlines, tfind]), hdc]
    simp [hlines, hevb, tdel]
  obtain ⟨u, hend, hgone, hdone, -, hhbm'⟩ := dcOpStep_ends (t := t.dcEvict k) (congrArg DcSt.op hdc) haddr hwts hcmd
    (by simp [hhits, hdc, hevb]) (by simp [hevicted, hdc])
    (by simp [dcOpHits_of_remove hremove haddr, hevicted])
  exact ⟨u, hstart.trans hend, hgone.trans (by rw [hevicted]), hdone, hhbm'.trans ((dcEvict_hbm t k).trans hhbm)⟩

end

end State

/-! ### One bit of a register -/

theorem b2n_le_one (b : Bool) : b2n b ≤ 1 := by cases b <;> decide

/-- A register with one bit replaced: what stands above the bit, the bit, and what stands below. -/
theorem toNat_putBits_bit (w : Word) {i : Nat} (hi : i < 32) (b : Bool) :
    (putBits w i i (b2n b)).toNat = 2 ^ i * (2 * (w.toNat / 2 ^ (i + 1)) + b2n b) + w.toNat % 2 ^ i := by
  have hquot : w.toNat = 2 ^ i * (w.toNat / 2 ^ i) + w.toNat % 2 ^ i := (Nat.div_add_mod ..).symm
  have hhigh : w.toNat / 2 ^ (i + 1) = w.toNat / 2 ^ i / 2 := by rw [Nat.pow_succ, Nat.div_div_eq_div_mul]
  have hb := b2n_le_one b
  have htop : w.toNat / 2 ^ (i + 1) < 2 ^ (31 - i) := Nat.div_lt_of_lt_mul (by
    rw [← Nat.pow_add, show i + 1 + (31 - i) = 32 by omega]
    exact w.isLt)
  have hdouble : 2 ^ (32 - i) = 2 * 2 ^ (31 - i) := by rw [show 32 - i = 31 - i + 1 by omega, Nat.pow_succ']
  have hsize : 2 ^ i * (2 * (w.toNat / 2 ^ (i + 1)) + b2n b) + w.toNat % 2 ^ i < 2 ^ 32 :=
    calc _ < 2 ^ i * (2 * (w.toNat / 2 ^ (i + 1)) + b2n b + 1) := Nat.add_lt_add_left (Nat.mod_lt _ (Nat.two_pow_pos i)) _
      _ ≤ 2 ^ i * 2 ^ (32 - i) := Nat.mul_le_mul_left _ (by omega)
      _ = 2 ^ 32 := by rw [← Nat.pow_add, Nat.add_sub_cancel' hi.le]
  have hsplit : 2 ^ i * (w.toNat / 2 ^ i) = 2 ^ i * (2 * (w.toNat / 2 ^ i / 2)) + 2 ^ i * (w.toNat / 2 ^ i % 2) := by
    rw [← Nat.mul_add, Nat.div_add_mod]
  have hone : i + 1 - i = 1 := by omega
  rw [putBits, bitsOf, hone, BitVec.toNat_ofNat, ← Nat.mod_eq_of_lt hsize, hhigh]
  congr 1
  rw [pow_one, Nat.mod_eq_of_lt (Nat.lt_succ_of_le hb), Nat.mul_add, Nat.mul_comm (b2n b), Nat.mul_comm (_ % 2)]
  omega

theorem bitOf_eq_testBit (v i : Nat) : bitOf v i = v.testBit i := by
  rw [bitOf, Nat.testBit_eq_decide_div_mod_eq]

/-- The bit reads back as written, and the others stay. -/
theorem bitOf_putBits (w : Word) {i : Nat} (hi : i < 32) (b : Bool) (j : Nat) :
    bitOf (putBits w i i (b2n b)).toNat j = if j = i then b else bitOf w.toNat j := by
  have hw : w.toNat = 2 ^ i * (w.toNat / 2 ^ i) + w.toNat % 2 ^ i := (Nat.div_add_mod ..).symm
  have hlow : w.toNat % 2 ^ i < 2 ^ i := Nat.mod_lt _ (Nat.two_pow_pos i)
  rw [bitOf_eq_testBit, bitOf_eq_testBit, toNat_putBits_bit w hi, Nat.testBit_two_pow_mul_add _ hlow]
  rcases lt_trichotomy j i with hlt | rfl | hgt
  · rw [if_pos hlt, if_neg hlt.ne, Nat.testBit_mod_two_pow]
    simp [hlt]
  · cases b <;> simp [b2n]
  · obtain ⟨k, rfl⟩ := Nat.exists_eq_add_of_lt hgt
    have hsub : i + k + 1 - i = k + 1 := by omega
    rw [if_neg hgt.not_gt, if_neg hgt.ne', hsub, Nat.testBit_succ]
    have hb := b2n_le_one b
    rw [show (2 * (w.toNat / 2 ^ (i + 1)) + b2n b) / 2 = w.toNat / 2 ^ (i + 1) by omega, Nat.testBit_div_two_pow]
    congr 1
    omega

namespace State

/-! ### Bias (R450) -/

theorem granuleHost_setBit (s : State) (k : Nat) (host : Bool) (g : Nat) :
    (s.setBit (Reg.HL_BIAS (k / 32)) (k % 32) host).granuleHost g = if g = k then host else s.granuleHost g := by
  have hbit := bitOf_putBits (s.cfg (Reg.HL_BIAS (k / 32))) (Nat.mod_lt k (by decide)) host (g % 32)
  simp only [granuleHost, bit, cfg_setBit]
  by_cases hreg : g / 32 = k / 32
  · have hsame : g = k ↔ g % 32 = k % 32 := by omega
    simp only [hreg, if_true, hbit, hsame]
  · have hother : Reg.HL_BIAS (g / 32) ≠ Reg.HL_BIAS (k / 32) := by
      simp only [Reg.HL_BIAS]
      omega
    have hne : g ≠ k := fun h => hreg (h ▸ rfl)
    rw [if_neg hother, if_neg hne]

/-- After a change of bias, the granules of the run are as written and the others as they were. -/
theorem granuleHost_setBias (s : State) (first count : Nat) (host : Bool) (g : Nat) :
    (s.setBias first count host).granuleHost g = if first ≤ g ∧ g < first + count then host else s.granuleHost g := by
  induction count with
  | zero => simp [setBias]
  | succ n ih =>
    have hlast : s.setBias first (n + 1) host
        = (s.setBias first n host).setBit (Reg.HL_BIAS ((first + n) / 32)) ((first + n) % 32) host := by
      simp [setBias, List.range_succ]
    have hrun : first ≤ g ∧ g < first + (n + 1) ↔ g = first + n ∨ first ≤ g ∧ g < first + n := by omega
    rw [hlast, granuleHost_setBit, ih]
    by_cases hg : g = first + n
    · simp [hg]
    · simp [hg, hrun]

@[simp] theorem setBias_frame (s : State) (first count : Nat) (host : Bool) :
    (s.setBias first count host).cores = s.cores ∧ (s.setBias first count host).hbm = s.hbm
      ∧ (s.setBias first count host).hl = s.hl :=
  List.foldlRecOn (motive := fun t : State => t.cores = s.cores ∧ t.hbm = s.hbm ∧ t.hl = s.hl) _ _ ⟨rfl, rfl, rfl⟩
    fun _ h _ _ => by simpa using h

end State

/-! ### Rows on the cache and on bias -/

theorem answers_of_complete {i : Instr} {s t : State} {c : Cmd} {status : Nat} {P : State → Prop} (hrow : exec i s = done t)
    (h : ∃ u : State, t = u.complete c status ∧ P u) : Claims.Answers i s c status P := by
  obtain ⟨u, rfl, hP⟩ := h
  exact ⟨u, 0, 0, hrow, hP⟩

section
variable {i : Instr} {s : State} {src : CmdSrc} {c : Cmd} {scope : Nat} {old new : DcState}
  (h : Claims.Waiting s src 0x0008 c) (hrow : exec i s = done (s.dcMode src scope old new)) (hidle : s.dc.op = none)
  (hscope : c.par 1 1 = scope)
include h hrow hidle hscope

theorem dcMode_moves (hstate : s.dc.state = old) (hinit : old ≠ .init) :
    Claims.Answers i s c 0 fun u => u = { s with dc := { s.dc with state := new } } :=
  answers_of_waiting h hrow (detail := 0) (flags := 0) (by simp [hscope, hidle, hstate, hinit, State.setDc]) rfl

theorem dcMode_refuses (hstate : s.dc.state ≠ old) (hinit : s.dc.state ≠ .init) :
    Claims.Answers i s c 6 fun u => u = s :=
  answers_of_waiting h hrow (detail := s.dc.state.code) (flags := 0) (by simp [hscope, hidle, hstate, hinit]) rfl

end

section
variable {s : State} {src : CmdSrc} {c : Cmd} {first n : Nat} (h : Claims.Waiting s src 0x0009 c) (hfirst : c.par 0 4 = first)
  (hn : c.par 4 4 = n) (hpos : 0 < n) (hend : first + n ≤ 196608) (hopen : s.coh.open_ = []) (hwaiting : s.coh.waiting = [])
  (hfree : s.hl.bias = none) {P : State → Prop}
include h hfirst hn hpos hend hopen hwaiting hfree

/-- Granules that no core cache has lines of go to the host at once. -/
theorem biasSet_to_host (hhost : bitOf (c.par 8 1) 0 = true)
    (hhdm : ∀ g, first ≤ g → g < first + n → s.granuleInHdm g = true) (hnone : s.biasLines first n = [])
    (hP : P (s.setBias first n true)) :
    Claims.Answers (.biasSet src) s c 0 P := by
  have hall : ((List.range n).map (· + first)).all s.granuleInHdm = true := by
    simp only [List.all_map, List.all_eq_true, List.mem_range, Function.comp]
    exact fun x hx => hhdm _ (by omega) (by omega)
  have hpulled : (s.biasLines first n).foldl (fun s l => s.pull l true) s = s := by rw [hnone]; rfl
  refine ⟨_, 0, 0, ?_, hP⟩
  change execBiasSet src s = _
  simp only [execBiasSet, hfree, State.withCmd_of_waiting h, done_eq]
  simp [hfirst, hn, hhost, hall, hpulled, hopen, hwaiting, hpos.ne', hend.not_gt]

/-- Granules that are in DEVICE bias are done. -/
theorem biasSet_to_device (hdev : bitOf (c.par 8 1) 0 = false)
    (haway : ∀ g, first ≤ g → g < first + n → s.granuleHost g = false) :
    Claims.Answers (.biasSet src) s c 0 fun u => u = s := by
  have hnone : ((List.range n).map (· + first)).filter s.granuleHost = [] := by
    simp only [List.filter_eq_nil_iff, List.mem_map, List.mem_range]
    rintro g ⟨x, hx, rfl⟩
    simp [haway (x + first) (by omega) (by omega)]
  refine ⟨s, 0, 0, ?_, rfl⟩
  change execBiasSet src s = _
  simp only [execBiasSet, hfree, State.withCmd_of_waiting h, done_eq]
  simp [hfirst, hn, hdev, hnone, hopen, hwaiting, hpos.ne', hend.not_gt]

end

/-- The event of a flush under way ends it. -/
theorem biasSet_flushed {s : State} {src : CmdSrc} {b : BiasRun} (hrun : s.hl.bias = some b) (hsrc : b.cmd.src = src)
    (hlink : s.hl.attach = .attached) (hfatal : s.sump.fatal = false) {P : State → Prop}
    (hP : P (State.setBias { s with hl := { s.hl with bias := none } } b.first b.count false)) :
    Claims.Answers (.biasSet src) s b.cmd 0 P := by
  refine ⟨_, 0, 0, ?_, hP⟩
  change execBiasSet src s = _
  unfold execBiasSet
  simp only [hrun]
  exact when_of _ _ _ (by simp [hsrc, hlink, hfatal])

/-- Settles O35: a maintenance operation by address ends at once (`State.dcCmd_clean`, `State.dcCmd_remove`), a change of mode is
one write or a refusal (`dcMode_moves`, `dcMode_refuses`), and a change of bias is read back granule by granule
(`State.granuleHost_setBias`). -/
theorem cacheAndBiasCommands : Obligations.CacheAndBiasCommands := by
  refine ⟨fun s src c line h hidle hlink => ⟨fun hscope hhpa hlt hon hwt => ⟨fun hop => ?_, ?_⟩, ?_⟩,
    fun s src c first n h hfirst hn hpos hend hopen hwaiting hfree => ⟨fun hhost hhdm hnone => ?_, fun hdev haway => ?_⟩,
    fun s src b hrun hsrc hlink hfatal _ => ?_⟩
  · exact answers_of_complete rfl (State.dcCmd_clean h hscope hhpa hlt hon hidle hlink hwt hop)
  · intro i k l hi hlines hl hevb _
    have hremove {op : Nat} (hne : op ≠ 1) (hop : c.par 0 1 = op) :=
      State.dcCmd_remove h hscope hhpa hlt hon hidle hlink hwt hop hne hlines hl hevb
    simp only [List.mem_cons, Prod.mk.injEq, List.not_mem_nil, or_false] at hi
    obtain ⟨rfl, hop⟩ | ⟨rfl, hop⟩ := hi <;> exact answers_of_complete rfl (hremove (by decide) hop)
  · intro i scope old new hi hscope
    simp only [List.mem_cons, Prod.mk.injEq, List.not_mem_nil, or_false] at hi
    obtain ⟨rfl, rfl, rfl, rfl⟩ | ⟨rfl, rfl, rfl, rfl⟩ := hi <;>
      exact ⟨fun hstate => dcMode_moves h rfl hidle hscope hstate (by decide), dcMode_refuses h rfl hidle hscope⟩
  · refine biasSet_to_host h hfirst hn hpos hend hopen hwaiting hfree hhost hhdm hnone ⟨fun g _ => ?_, by simp, by simp⟩
    rw [State.granuleHost_setBias]
    split_ifs with hg <;> simp [hg]
  · exact biasSet_to_device h hfirst hn hpos hend hopen hwaiting hfree hdev haway
  · refine biasSet_flushed hrun hsrc hlink hfatal ⟨fun g _ => ?_, by simp⟩
    rw [State.granuleHost_setBias]
    change (if _ then false else s.granuleHost g) = _
    split_ifs with hg <;> simp [hg]

end Sys2Proof.Machine


namespace Sys2Proof.Machine

/-!
Messages of core caches at the home (R317 to R319, R321, R328). A message with the current epoch is taken and one with another
epoch is dropped (`when_fresh`, `when_stale`). A request that needs no snoop is served at once, and what it then sends is one Grant
with its transaction left open (`State.grantOpen`, `State.granted_grantOpen`). The messages that send none move one entry of the
core cache, of which is said once what a put, a removal and a merge leave (`Core.ccLine_ccPut`, `State.ccRemove_of_ccLine`,
`State.sLine_mergeM`).
-/

/-! ### A line that a core cache holds -/

/-- A read of a table gives the default or the value of an entry. -/
theorem tget_of_forall {α : Type} {P : α → Prop} {d : Nat → α} {t : Tbl α} {k : Nat} (hd : P (d k)) (h : ∀ e ∈ t, P e.2) :
    P (tget d t k) := by
  induction t with
  | nil => exact hd
  | cons e t ih =>
    rw [tget]
    split
    · exact h e (by simp)
    · exact ih fun f hf => h f (by simp [hf])

theorem Core.ccKey_of_ccLine {k : Core} {n : Nat} {l : CLine} (h : k.ccLine n = some l) :
    ∃ i, k.ccKey n = some i ∧ tfind k.cc i = some l := by
  simpa [ccLine, Option.bind_eq_some_iff] using h

/-- A put of the line at its own key changes at no key whether the line stands there. -/
theorem Core.ccKey_ccPut {k : Core} {n i : Nat} {m : CLine} (hkey : k.ccKey n = some i) (hm : m.line = n) :
    (k.ccPut i m).ccKey n = some i := by
  have hi := List.find?_some hkey
  rw [← hkey]
  unfold ccKey
  congr 1
  funext j
  by_cases hj : j = i
  · simp [ccPut, hj, hm, hi]
  · simp [ccPut, hj]

theorem Core.ccLine_ccPut {k : Core} {n i : Nat} {m : CLine} (hkey : k.ccKey n = some i) (hm : m.line = n) :
    (k.ccPut i m).ccLine n = some m := by
  rw [ccLine, ccKey_ccPut hkey hm]
  simp [ccPut]

theorem Core.ccLine_ccTouch (k : Core) (i n : Nat) : (k.ccTouch i).ccLine n = k.ccLine n := rfl

namespace State

/-- A core without an entry of its own holds nothing, and one with an entry would be among the holders (R315). -/
theorem ccLine_of_no_holders {s : State} {n : Nat} (h : s.holders n = []) (c : Nat) : (s.core c).ccLine n = none := by
  have hnone : ∀ e ∈ s.cores, e.2.ccLine n = none := by simpa [holders, List.filterMap_eq_nil_iff] using h
  have hempty : ({} : Core).ccLine n = none := by simp [Core.ccLine, Core.ccKey, tfind]
  exact tget_of_forall (P := fun k : Core => k.ccLine n = none) hempty hnone

theorem ccRemove_of_key {s : State} {c line i : Nat} (h : (s.core c).ccKey line = some i) :
    s.ccRemove c line = s.modCore c fun k => k.ccDrop i := by
  simp [ccRemove, h]

/-- The entry of a line that a core cache drops is empty. -/
theorem tfind_ccRemove {s : State} {c line i : Nat} (h : (s.core c).ccKey line = some i) :
    tfind ((s.ccRemove c line).core c).cc i = none := by
  simp [ccRemove_of_key h, Core.ccDrop]

@[simp] theorem ccRemove_slice_coh (s : State) (c line : Nat) :
    (s.ccRemove c line).slice = s.slice ∧ (s.ccRemove c line).coh = s.coh := by
  unfold ccRemove
  split <;> simp

/-- A write into a line that the core cache holds stays at its key. -/
theorem ccInstall_of_key {s : State} {c line i : Nat} (h : (s.core c).ccKey line = some i) (st : Mesi) (d : List Byte)
    (poison : Nat) :
    s.ccInstall c line st d poison = s.modCore c fun k => (k.ccPut i ⟨line, st, d, poison⟩).ccTouch i := by
  simp [ccInstall, h]

theorem ccLine_ccInstall_of_key {s : State} {c line i : Nat} (h : (s.core c).ccKey line = some i) (st : Mesi)
    (d : List Byte) (poison : Nat) :
    ((s.ccInstall c line st d poison).core c).ccLine line = some ⟨line, st, d, poison⟩ := by
  rw [ccInstall_of_key h, core_modCore, if_pos rfl, Core.ccLine_ccTouch, Core.ccLine_ccPut h rfl]

/-- Data of an M copy replaces the slice line's and makes it dirty (R319). -/
theorem mergeM_hit {s : State} {line i : Nat} {l : SLine} (hkey : s.sKey line = some i) (hline : s.sLine line = some l)
    (d : List Byte) (poison : Nat) :
    s.mergeM line d poison = s.sPut i { l with data := d, dirty := true, poison := poison } := by
  simp [mergeM, hkey, hline]

@[simp] theorem mergeM_frame (s : State) (line : Nat) (d : List Byte) (poison : Nat) :
    (s.mergeM line d poison).cores = s.cores ∧ (s.mergeM line d poison).hbm = s.hbm
      ∧ (s.mergeM line d poison).coh = s.coh := by
  unfold mergeM
  split
  · exact ⟨rfl, rfl, rfl⟩
  · simp

@[simp] theorem core_mergeM (s : State) (line : Nat) (d : List Byte) (poison c : Nat) :
    (s.mergeM line d poison).core c = s.core c := by
  simp [core]

theorem sLine_mergeM {s : State} {line : Nat} {l : SLine} (hline : s.sLine line = some l) (d : List Byte) (poison : Nat) :
    (s.mergeM line d poison).sLine line = some { l with data := d, dirty := true, poison := poison } := by
  obtain ⟨i, hkey, -⟩ := sKey_of_sLine hline
  rw [mergeM_hit hkey hline]
  exact sLine_sPut hkey (line_of_sLine hline : l.line = line)

/-! ### Grants (R318, R319) -/

@[simp] theorem sTouch_coh_sump (s : State) (line hint cls : Nat) :
    (s.sTouch line hint cls).coh = s.coh ∧ (s.sTouch line hint cls).sump = s.sump := by
  unfold sTouch
  split
  · dsimp only
    split <;> exact ⟨rfl, rfl⟩
  · exact ⟨rfl, rfl⟩

theorem isSome_sLine_sTouch {s : State} {line : Nat} {l : SLine} (h : s.sLine line = some l) (hint cls : Nat) :
    ((s.sTouch line hint cls).sLine line).isSome = true := by
  obtain ⟨use, keep, htouch⟩ := sLine_sTouch (hint := hint) (cls := cls) h
  simp [htouch]

theorem sliceFor_hit {s : State} {line : Nat} {l : SLine} (hline : s.sLine line = some l) (hclean : l.poison = 0)
    (hint cls : Nat) :
    s.sliceFor line hint cls = ((l.data, false), (s.bump (Reg.SC_HIT_CNT (homeOf line))).sTouch line hint cls) := by
  simp [sliceFor, hline, hclean]

/-- A transaction is granted clean data: its Grant sets out and it stays open until the Ack. -/
def grantOpen (s : State) (t : Txn) (st : Mesi) (d : List Byte) : State :=
  (s.setCoh { s.coh with open_ := s.coh.open_ ++ [{ t with granted := true }] }).grant t st d 0

/-- What served the request before the Grant has left transactions, HBM and reports alone. -/
theorem granted_grantOpen {s u : State} {t : Txn} {c : Nat} (hcore : t.core = some c) (hcoh : u.coh = s.coh)
    (hhbm : u.hbm = s.hbm) (hsump : u.sump = s.sump) (st : Mesi) (d : List Byte) :
    Claims.Granted s (u.grantOpen t st d) ⟨c, t.line, st, d, 0, t.off, t.data⟩ := by
  refine ⟨by simp [grantOpen, grant, hcoh, hcore], ⟨{ t with granted := true }, ?_, rfl, hcore, rfl⟩, ?_, ?_⟩
  · simp [grantOpen, grant]
  · simpa [grantOpen, grant] using hhbm
  · simpa [grantOpen, grant] using hsump

section
variable {s v : State} {t : Txn} {l : SLine} (hclose : s.closeTxn t.line = v) (hline : v.sLine t.line = some l)
include hclose hline

theorem serveTxn_rdS (hkind : t.kind = .rdS) (hclean : l.poison = 0) (hfree : v.holders t.line = []) :
    s.serveTxn t = ((v.bump (Reg.SC_HIT_CNT (homeOf t.line))).sTouch t.line t.hint t.cls).grantOpen t .e l.data := by
  have halone : s.holders t.line = [] := by rwa [← hclose] at hfree
  have hkept := isSome_sLine_sTouch (s := v.bump (Reg.SC_HIT_CNT (homeOf t.line))) (by simpa using hline) t.hint t.cls
  rw [closeTxn] at hclose
  simp only [serveTxn, grantOpen, hkind, hclose, sliceFor_hit hline hclean, halone, Option.isNone_eq_false_iff.mpr hkept]
  simp

theorem serveTxn_rdO (hkind : t.kind = .rdO) (hclean : l.poison = 0) :
    s.serveTxn t = ((v.bump (Reg.SC_HIT_CNT (homeOf t.line))).sTouch t.line t.hint t.cls).grantOpen t .m l.data := by
  have hkept := isSome_sLine_sTouch (s := v.bump (Reg.SC_HIT_CNT (homeOf t.line))) (by simpa using hline) t.hint t.cls
  rw [closeTxn] at hclose
  simp only [serveTxn, grantOpen, hkind, hclose, sliceFor_hit hline hclean, Option.isNone_eq_false_iff.mpr hkept]
  simp

theorem serveTxn_ownND (hkind : t.kind = .ownND) :
    s.serveTxn t = (v.sTouch t.line t.hint t.cls).grantOpen t .m t.data := by
  have hkept := isSome_sLine_sTouch hline t.hint t.cls
  rw [closeTxn] at hclose
  simp only [serveTxn, grantOpen, hkind, hclose, hline, Option.isSome_some, if_true, hkept]

end

/-- An upgrade of the only copy needs no snoop. -/
theorem snoopsOf_upg_of_sole_holder {s : State} {t : Txn} {c : Nat} (hkind : t.kind = .upg) (hcore : t.core = some c)
    (hsole : s.holders t.line = [c]) : s.snoopsOf t = [] := by
  simp [snoopsOf, hkind, hcore, hsole]

/-- It is granted the data of that copy, and its transaction, just opened, stays open. -/
theorem granted_serveTxn_upg {s : State} {t : Txn} {c : Nat} {k : CLine} (hkind : t.kind = .upg) (hcore : t.core = some c)
    (hcopy : (s.core c).ccLine t.line = some k) (hclean : k.poison = 0) :
    Claims.Granted s ((s.setCoh { s.coh with open_ := s.coh.open_ ++ [t] }).serveTxn t)
      ⟨c, t.line, .m, k.data, 0, t.off, t.data⟩ := by
  have hcopy' : ((s.setCoh { s.coh with open_ := s.coh.open_ ++ [t] }).core c).ccLine t.line = some k := hcopy
  simp only [serveTxn, hkind, hcore, Option.getD_some, hcopy', hclean]
  exact ⟨by simp [grant, hcore], ⟨{ t with granted := true }, by simp [grant, hkind, hcore], rfl, hcore, rfl⟩, rfl, rfl⟩

/-! ### Epochs (R328) -/

/-- A message whose epoch is not the current one is counted, recorded and reported. -/
def staleDropped (s : State) (c : Nat) (e : Byte) : State :=
  ((s.bump (Reg.DIR_STALE_CNT (c / 26))).setCfg (Reg.DIR_STALE (c / 26))
    (BitVec.ofNat 32 (2 ^ 31 + c % 26 * 65536 + e.toNat))).raise (srcRegion (c / 26) 1) 0x202 none 6 (c % 26)

theorem staleDropped_frame (s : State) (c : Nat) (e : Byte) :
    (s.staleDropped c e).cores = s.cores ∧ (s.staleDropped c e).slice = s.slice ∧ (s.staleDropped c e).coh = s.coh
      ∧ (s.staleDropped c e).hbm = s.hbm ∧ (s.staleDropped c e).hbmBad = s.hbmBad := by
  simp [staleDropped]

theorem ctr_staleDropped (s : State) (c : Nat) (e : Byte) :
    (s.staleDropped c e).ctr (Reg.DIR_STALE_CNT (c / 26)) = Claims.plus s (Reg.DIR_STALE_CNT (c / 26)) 1 := by
  rw [staleDropped, ctr_raise_at, ctr_setCfg, ctr_bump, if_pos rfl, Claims.plus]

theorem cfg_staleDropped (s : State) (c : Nat) (e : Byte) :
    (s.staleDropped c e).cfg (Reg.DIR_STALE (c / 26)) = BitVec.ofNat 32 (2 ^ 31 + c % 26 * 65536 + e.toNat) := by
  rw [staleDropped, cfg_raise, cfg_setCfg, if_pos rfl]

theorem reported_staleDropped (s : State) (c : Nat) (e : Byte) :
    Claims.Reported s (s.staleDropped c e) (srcRegion (c / 26) 1) 0x202 :=
  reported_congr (reported_raise_region _ _ _ _ _ _ _ _) (by simp) rfl

end State

section
variable {s : State} {c : Fin 104} {e : Byte} {b : Bool} {f : State → State} (hb : b = true)
include hb

theorem when_fresh (h : Claims.Fresh s c e) : when b (fun s => s.fresh c e f) s = .next (f s) :=
  (when_of _ _ _ hb).trans (congrArg _ (if_pos h))

theorem when_stale (h : ¬ Claims.Fresh s c e) : when b (fun s => s.fresh c e f) s = .next (s.staleDropped c e) :=
  (when_of _ _ _ hb).trans (congrArg _ (if_neg h))

end

/-! ### The messages -/

/-- The bytes of a write that ends within its line are all taken. -/
theorem take_of_fits {off : Nat} {bs : List Byte} (h : off + bs.length ≤ 128) : bs.take (128 - off) = bs :=
  List.take_of_length_le (by omega)

section
variable {s : State} {c : Fin 104} {e : Byte} {line : Fin 4294967296} {l : SLine} (h : Claims.Held s line l)
  (hfresh : Claims.Fresh s c e)
include h hfresh

theorem exec_rds_held (hfree : s.holders line = []) (hint : Fin 4) :
    Claims.Completes (.rds c e (.hbm line) hint .clean) s fun t => Claims.Granted s t ⟨c, line, .e, l.data, 0, 0, []⟩ := by
  obtain ⟨hfatal, hpop, hline, hclean, -⟩ := id h
  obtain ⟨u, hserve, hclose⟩ := blockRequest_held
    (t := { line := line, kind := .rdS, core := some c, hint := hint, cls := s.coreCls c }) h hfree rfl
  refine ⟨_, (when_fresh (by simp [hfatal]) hfresh : execRds c e (.hbm line) hint .clean s = _), ?_⟩
  simp only [State.ccLine_of_no_holders hfree, hpop, State.sliceErr_clean, Option.isSome_none, Bool.not_true, Bool.or_self,
    Bool.false_eq_true, if_false]
  rw [hserve, State.serveTxn_rdS hclose hline rfl hclean hfree]
  exact State.granted_grantOpen rfl (by simp) (by simp) (by simp) _ _

theorem exec_rdo_held (hfree : s.holders line = []) (hint : Fin 4) {off : Fin 128} {bs : List Byte}
    (hfits : off.val + bs.length ≤ 128) :
    Claims.Completes (.rdo c e line hint off bs .clean) s fun t =>
      Claims.Granted s t ⟨c, line, .m, l.data, 0, off, bs⟩ := by
  obtain ⟨hfatal, hpop, hline, hclean, -⟩ := id h
  obtain ⟨u, hserve, hclose⟩ := blockRequest_held
    (t := { line := line, kind := .rdO, core := some c, hint := hint, cls := s.coreCls c, off := off, data := bs }) h hfree rfl
  refine ⟨_, (when_fresh (by simp [hfatal, hpop]) hfresh : execRdo c e line hint off bs .clean s = _), ?_⟩
  simp only [State.ccLine_of_no_holders hfree, State.sliceErr_clean, Option.isSome_none, Bool.false_eq_true, if_false, take_of_fits hfits]
  rw [hserve, State.serveTxn_rdO hclose hline rfl hclean]
  exact State.granted_grantOpen rfl (by simp) (by simp) (by simp) _ _

theorem exec_ownnd_held (hfree : s.holders line = []) (hint : Fin 4) {bs : List Byte} (hwhole : bs.length = 128) :
    Claims.Completes (.ownnd c e line hint bs) s fun t => Claims.Granted s t ⟨c, line, .m, bs, 0, 0, bs⟩ := by
  obtain ⟨hfatal, hpop, hline, -⟩ := id h
  obtain ⟨u, hserve, hclose⟩ := blockRequest_held
    (t := { line := line, kind := .ownND, core := some c, hint := hint, cls := s.coreCls c, data := bs }) h hfree rfl
  refine ⟨_, (when_fresh (by simp [hfatal, hpop, hwhole]) hfresh : execOwnnd c e line hint bs s = _), ?_⟩
  simp only [State.ccLine_of_no_holders hfree, Option.isSome_none, Bool.false_eq_true, if_false]
  rw [hserve, State.serveTxn_ownND hclose hline rfl]
  exact State.granted_grantOpen rfl (by simp) (by simp) (by simp) _ _

variable {k : CLine} (hcopy : (s.core c).ccLine line = some k)
include hcopy

theorem exec_upg_sole (hsole : s.holders line = [c.val]) (hst : k.st = .s) (hclean : k.poison = 0) {off : Fin 128}
    {bs : List Byte} (hfits : off.val + bs.length ≤ 128) :
    Claims.Completes (.upg c e line off bs) s fun t => Claims.Granted s t ⟨c, line, .m, k.data, 0, off, bs⟩ := by
  obtain ⟨hfatal, hpop, -, -, -, hblk, hstuck, hbias⟩ := id h
  have hserve := State.blockRequest_at_once
    (t := { line := line, kind := .upg, core := some c, cls := s.coreCls c, off := off, data := bs })
    hblk hstuck hbias (State.snoopsOf_upg_of_sole_holder rfl rfl hsole) rfl
  refine ⟨_, (when_fresh (by simp [hfatal, hpop]) hfresh : execUpg c e line off bs s = _), ?_⟩
  simp only [hcopy, Option.any_some, hst, ne_eq, not_true, decide_false, Bool.false_eq_true, if_false, take_of_fits hfits]
  rw [hserve]
  exact State.granted_serveTxn_upg rfl rfl hcopy hclean

theorem exec_dirtyn_exclusive (hst : k.st = .e) (hclean : k.poison = 0) {off : Fin 128} {bs : List Byte}
    (hfits : off.val + bs.length ≤ 128) :
    Claims.Completes (.dirtyn c e line off bs) s fun t =>
      (∃ m, (t.core c).ccLine line = some m ∧ m.st = .m ∧ m.data = if bs.length = 128 then bs else mergeAt k.data off bs)
        ∧ t.slice = s.slice ∧ t.coh = s.coh := by
  obtain ⟨hfatal, -⟩ := id h
  obtain ⟨i, hkey, -⟩ := Core.ccKey_of_ccLine hcopy
  refine ⟨_, (when_fresh (by simp [hfatal]) hfresh : execDirtyn c e line off bs s = _), ?_⟩
  simp only [hcopy, hst, if_true, take_of_fits hfits]
  refine ⟨⟨_, State.ccLine_ccInstall_of_key hkey _ _ _, rfl, ?_⟩, ?_⟩
  · by_cases hwhole : bs.length = 128 <;> simp [SLine.write, hwhole, hclean]
  · simp [State.ccInstall_of_key hkey]

theorem exec_evc_clean (hst : k.st ≠ .m) :
    Claims.Completes (.evc c e (.hbm line)) s fun t =>
      t.slice = s.slice ∧ t.hbm = s.hbm ∧ t.coh = s.coh
        ∧ tfind (t.core c).cc (((s.core c).ccKey line).getD 0) = none := by
  obtain ⟨hfatal, -⟩ := id h
  obtain ⟨i, hkey, -⟩ := Core.ccKey_of_ccLine hcopy
  have hlow : ¬ hostName 0 ≤ line.val := by
    simp only [hostName]
    omega
  refine ⟨_, (when_fresh (by simp [hfatal]) hfresh : execEvc c e (.hbm line) s = _), ?_⟩
  simp only [hcopy, Option.any_some, hst, ne_eq, not_false_eq_true, decide_true, if_true, if_neg hlow, hkey, Option.getD_some]
  simp [State.tfind_ccRemove hkey]

theorem exec_wbm_modified (hst : k.st = .m) (hclean : k.poison = 0) :
    Claims.Completes (.wbm c e line) s fun t =>
      t.sLine line = some { l with data := k.data, dirty := true, poison := 0 } ∧ t.hbm = s.hbm ∧ t.coh = s.coh
        ∧ tfind (t.core c).cc (((s.core c).ccKey line).getD 0) = none := by
  obtain ⟨hfatal, -, hline, -⟩ := id h
  obtain ⟨i, hkey, -⟩ := Core.ccKey_of_ccLine hcopy
  refine ⟨_, (when_fresh (by simp [hfatal]) hfresh : execWbm c e line s = _), ?_⟩
  have hline' : (s.ccRemove c line).sLine line = some l := by rwa [State.sLine_congr (s := s) (by simp)]
  simp only [hcopy, hst, if_true, hclean, hkey, Option.getD_some]
  exact ⟨State.sLine_mergeM hline' _ _, by simp, by simp, by simp [State.tfind_ccRemove hkey]⟩

end

/-- Every message of a core cache tests its epoch before it does anything. -/
theorem exec_stale {s : State} {c : Fin 104} {e : Byte} {line : Fin 4294967296} {off : Fin 128} {bs : List Byte} {h : Fin 4}
    {err : SliceErr} {i : Instr} (hstale : ¬ Claims.Fresh s c e) (hfatal : s.sump.fatal = false)
    (hpop : populated (128 * line.val) = true) (hwhole : bs.length = 128)
    (hi : i ∈ [.rds c e (.hbm line) h err, .rdo c e line h off bs err, .ownnd c e line h bs, .upg c e line off bs,
      .dirtyn c e line off bs, .evc c e (.hbm line), .wbm c e line]) :
    exec i s = .next (s.staleDropped c e) := by
  have halive : (!s.sump.fatal) = true := by simp [hfatal]
  have hserved : (!s.sump.fatal && populated (128 * line.val)) = true := by simp [hfatal, hpop]
  simp only [List.mem_cons, List.not_mem_nil, or_false] at hi
  obtain rfl | rfl | rfl | rfl | rfl | rfl | rfl := hi
  · exact (when_stale halive hstale : execRds c e (.hbm line) h err s = _)
  · exact (when_stale hserved hstale : execRdo c e line h off bs err s = _)
  · exact (when_stale (by simp [hserved, hwhole]) hstale : execOwnnd c e line h bs s = _)
  · exact (when_stale hserved hstale : execUpg c e line off bs s = _)
  · exact (when_stale halive hstale : execDirtyn c e line off bs s = _)
  · exact (when_stale halive hstale : execEvc c e (.hbm line) s = _)
  · exact (when_stale halive hstale : execWbm c e line s = _)

theorem coreCacheRequestsAtTheHome : Claims.coreCacheRequestsAtTheHome := by
  intro s c e line l h hfresh
  refine ⟨fun hfree => ⟨exec_rds_held h hfresh hfree, fun hint off bs => exec_rdo_held h hfresh hfree hint,
    fun hint bs => exec_ownnd_held h hfresh hfree hint⟩, fun k off bs hsole hcopy _ hclean hfits => ⟨?_, ?_, ?_, ?_⟩⟩
  · exact fun hst => exec_upg_sole h hfresh hcopy hsole hst hclean hfits
  · exact fun hst => exec_dirtyn_exclusive h hfresh hcopy hst hclean hfits
  · exact exec_evc_clean h hfresh hcopy
  · exact fun hst => exec_wbm_modified h hfresh hcopy hst hclean

theorem staleMessagesChangeNoLine : Claims.staleMessagesChangeNoLine := by
  intro s c e line off bs hint err i hstale hfatal hpop hwhole hi
  exact ⟨_, exec_stale hstale hfatal hpop hwhole hi, s.ctr_staleDropped c e, s.cfg_staleDropped c e, s.reported_staleDropped c e,
    s.staleDropped_frame c e⟩

/-- Settles O21: a request that needs no snoop is served on the state as it stood and leaves one Grant behind
(`State.granted_grantOpen`), and a stale message is one count, one record and one report (`exec_stale`). -/
theorem coreCacheMessages : Obligations.CoreCacheMessages :=
  ⟨coreCacheRequestsAtTheHome, staleMessagesChangeNoLine⟩

end Sys2Proof.Machine
